-- ==== Sys2Proof/Word.lean ====
section
/-! DEFINITION. The words of the block (R7, R8) and the sparse tables in which arrays of registers,
memories and queues of the block are held as plain data. -/

namespace Sys2Proof

abbrev Byte := BitVec 8
abbrev W16 := BitVec 16
abbrev W32 := BitVec 32
abbrev W64 := BitVec 64

/-- Bytes in ascending offset (R7). -/
abbrev Bytes := List Byte

/-- Bytes of a write with byte enables: `none` where the byte is not enabled (R374). -/
abbrev Masked := List (Option Byte)

/-- A posted write of a BAR: what it carries, and `ep` where it is poisoned (R374). -/
structure Posted (α : Type) where
  data : α
  ep : Bool
deriving DecidableEq, Repr

/-- A sparse table: keys strictly rising, no entry equal to what an unlisted key reads as. -/
abbrev FMap (α : Type) := List (Nat × α)

end Sys2Proof
end

