-- ==== Sys2Proof/Syntax.lean ====
section
/-! DEFINITION. The commands of the block: one constructor for each row of spec/opcode_table.json, with the row's operands.
An operand names a command in flight by the model's number of it, a unit by its index (R25), a register write by its
value and byte enables (R496), or carries what a partner sent (data of a read, a response, a pin). A posted write of a
BAR says whether it is poisoned (R374). -/

namespace Sys2Proof

/-- What a read of memory outside the block brought back: bytes, poison, or a translation or access that failed (R121). -/
inductive ReadBack where
  | data (b : Bytes)
  | poison
  | failed
deriving DecidableEq, Repr

/-- A SIMT or press instruction reached by one path of a group: the path is the set of threads whose program counter
equals that of `lane` (R207); `bits` are bits [63:8] of the instruction word, its opcode being the row's (R214, R179). -/
structure Issue where
  launch : Nat
  team : Nat
  group : Nat
  lane : Nat
  bits : BitVec 56
deriving DecidableEq, Repr

/-- Result of an ATS Translation Request (R314): success with the first physical page and the permissions of a page of 2^log2 times 4 KiB
(R312), or denied. -/
inductive XlatResult where
  | success (ppn : Nat) (r w : Bool) (log2 : Nat)
  | denied
deriving DecidableEq, Repr

/-- State of a 64-B half toward the host (R378). -/
inductive HostState where
  | I | S | E | M
deriving DecidableEq, Repr

/-- Status of a sector of a port read (R302). -/
inductive SectorStatus where
  | ok | corr | ue | poison
deriving DecidableEq, Repr

/-- Unit named by a fault record (R428): KIND and INDEX. -/
structure Loc where
  kind : Nat
  index : Nat
deriving DecidableEq, Repr

/-- A fault report on its way to the collector (R426, R427, R510). `owner` is the model's number of the command that the
fault ends, whose DETAIL the record gives (R432). -/
structure Report where
  source : Nat
  ctx : Option Nat
  loc : Loc
  addr : Option Nat
  info : W64
  blame : Option Nat
  owner : Option Nat
  injected : Bool
deriving DecidableEq, Repr

/-- The four rungs of the reset ladder that the block completes itself (R453 to R457). -/
inductive ResetKind where
  | context | cluster | partition | block
deriving DecidableEq, Repr

/-- Configuration requests that the model tells apart (R370 to R372, R383, R385, R387, R388, R318). -/
inductive CfgReq where
  | read (reg : Nat)
  | command (mse bme intxDisable : Bool)
  | msixControl (enable functionMask : Bool)
  | msixMask (vec : Nat) (mask : Bool)
  | linkControl (aspmL1 l0p : Bool)
  | priStatusClear
  | priAllocation (n : Nat)
  | completionTimeout (ns : Nat)
  | linkRead (addr : BitVec 12)
  | linkWrite (addr : BitVec 12) (v : W32)
  | powerState (d0 : Bool)
deriving DecidableEq, Repr

/-- Data object exchange protocols (R369, R397). -/
inductive DoeKind where
  | cmaSpdm | securedSpdm | cdat
deriving DecidableEq, Repr

/-- The commands of the block, in the order of spec/opcode_table.json. -/
inductive Instr where
  /-- NOP (R349). Command that completes at admission and writes only its completion record. -/
  | nop (id : Nat)
  /-- GATHER_POOL (R99). Command that gathers the rows of up to 65,536 bags and pools each bag into one output vector. -/
  | gatherPool (id : Nat)
  /-- SEQ_POOL (R107). Command that pools one long bag as a micro-routine that can yield. -/
  | seqPool (id : Nat) (arr : ReadBack)
  /-- LAUNCH (R196). Command that starts a transient or resident launch of a kernel as teams on SIMT cores. -/
  | launch (id : Nat)
  /-- LAUNCH_ATTACH (R203). LAUNCH with ATTACH = 1, which places a work item in the queue of a resident launch. -/
  | launchAttach (id : Nat)
  /-- MOVE (R327). Command that runs a tensor-mover transfer from the command stream. -/
  | move (id : Nat) (desc : ReadBack)
  /-- CASTLE (R149). Command that switches the current side of up to 15 tables at one ordering point. -/
  | castle (id : Nat)
  /-- COMMIT (R141). Command that closes the open batch of a window or placement region and completes once that batch has committed. -/
  | commit (id : Nat)
  /-- FENCE (R350). Command that completes once every earlier-admitted command of its SQ has completed. -/
  | fence (id : Nat)
  /-- SIGNAL (R349). Command that writes an 8-B value once the earlier commands of its SQ have completed. -/
  | signal (id : Nat)
  /-- TIMESTAMP (R349). Command that writes DEVTIME as an 8-B value once the earlier commands of its SQ have completed. -/
  | timestamp (id : Nat)
  /-- TAIL_DOORBELL (R339). Write to a DBAP page that places any slot bytes of the same write and then replaces the queue's TAIL, or drops and counts the doorbell. -/
  | tailDoorbell (sq : Nat) (data : Posted Masked)
  /-- DBAP_SLOT_WRITE (R338). Write of command bytes into a slot of a DBAP page. -/
  | dbapSlotWrite (sq off : Nat) (data : Posted Masked)
  /-- COMMAND_READ (R347). The front end reads the command at HEAD once all its slots are pending, advances HEAD and checks the command. -/
  | commandRead (sq : Nat)
  /-- SQ_RING_READ_DONE (R340). Completion of a read of a host-memory SQ ring; a failure sets ERR and records a fault. -/
  | sqRingReadDone (sq : Nat) (r : ReadBack)
  /-- ADMIT (R27). Admission of a checked command: the home partition is chosen, the completion time predicted, and the command admitted or resigned. -/
  | admission (id : Nat)
  /-- LATE_PREDICTION (R355). Periodic in-flight check, at least once every 2 µs, that resigns a command with RESIGNED_LATE when its deadline has passed or a fresh prediction misses it. -/
  | latePrediction (id : Nat)
  /-- WATCHDOG_EXPIRY (R359). The per-command watchdog expires; the command ends with TIMEOUT and a record of source 0x10 is made. -/
  | watchdogExpiry (id : Nat)
  /-- SQ_ORDER_WAIT_END (R350). The commands that a FENCE, SIGNAL or TIMESTAMP waits for have completed, so its effect starts. -/
  | sqOrderWaitEnd (id : Nat)
  /-- COMPLETION_RECORD_ISSUE (R343). A ready completion record is written into its CQ once there is space, or it is discarded. -/
  | completionRecordIssue (id : Nat)
  /-- PHASE_TAG_LINE_ISSUE (R244). The phase-tag line of a record is issued once the other lines have reached their point, and an interrupt event may follow. -/
  | phaseTagLineIssue (cq : Nat)
  /-- CQ_WAIT_TIMEOUT (R343). A record has waited more than 10 ms for CQ space; a MINOR fault is recorded. -/
  | cqWaitTimeout (id : Nat)
  /-- CQ_HEAD_WRITE (R343). Write of the driver's head to QCTL_CQ_HEAD, checked while the CQ is enabled. -/
  | cqHeadWrite (q : Nat) (v : W32) (be : BitVec 4)
  /-- COALESCE_DELAY_EXPIRY (R382). DELAY has passed since a vector's first pending event, so the vector is raised. -/
  | coalesceDelayExpiry (vec : Nat)
  /-- STRIDE_BOUNDARY (R360). A micro-routine reaches a stride boundary, and its sequencer is arbitrated by weight. -/
  | strideBoundary (id : Nat)
  /-- SEQUENCER_GRANT (R360). A waiting or yielded micro-routine is granted a sequencer and starts or resumes. -/
  | sequencerGrant (id : Nat)
  /-- BAG_LIST_READ_DONE (R106). The whole bag list of a descriptor GATHER_POOL has been read and checked. -/
  | bagListReadDone (id : Nat) (list : ReadBack) (arrays : List ReadBack)
  /-- GATHER_SUBREQUEST (R114). A partition receives a gather sub-request and its gather engines issue the row fetches. -/
  | gatherSubrequest (id part : Nat)
  /-- ROW_SECTOR_ARRIVAL (R257). A row sector reaches a gather engine and is decoded by Mangle and pooled into the partition's partial. -/
  | rowSectorArrival (id part pos sector : Nat)
  /-- PARTIAL_POOL_ARRIVAL (R114). A partial pool reaches the home partition and is combined there; after the last one the output is converted and written. -/
  | partialPoolArrival (id part : Nat)
  /-- LANDING_COMPLETE (R205). Every output byte for a core's local store has been written; LAND is incremented, or the bytes are discarded when the allocation is gone. -/
  | landingComplete (id : Nat)
  /-- CASTLE_COMMIT_POINT (R149). After its drain, a CASTLE switches CUR of every named table in one FCLK cycle. -/
  | castleCommitPoint (id : Nat)
  /-- CASTLE_WARM_DONE (R149). The warm phase of a CASTLE ends and the command completes. -/
  | castleWarmDone (id : Nat)
  /-- UPAP_WRITE (R129). Posted write to an update window, staged per row in the home slice. -/
  | upapWrite (off : Nat) (data : Posted Masked)
  /-- STAGING_WAIT_END (R134). A write held for lack of a staging entry proceeds once a commit frees one. -/
  | stagingWaitEnd
  /-- UPAP_READ (R130). Read of an update window that returns committed row bytes, converted in convert mode. -/
  | upapRead (off n : Nat)
  /-- PLAP_WRITE (R144). Posted peer write to a placement region, accepted when the key matches; with TRIG a completed row closes on its own. -/
  | plapWrite (off : Nat) (reqid : W16) (data : Posted Masked)
  /-- PLAP_READ (R145). Read of PLAP, which completes with Unsupported Request. -/
  | plapRead (off n : Nat)
  /-- UPW_APPLY (R127). GO write to UPW[w]_APPLY that closes the open batch and applies the staged window setting, or refuses it. -/
  | upwApply (w : Nat) (v : W32) (be : BitVec 4)
  /-- UPW_CLOSE (R139). Write of 1 to UPW[w]_CLOSE that closes the window's open batch. -/
  | upwClose (w : Nat) (v : W32) (be : BitVec 4)
  /-- PLC_CLOSE (R143). GO write to PLC_CLOSE that closes the open batch of a region. -/
  | plcClose (v : W32) (be : BitVec 4)
  /-- PLC_SEL (R143). Write to PLC_SEL that loads the staged members with the selected region's entry. -/
  | plcSel (v : W32) (be : BitVec 4)
  /-- PLC_CMT (R143). GO write to PLC_CMT that applies or refuses the staged placement region entry. -/
  | plcCmt (v : W32) (be : BitVec 4)
  /-- ROW_COMMIT (R135). The home slice's commit port builds and writes a row's new image from its staged writes, applying the precision guard. -/
  | rowCommit (slice : Nat)
  /-- EPOCH_BOUNDARY (R157). The end of an epoch: load counts latch, and rows are promoted, demoted or made sticky. -/
  | epochBoundary
  /-- MIGRATION_COPY_DONE (R159). The copy of a promoted row is complete and its forwarding entry is installed. -/
  | migrationCopyDone (table side row : Nat)
  /-- RETURN_HOME_DONE (R159). A returning row has been written home and its forwarding entry is removed. -/
  | returnHomeDone (table side row : Nat)
  /-- FORWARDING_RELEASE (R161). Forwarding entries and sticky marks of a side no longer current are released once its earlier commands have completed. -/
  | forwardingRelease (table side : Nat)
  /-- MIG_CTL_WRITE (R155). Write to MIG_CTL; setting EN sets the pool lock at once, and the other changes take effect at the next epoch. -/
  | migCtlWrite (v : W32) (be : BitVec 4)
  /-- DIGEST_SCAN_DONE (R163). The digest scan of a table side ends and the side's state becomes OK. -/
  | digestScanDone (table side : Nat)
  /-- CATALOGUE_WRITE (R165). Write of WRITE in RET_CTL that starts writing a table catalogue. -/
  | catalogueWrite (v : W32) (be : BitVec 4)
  /-- CATALOGUE_WRITE_DONE (R168). The catalogue entries and then the header have been written, and BUSY clears. -/
  | catalogueWriteDone
  /-- RET_LOCK (R167). Write of LOCK in RET_CTL that locks the catalogue base until PORST_N. -/
  | retLock (v : W32) (be : BitVec 4)
  /-- TBL_SEL (R84). Write to TBL_SEL that selects a table and loads the staged descriptor. -/
  | tblSel (v : W32) (be : BitVec 4)
  /-- TBL_CMT (R89). GO write to TBL_CMT that applies or refuses the staged table descriptor. -/
  | tblCmt (v : W32) (be : BitVec 4)
  /-- CTX_SEL (R329). Write to CTX_SEL that selects a context and loads the staged members. -/
  | ctxSel (v : W32) (be : BitVec 4)
  /-- CTX_CMT (R331). GO write to CTX_CMT that applies or refuses the staged context registers; enabling increments GEN. -/
  | ctxCmt (v : W32) (be : BitVec 4)
  /-- QCTL_SQ_SEL (R335). Write to QCTL_SQ_SEL that selects an SQ and loads the staged members. -/
  | qctlSqSel (v : W32) (be : BitVec 4)
  /-- QCTL_SQ_CMT (R337). GO write to QCTL_SQ_CMT that applies or refuses the staged SQ configuration. -/
  | qctlSqCmt (v : W32) (be : BitVec 4)
  /-- QCTL_CQ_SEL (R341). Write to QCTL_CQ_SEL that selects a CQ and loads the staged members. -/
  | qctlCqSel (v : W32) (be : BitVec 4)
  /-- QCTL_CQ_CMT (R342). GO write to QCTL_CQ_CMT that applies or refuses the staged CQ configuration. -/
  | qctlCqCmt (v : W32) (be : BitVec 4)
  /-- ATG_SEL (R315). Write to ATG_SEL that selects a grant entry and loads the staged members. -/
  | atgSel (v : W32) (be : BitVec 4)
  /-- ATG_CMT (R315). GO write to ATG_CMT that applies or refuses the staged atomic grant. -/
  | atgCmt (v : W32) (be : BitVec 4)
  /-- RAT_CMT (R265). GO write to RAT_CMT that refuses the staged region attribute table or starts applying it. -/
  | ratCmt (v : W32) (be : BitVec 4)
  /-- RAT_APPLY_DONE (R266). The affected lines have been cleaned and invalidated; the entries apply together, RESULT is set and BUSY clears. -/
  | ratApplyDone
  /-- STAGED_MEMBER_WRITE (R15). Write to a member of a commit group, staged until its commit register is written. -/
  | stagedMemberWrite (off : Nat) (v : W32) (be : BitVec 4)
  /-- MNG_CLEAR (R76). Write of CLEAR in MNG[s]_CTL that zeroes every counter of the Mangle site in one cycle. -/
  | mngClear (site : Nat) (v : W32) (be : BitVec 4)
  /-- MNG_FREEZE (R76). Write of FREEZE in MNG[s]_CTL that holds or releases the site's counters. -/
  | mngFreeze (site : Nat) (v : W32) (be : BitVec 4)
  /-- LO_READ_LATCH (R78). Read of a _LO count register that latches the matching _HI value. -/
  | loReadLatch (off : Nat) (be : BitVec 4)
  /-- RC_READ (R498). Read of a word holding an RC field, which returns the value and then clears the field. -/
  | rcRead (off : Nat) (bes : List (BitVec 4))
  /-- LAT_SEL (R363). Write to LAT_SEL that copies a latency histogram set into the snapshot registers and zeroes the set. -/
  | latSel (v : W32) (be : BitVec 4)
  /-- DC_WAYS_WRITE (R274). Write to DC[s]_WAYS that refuses the new way roles or starts changing them. -/
  | dcWaysWrite (slice : Nat) (v : W32) (be : BitVec 4)
  /-- WAYS_CHANGE_DONE (R274). Every way of the slice has its new role; RESULT is set and BUSY clears. -/
  | waysChangeDone (slice : Nat)
  /-- L1CTL_WRITE (R279). Write to CLU[c]_L1CTL that enables or disables the L1 of each core, writing back M lines when disabling. -/
  | l1ctlWrite (cluster : Nat) (v : W32) (be : BitVec 4)
  /-- PART_PWRCTL_WRITE (R475). Write to PART[p]_PWRCTL; clearing PLLSTOP while the PLL is stopped restarts it. -/
  | partPwrctlWrite (part : Nat) (v : W32) (be : BitVec 4)
  /-- REGISTER_WRITE (R495). CTLAP write to a register with no row of its own, applied per 4-B word under the access rules. -/
  | registerWrite (off : Nat) (words : Posted (List (W32 × BitVec 4)))
  /-- PLDW (R182). Press instruction that loads a weight tile into the stream's shadow register. -/
  | pldw (x : Issue)
  /-- PMMA (R183). Press instruction that multiplies an activation tile into the accumulator rows. -/
  | pmma (x : Issue)
  /-- PRQ (R185). Press instruction that requantises accumulator rows into an output tile in local store. -/
  | prq (x : Issue)
  /-- PWAIT (R188). Instruction that stalls the group until PEND of a token counter is at most N. -/
  | pwait (x : Issue)
  /-- PRESS_INSTR_START (R189). A queued press instruction starts once its ordering allows, after its run-time checks. -/
  | pressInstrStart (core strm : Nat)
  /-- PRESS_INSTR_COMPLETE (R187). A press instruction completes and PEND of its token counter falls. -/
  | pressInstrComplete (core strm : Nat) (opc : Byte)
  /-- NOP_INSTR (R219). SIMT instruction that does nothing. -/
  | nopInstr (x : Issue)
  /-- BRA (R214). Branch by a signed offset. -/
  | bra (x : Issue)
  /-- BRX (R219). Indirect branch. -/
  | brx (x : Issue)
  /-- CALL (R223). Call by a signed offset, faulting above depth 16. -/
  | call (x : Issue)
  /-- RET (R223). Return, faulting when there is no return address. -/
  | ret (x : Issue)
  /-- EXIT (R233). The thread exits; the launch completes once every team has exited. -/
  | exit (x : Issue)
  /-- BAR (R231). Team barrier that acts as a full team fence. -/
  | bar (x : Issue)
  /-- YIELD (R236). SIMT yield instruction, which ends the thread's reservation. -/
  | yield (x : Issue)
  /-- TRAP (R223). Raises a MINOR fault with a 16-bit code and ends the launch. -/
  | trap (x : Issue)
  /-- GSYNC (R210). Merges the named paths of a group explicitly. -/
  | gsync (x : Issue)
  /-- ADD (R214). Wrapping integer add. -/
  | add (x : Issue)
  /-- SUB (R214). Wrapping integer subtract. -/
  | sub (x : Issue)
  /-- MUL (R214). Low 32 bits of a product. -/
  | mul (x : Issue)
  /-- MULHI (R219). High 32 bits of a signed product. -/
  | mulhi (x : Issue)
  /-- MULHU (R219). High 32 bits of an unsigned product. -/
  | mulhu (x : Issue)
  /-- MAD (R219). Multiply and add. -/
  | mad (x : Issue)
  /-- MIN (R214). Signed minimum. -/
  | min (x : Issue)
  /-- MAX (R214). Signed maximum. -/
  | max (x : Issue)
  /-- ABS (R219). Absolute value. -/
  | abs (x : Issue)
  /-- NEG (R219). Negation. -/
  | neg (x : Issue)
  /-- MINU (R214). Unsigned minimum. -/
  | minu (x : Issue)
  /-- MAXU (R214). Unsigned maximum. -/
  | maxu (x : Issue)
  /-- ADDS (R219). Saturating add. -/
  | adds (x : Issue)
  /-- SUBS (R219). Saturating subtract. -/
  | subs (x : Issue)
  /-- AND (R214). Bitwise AND. -/
  | and (x : Issue)
  /-- OR (R214). Bitwise OR. -/
  | or (x : Issue)
  /-- XOR (R214). Bitwise XOR. -/
  | xor (x : Issue)
  /-- NOT (R219). Bitwise NOT. -/
  | not (x : Issue)
  /-- SHL (R214). Shift left. -/
  | shl (x : Issue)
  /-- SHR (R214). Logical shift right. -/
  | shr (x : Issue)
  /-- SAR (R214). Arithmetic shift right. -/
  | sar (x : Issue)
  /-- ROT (R214). Rotate. -/
  | rot (x : Issue)
  /-- ONES (R215). Counts the 1 bits of a register. -/
  | ones (x : Issue)
  /-- LEAD (R215). Counts the leading zero bits of a register. -/
  | lead (x : Issue)
  /-- FEXT (R215). Extracts a bit field. -/
  | fext (x : Issue)
  /-- FINS (R215). Inserts a bit field. -/
  | fins (x : Issue)
  /-- RBIT (R215). Reverses the bits of a register. -/
  | rbit (x : Issue)
  /-- BYSEL (R215). Selects bytes from an 8-byte string. -/
  | bysel (x : Issue)
  /-- PCMP (R215). Compares two registers into a predicate. -/
  | pcmp (x : Issue)
  /-- SEL (R214). Selects between two values by a predicate. -/
  | sel (x : Issue)
  /-- PLOG (R215). Logic function of two predicates. -/
  | plog (x : Issue)
  /-- P2V (R219). Moves predicates to a register. -/
  | p2v (x : Issue)
  /-- V2P (R219). Moves a register to predicates. -/
  | v2p (x : Issue)
  /-- MOV (R214). Register or immediate move. -/
  | mov (x : Issue)
  /-- MULSH (R216). Signed multiply with a rounding right shift. -/
  | mulsh (x : Issue)
  /-- MADSH (R216). MULSH followed by an add. -/
  | madsh (x : Issue)
  /-- MULSHU (R216). Unsigned multiply with a rounding right shift. -/
  | mulshu (x : Issue)
  /-- RSHR (R216). Rounding right shift. -/
  | rshr (x : Issue)
  /-- SATN (R216). Clamps a value to n signed bits. -/
  | satn (x : Issue)
  /-- BUNP (R217). Unpacks a block-format element to an IB32 code. -/
  | bunp (x : Issue)
  /-- BPK (R217). Packs an IB32 code into an element of a packed word. -/
  | bpk (x : Issue)
  /-- BSE (R217). Collective that finds the ideal block exponent over the named threads. -/
  | bse (x : Issue)
  /-- BSQ (R217). Quantises a value to a code at a target exponent. -/
  | bsq (x : Issue)
  /-- BADD (R217). IB32 sum with specials. -/
  | badd (x : Issue)
  /-- BSUB (R217). IB32 difference with specials. -/
  | bsub (x : Issue)
  /-- BMUL (R217). IB32 product with specials. -/
  | bmul (x : Issue)
  /-- BMULSH (R217). IB32 multiply-shift with overflow to infinity. -/
  | bmulsh (x : Issue)
  /-- BMAX (R217). IB32 maximum with specials. -/
  | bmax (x : Issue)
  /-- BDP (R217). Forms the IB32 code of a darned pair. -/
  | bdp (x : Issue)
  /-- TLI (R218). Table lookup with linear interpolation from local store. -/
  | tli (x : Issue)
  /-- GXCH (R215). Group exchange of a register from another lane. -/
  | gxch (x : Issue)
  /-- GPOLL (R215). Group mask of a predicate. -/
  | gpoll (x : Issue)
  /-- GFOLD (R215). Group reduction. -/
  | gfold (x : Issue)
  /-- GPEER (R215). Group mask of the lanes holding an equal value. -/
  | gpeer (x : Issue)
  /-- GPRE (R215). Group prefix reduction. -/
  | gpre (x : Issue)
  /-- LD (R212). Load from host memory or HVDM by host virtual address. -/
  | ld (x : Issue)
  /-- ST (R212). Store to host memory or HVDM. -/
  | st (x : Issue)
  /-- PREF (R271). Prefetch into a side buffer; never faults. -/
  | pref (x : Issue)
  /-- LDS (R213). Load from local store. -/
  | lds (x : Issue)
  /-- STS (R213). Store to local store. -/
  | sts (x : Issue)
  /-- ATS (R213). Atomic on local store. -/
  | ats (x : Issue)
  /-- ATOM (R287). Atomic on host memory or HVDM, performed near or far. -/
  | atom (x : Issue)
  /-- RED (R287). Reduction performed near at the home slice. -/
  | red (x : Issue)
  /-- LDR (R235). Reserved load that sets a reservation on its line. -/
  | ldr (x : Issue)
  /-- STC (R235). Conditional store that succeeds only while the reservation is valid. -/
  | stc (x : Issue)
  /-- FENCE_INSTR (R229). SIMT fence of the given kind and scope. -/
  | fenceInstr (x : Issue)
  /-- S2V (R214). Reads a special register. -/
  | s2v (x : Issue)
  /-- WAITGE (R214). Stalls the group until LAND reaches an operand. -/
  | waitge (x : Issue)
  /-- WGET (R203). Takes the oldest queued work item of a resident launch. -/
  | wget (x : Issue)
  /-- WDONE (R203). Marks a work item done so that its record is written. -/
  | wdone (x : Issue)
  /-- TMOV (R323). Issues a tensor-mover transfer on a mover counter. -/
  | tmov (x : Issue)
  /-- TOUT (R323). Issues an output transfer, optionally tied to a work-item tag. -/
  | tout (x : Issue)
  /-- TWAIT (R323). Stalls the group until a mover counter reaches a value. -/
  | twait (x : Issue)
  /-- UNDEFINED_ENCODING (R221). A group reaches an undefined encoding; a CONTEXT fault is raised and the launch ends FAULTED. -/
  | undefinedEncoding (x : Issue) (opc : Byte)
  /-- GROUP_WAKE (R209). The event awaited by a stalled group occurs and the group resumes, restarting its cluster clock. -/
  | groupWake (launch team group : Nat)
  /-- TEAM_PLACE (R198). A waiting team is placed on a core that fits it, and its state is zeroed. -/
  | teamPlace (launch core : Nat)
  /-- LAUNCH_END (R224). A launch ends; its groups stop, its streams end and its allocations are freed. -/
  | launchEnd (launch : Nat)
  /-- MOVER_ROW_DELIVERED (R322). A transfer row reaches its delivery level; the cursor and mover counter advance. -/
  | moverRowDelivered (xfer n : Nat) (src : ReadBack) (bad : List Nat)
  /-- PAGE_REQUEST_GROUP (R317). A transfer sends a page request group for a page it cannot use. -/
  | pageRequestGroup (xfer : Nat)
  /-- PRG_RESPONSE (R318). Receipt of a page request group response; the transfer resumes at its cursor or fails. -/
  | prgResponse (index code : Nat)
  /-- PRG_RESPONSE_TIMEOUT (R318). No response within 2 s; the transfer fails. -/
  | prgResponseTimeout (index : Nat)
  /-- TRANSLATION_COMPLETION (R314). Receipt of an ATS translation completion, which is acted on by requester and result. -/
  | translationCompletion (req : Nat) (r : XlatResult)
  /-- TRANSLATION_TIMEOUT (R392). A Translation Request times out and is treated as denied. -/
  | translationTimeout (req : Nat)
  /-- ATS_INVALIDATION_REQUEST (R316). Receipt of an ATS Invalidation Request, which removes the matching ATC entries. -/
  | atsInvalidationRequest (itag pasid page pages : Nat)
  /-- INVALIDATION_COMPLETION (R316). The Invalidation Completion is sent once the accesses that used the removed entries have been issued or observed. -/
  | invalidationCompletion (itag : Nat)
  /-- READ_SHARED (R282). L1 request to the home for a line on an LD or LDR miss. -/
  | readShared (core line : Nat)
  /-- READ_OWN (R282). L1 request to the home for a line in M, for a far atomic. -/
  | readOwn (core line : Nat)
  /-- WRITE_THROUGH (R282). L1 store or reduction written through to the home. -/
  | writeThrough (core : Nat)
  /-- WRITE (R282). Write by a non-caching requester to the home. -/
  | write
  /-- READ_CURRENT (R282). Read by a non-caching requester from the home. -/
  | readCurrent (line : Nat)
  /-- WRITE_BACK (R282). L1 eviction of an M line with its data. -/
  | writeBack (core : Nat)
  /-- EVICT_NOTICE (R282). Data-less eviction of an E, S or F line. -/
  | evictNotice (core line : Nat)
  /-- SNOOP (R285). A home's snoop reaches an L1, which answers it. -/
  | snoop (core line : Nat)
  /-- SNOOP_RESPONSE (R282). The home receives a snoop response and ends the transaction. -/
  | snoopResponse (core line : Nat)
  /-- NAK_RETRY (R284). A request refused with NAK retries after its backoff. -/
  | nakRetry (core line : Nat)
  /-- L1_LOST (R285). No snoop answer within 10 µs; the L1 is declared lost and its lines reclaimed. -/
  | l1Lost (core line : Nat)
  /-- SIDE_BUFFER_EXPIRY (R271). A side buffer entry unused for 50 µs is dropped. -/
  | sideBufferExpiry (slice line : Nat)
  /-- RESERVATION_EXPIRY (R236). A reservation ends 4,096 CCLK cycles after its LDR. -/
  | reservationExpiry (launch team group lane : Nat)
  /-- SNP_DATA (R380). Host snoop that downgrades a half to S and returns M data. -/
  | snpData (pa : Nat)
  /-- SNP_INV (R380). Host snoop that invalidates a half and returns M data. -/
  | snpInv (pa : Nat)
  /-- SNP_CUR (R380). Host snoop that returns current data and leaves the half's state. -/
  | snpCur (pa : Nat)
  /-- D2H_RESPONSE (R379). Receipt of a host response, GO or data, to a D2H request. -/
  | d2hResponse (tag : Nat) (data : Bytes) (grant : HostState)
  /-- D2H_TIMEOUT (R381). A D2H request has no response within 50 ms; a BLOCK fault is recorded and the request fails. -/
  | d2hTimeout (tag : Nat)
  /-- MEM_RD (R377). CXL.mem read of HVDM. -/
  | memRd (hpa : Nat)
  /-- MEM_RD_DATA (R377). CXL.mem MemRdData read of HVDM. -/
  | memRdData (hpa : Nat)
  /-- MEM_WR (R377). CXL.mem full write of HVDM. -/
  | memWr (hpa : Nat) (data : Bytes) (poison : Bool)
  /-- MEM_WR_PTL (R377). CXL.mem partial write of HVDM with byte enables. -/
  | memWrPtl (hpa : Nat) (data : Masked) (poison : Bool)
  /-- MEM_SPEC_RD (R377). CXL.mem speculative read, dropped. -/
  | memSpecRd (hpa : Nat)
  /-- MEM_INV (R377). CXL.mem MemInv, answered Cmp with no action. -/
  | memInv (hpa : Nat)
  /-- MEM_INV_NT (R377). CXL.mem MemInvNT, answered Cmp with no action. -/
  | memInvNt (hpa : Nat)
  /-- PORT_CREDIT (R301). A controller returns a request credit to a memory port. -/
  | portCredit (port : Nat)
  /-- PORT_READ_DATA (R302). Read data with per-sector status arrives at a port and fills or serves the requester. -/
  | portReadData (port tag : Nat) (status : List SectorStatus)
  /-- PORT_WRITE_ACK (R302). A port write acknowledgement arrives. -/
  | portWriteAck (port tag : Nat)
  /-- PORT_SRE_ACK (R302). The controller acknowledges entry to self-refresh. -/
  | portSreAck (port : Nat)
  /-- PORT_SRX_ACK (R302). The controller acknowledges exit from self-refresh. -/
  | portSrxAck (port : Nat)
  /-- PORT_READY (R302). A port reports ready with its capacity after training. -/
  | portReady (port cap : Nat)
  /-- PORT_LOST (R306). A port request is unanswered beyond its limit; the port is declared lost. -/
  | portLost (port : Nat)
  /-- PORT_ABSENT (R307). At 650 ms, ports not yet ready are treated as absent and MEM_NMAP and MEM_FMAP are set. -/
  | portAbsent
  /-- SCRUB_READ (R311). Patrol scrub issues its next SCR read at the uniform rate. -/
  | scrubRead (port : Nat)
  /-- CONFIG_REQUEST (R370). A configuration request to the function, answered with retry status until it is ready. -/
  | configRequest (r : CfgReq)
  /-- LINK_UP (R366). The link comes up; the negotiated flit format is sampled. -/
  | linkUp (fmt : BitVec 2)
  /-- LINK_DOWN (R395). Link-down without a quiesce runs the FLR sequence and discards host lines and records. -/
  | linkDown
  /-- HOT_RESET (R395). A Hot Reset or Link Disable, handled as an assertion and deassertion of PERST_N. -/
  | hotReset
  /-- L1_IDLE_EXPIRY (R387). The idle conditions have held for L1_IDLE µs, so the block requests L1. -/
  | l1IdleExpiry
  /-- L0P_WINDOW_END (R388). End of an L0p measuring window that may request half or full width. -/
  | l0pWindowEnd (tx rx capacity waiting : Nat)
  /-- D3HOT_ENTRY (R386). A power state write from D0 to D3hot that runs the FLR sequence. -/
  | d3hotEntry
  /-- FLR (R390). Write of Initiate Function Level Reset that runs the FLR sequence. -/
  | flr
  /-- BUS_MASTER_ENABLE_SET (R372). Bus Master Enable becomes 1 and the held memory requests are issued. -/
  | busMasterEnableSet
  /-- MSIX_UNMASK (R383). Unmasking a pending vector sends one message and clears its PBA bit. -/
  | msixUnmask (vec : Nat)
  /-- HIF_INTX_PEND_CLEAR (R385). W1C of PEND in HIF_INTX that deasserts INTA when it was asserted. -/
  | hifIntxPendClear (v : W32) (be : BitVec 4)
  /-- HDM_DECODER_COMMIT (R376). Commit of an HDM decoder, applied or failed with Error Not Committed. -/
  | hdmDecoderCommit (k base size : Nat) (oneWay lawful : Bool)
  /-- VIRAL (R394). The host signals Viral and the block enters the safe state. -/
  | viral
  /-- IDE_CHECK_FAIL (R397). An IDE check fails; the stream becomes Insecure and the failed traffic is discarded. -/
  | ideCheckFail (stream : Nat)
  /-- DOE_REQUEST (R397). A DOE request for CMA/SPDM, secured SPDM or CDAT, served by firmware. -/
  | doeRequest (kind : DoeKind) (data : Bytes)
  /-- GET_INFO (R412). Management command that returns ID_VERSION, MGT_STAT and MGT_FWVER. -/
  | getInfo (job : Nat)
  /-- GET_HEALTH (R412). Management command that returns DEVTIME, temperature, state and fault queue status. -/
  | getHealth (job : Nat)
  /-- FAULT_READ (R412). Management command that returns fault records. -/
  | faultRead (job : Nat)
  /-- FAULT_RING (R434). Management command that configures or stops the host fault ring. -/
  | faultRing (job : Nat)
  /-- QUIESCE_START (R419). QUIESCE with ACTION 0, which makes a quiesce pending with its grace period. -/
  | quiesceStart (job : Nat)
  /-- QUIESCE_NOW (R419). QUIESCE with ACTION 1, which starts a quiesce with no grace period. -/
  | quiesceNow (job : Nat)
  /-- QUIESCE_CANCEL (R419). QUIESCE with ACTION 2, which cancels a pending quiesce. -/
  | quiesceCancel (job : Nat)
  /-- QUIESCE_EXIT (R421). QUIESCE with ACTION 3, which leaves the quiesced state and resumes admission. -/
  | quiesceExit (job : Nat)
  /-- LOCATE (R412). Management command that sets or clears locate on IND_ATTN. -/
  | locate (job : Nat)
  /-- POWER_CYCLE (R458). Management command that asserts PWRCYC_REQ until PORST_N. -/
  | powerCycle (job : Nat)
  /-- FW_BEGIN (R414). Opens the firmware update session and erases the slot. -/
  | fwBegin (job : Nat)
  /-- FW_DATA (R414). Writes image bytes into the slot being updated. -/
  | fwData (job : Nat)
  /-- FW_END (R414). Checks the written slot and closes the session. -/
  | fwEnd (job : Nat)
  /-- FW_ACTIVATE (R414). Restarts the Rook from the valid image and sets FWACT. -/
  | fwActivate (job : Nat)
  /-- CFG_WRITE (R414). Writes a configuration block copy into the flash. -/
  | cfgWrite (job : Nat)
  /-- TABLE_LIST (R171). Returns the retained catalogue entries and the header's SEQ, REASON and VERSION. -/
  | tableList (job : Nat)
  /-- TABLE_VERIFY (R171). Computes the digests of a catalogued table and reports MATCH or MISMATCH per side. -/
  | tableVerify (job : Nat)
  /-- TABLE_ADOPT (R171). Commits a catalogue entry into its descriptor with VALID = 1. -/
  | tableAdopt (job : Nat)
  /-- TABLE_DISCARD (R171). Removes an entry from the catalogue list. -/
  | tableDiscard (job : Nat)
  /-- TELEM_RING (R423). Configures or stops the host telemetry ring. -/
  | telemRing (job : Nat)
  /-- TELEM_READ (R424). Returns the latest telemetry record. -/
  | telemRead (job : Nat)
  /-- EVENT_ENABLE (R418). Side-band command that enables or disables event messages to an EID. -/
  | eventEnable (job : Nat)
  /-- UNKNOWN_MAILBOX_OPCODE (R413). GO of a mailbox or side-band command whose opcode is not in the set, answered UNKNOWN_OPCODE. -/
  | unknownMailboxOpcode (job : Nat)
  /-- MAILBOX_RESPONSE (R409). Firmware or Thimble posts a mailbox response, clears BUSY and sets DONE. -/
  | mailboxResponse (job : Nat)
  /-- ROOK_HEARTBEAT (R404). Firmware sends a heartbeat to Thimble. -/
  | rookHeartbeat
  /-- HEARTBEAT_TIMEOUT (R404). No heartbeat for 1 s; Thimble restarts the Rook or leaves it FAILED. -/
  | heartbeatTimeout
  /-- FW_SESSION_TIMEOUT (R414). An update session idle for 60 s is closed. -/
  | fwSessionTimeout
  /-- ROOK_IMAGE_LOAD (R402). The boot ROM checks both image slots and loads the valid one, or halts FAILED. -/
  | rookImageLoad
  /-- CONFIG_LOAD (R403). Firmware loads the configuration block, writes the memory map and sets LOCK. -/
  | configLoad
  /-- MEM_NLOC_LOCK (R298). Write of LOCK in MEM_NLOC, which checks and locks the memory map or sets BAD. -/
  | memNlocLock (v : W32) (be : BitVec 4)
  /-- CATALOGUE_SELECT (R171). After boot, firmware selects the valid catalogue slot with the highest SEQ. -/
  | catalogueSelect
  /-- SIDEBAND_REQUEST (R418). An MCTP vendor-defined block command received on the side-band. -/
  | sidebandRequest (tag eid : Nat) (msg : Bytes)
  /-- SET_ENDPOINT_ID (R417). MCTP control message that sets the EID. -/
  | setEndpointId (eid : Nat)
  /-- GET_ENDPOINT_ID (R417). MCTP control message that returns the EID. -/
  | getEndpointId
  /-- GET_MCTP_VERSION_SUPPORT (R417). MCTP control message that returns the supported versions. -/
  | getMctpVersionSupport (kind : Byte)
  /-- GET_MESSAGE_TYPE_SUPPORT (R417). MCTP control message that returns the supported message types. -/
  | getMessageTypeSupport
  /-- GET_VENDOR_DEFINED_MSG_SUPPORT (R417). MCTP control message that returns vendor-defined message support. -/
  | getVendorDefinedMsgSupport (selector : Byte)
  /-- SETDASA (R416). I3C command that assigns the dynamic address from the static address. -/
  | setdasa (addr : BitVec 7) (dyn : BitVec 7)
  /-- SETAASA (R416). I3C command that assigns the static address as the dynamic address. -/
  | setaasa
  /-- TELEMETRY_SNAPSHOT (R424). Periodic telemetry snapshot written to the ring, or skipped. -/
  | telemetrySnapshot
  /-- FAULT_RECORD_MIRROR (R434). Firmware mirrors a pending fault record to the host ring and releases it. -/
  | faultRecordMirror
  /-- SVC_REQ_PRESS (R419). A debounced press of SVC_REQ_N, which starts or cancels a quiesce. -/
  | svcReqPress
  /-- GRACE_EXPIRY (R420). The grace period ends; the quiesce starts draining. -/
  | graceExpiry
  /-- QUIESCE_DRAIN_DONE (R420). The drain and retention steps end; QSTATE becomes quiesced and IND_SAFE lights. -/
  | quiesceDrainDone
  /-- FAULT_REPORT (R431). A fault report reaches the collector; it is queued, merged or counted as lost, and its reaction applied. -/
  | faultReport (buf : Nat) (hw : Option Report)
  /-- FLT_QREL (R437). Write of N to FLT_QREL that releases the oldest pending records. -/
  | fltQrel (v : W32) (be : BitVec 4)
  /-- FLT_REACT_WRITE (R439). Write to FLT_REACT that sets the reaction of the selected source within its limits. -/
  | fltReactWrite (v : W32) (be : BitVec 4)
  /-- ERRN_CLEAR (R440). W1C of ERRN in FLT_CTL that deasserts ERR_N except in the safe state. -/
  | errnClear (v : W32) (be : BitVec 4)
  /-- FLT_CHKREQ (R446). GO write that asks firmware to test one checker. -/
  | fltChkreq (v : W32) (be : BitVec 4)
  /-- FLT_INJ (R448). GO write that arms a fault injection when FTEST was sampled as 1. -/
  | fltInj (v : W32) (be : BitVec 4)
  /-- END_OVERRUN (R450). A unit still holds an ended command's work after 100 µs; a record is made and the unit reset. -/
  | endOverrun (unit : Loc) (id sq ctx : Nat) (cid : W32)
  /-- RESET_OVERRUN (R451). A reset misses its bound; a record of source 0x14 is made and the next rung starts. -/
  | resetOverrun (kind : ResetKind) (index : Nat) (next : ResetKind) (nextIndex : Nat)
  /-- RST_CTX (R453). GO write to RST_CTX that resets a context. -/
  | rstCtx (v : W32) (be : BitVec 4)
  /-- RST_CLU (R455). GO write to RST_CLU that resets a cluster. -/
  | rstClu (v : W32) (be : BitVec 4)
  /-- RST_PART (R456). GO write to RST_PART that resets a partition. -/
  | rstPart (v : W32) (be : BitVec 4)
  /-- RST_BLK (R457). Keyed GO write to RST_BLK that resets the block or leaves the safe state. -/
  | rstBlk (v : W32) (be : BitVec 4)
  /-- PORST_ASSERT (R485). PORST_N asserted, which resets every domain. -/
  | porstAssert
  /-- PORST_DEASSERT (R465). PORST_N deasserted, which starts DEVTIME and domain sequencing. -/
  | porstDeassert
  /-- STRAP_SAMPLE (R486). Thimble samples RETAIN_EN and FTEST by 1 ms after PORST_N. -/
  | strapSample (retain ftest : Bool)
  /-- PERST_ASSERT (R166). PERST_N recognised as asserted; the retention sequence runs and domains power down. -/
  | perstAssert
  /-- PERST_DEASSERT (R466). PERST_N recognised as deasserted; domains power up again. -/
  | perstDeassert
  /-- PDOM_ACK (R463). A domain's supply acknowledgement changes, which advances power-up or power-down. -/
  | pdomAck (d : Nat) (up : Bool)
  /-- PDOM_ACK_TIMEOUT (R467). No acknowledgement within 1 ms; FAIL is set and power-up stops. -/
  | pdomAckTimeout (d : Nat)
  /-- PLL_LOCK (R463). A domain's PLL reports lock and the domain's reset is released. -/
  | pllLock (d : Nat)
  /-- REFCLK_LOSS (R472). REFCLK has been absent for 10 µs; REFLOSS is set. -/
  | refclkLoss
  /-- CONFIG_READY (R398). At 80 ms, configuration requests stop receiving retry status. -/
  | configReady
  /-- CLOCK_STOP (R473). An idle cluster stops its clock after 20 ns. -/
  | clockStop (cluster : Nat)
  /-- PLL_STOP (R474). An idle partition with PLLSTOP cleans up and stops its PLL after PLL_IDLE. -/
  | pllStop (part : Nat)
  /-- PLL_RESTART (R474). A request that needs a stopped partition restarts its PLL. -/
  | pllRestart (part : Nat)
  /-- POWER_CONTROL_TICK (R478). The 10 µs power controller tick that estimates power and moves CCLK steps. -/
  | powerControlTick (watts : Nat)
  /-- TEMP_SAMPLE (R480). Thimble samples the temperature sensors each 1 ms and applies HOT, NOSENS or a quiesce. -/
  | tempSample (readings : List (Option (BitVec 12)))
  /-- RESET_COMPLETE (R453). A context, cluster, partition or block reset reaches its last row: GEN is incremented and STATE returns to enabled, or BUSY clears, and the reset unit accepts work again. -/
  | resetComplete (kind : ResetKind) (index : Nat)
  /-- FLR_COMPLETE (R390). The FLR sequence reaches its 40 ms row: configuration space, the MSI-X table and the HIF registers return to reset values and the FLR is complete. -/
  | flrComplete
  /-- CHECKER_TEST_TIMEOUT (R446). No entry has met the checker's condition within 10 ms, so the test is refused, RESULT reads refused and BUSY clears. -/
  | checkerTestTimeout
  /-- UNSUPPORTED_MCTP_CONTROL_COMMAND (R417). An MCTP control message with a command outside the supported five is answered with ERROR_UNSUPPORTED_CMD. -/
  | unsupportedMctpControlCommand (cmd : Byte)
  /-- HX_PM_STATE_CHANGE (R489). The link controller changes HX_PM_STATE between L0 full width, L0p half width and L1, which sets the current width used by the L0p requests. -/
  | hxPmStateChange (v : BitVec 2)
  /-- HX_CSR_ACK (R489). The link controller answers a link register access with HX_CSR_RDATA and HX_CSR_ACK, so the configuration access to that register can complete. -/
  | hxCsrAck (data : W32)
deriving DecidableEq, Repr

end Sys2Proof
end

