-- ==== Sys2Proof/Decode.lean ====
section
/-! DEFINITION. The command that a word spells. The block has no instruction words: its commands are register accesses, bus
requests and events, and spec/opcode_table.json gives no row a bit. SIMT words are decoded in Machine/SimtWord.lean (R214). -/

namespace Sys2Proof

/-- No row of the table gives bits, so no word spells a command. -/
def decodeTableWord (_nbits _w : Nat) : Option Instr := none

end Sys2Proof
end

