-- ==== Sys2Proof/Config.lean ====
section
/-! DEFINITION. Constants of version 2.3 (R28) and the values the manual leaves open, which have no body. -/

namespace Sys2Proof.Config

/-- A value the manual does not state (DESIGN CHOICE, log 3): the n-th one, of w bits. Nothing in the model fixes it. -/
opaque freeBits : (w : Nat) → Nat → BitVec w

/-- The set of a DC slice, of 1,024, that holds a line: a hash the block does not expose (R256). -/
opaque dcSet : Nat → Fin 1024

/-- The set of an L1, of 128, that holds a line (R276 with R256). -/
opaque l1Set : Nat → Fin 128

/-- The set of a slice's directory, of 1,024, that holds a line: not given (R281). -/
opaque dirSet : Nat → Fin 1024

/-- SHA-384 over bytes, which R402 names and no rule spells out (DESIGN CHOICE, log 26). -/
opaque sha384 : Bytes → BitVec 384

/-- Whether an image slot's signature verifies under its public key (R402, DESIGN CHOICE, log 26). -/
opaque sigVerifies : Bytes → Bool

/-- The work the block's power estimate of R478 is made from is not given: the estimate comes with its tick. -/
def clockTick : Nat := 40

def numPartitions : Nat := 8
def numClusters : Nat := 64
def numCores : Nat := 256
def numSlices : Nat := 64
def numNear : Nat := 128
def numFar : Nat := 16
def numTables : Nat := 16384
def numContexts : Nat := 4096
def numSq : Nat := 16384
def numCq : Nat := 4096
def numWindows : Nat := 16
def numRegions : Nat := 1024

/-- `ID_VERSION` of version 2.3 with PATCH 0 (R21). -/
def idVersion : W32 := 0x00203000#32
/-- `ID_SIG` (R493). -/
def idSig : W32 := 0x00585058#32
/-- PCI Class Code (R370). -/
def classCode : BitVec 24 := 0x120000#24

end Sys2Proof.Config
end

