-- ==== Sys2Proof/Machine/State.lean ====
section
/-! DEFINITION. The state of the block as plain data: every register, queue, buffer, mode and pin the spec gives it, the
stops, and the state that `PORST_N` leaves (R398, R465, R485). -/

namespace Sys2Proof.Machine

/-- Why the model stops. Raised only where the spec says that the behaviour is not defined. -/
inductive Fault where
  /-- Raised by every command that acts on the MGT, FAB, HIF or PART domains once REFLOSS is set: R472 says that their
  behaviour is then not defined (DESIGN CHOICE, log 4). Safe: the hardware may go on in ways nothing states. -/
  | refclkLost
deriving DecidableEq, Repr

/-- Why a command has no meaning. -/
inductive Refusal where
  /-- Raised by an arm of Dispatch whose row has no meaning yet. Safe. -/
  | notModelled (mnemonic : String)
deriving DecidableEq, Repr

/-! ## ID page, Mangle, tables -/

/-- `ID_ACCERR` and `ID_ACCADDR` (R494). -/
structure Access where
  reason : BitVec 3 := 0
  count : W16 := 0
  offset : BitVec 25 := 0
deriving DecidableEq, Repr

/-- Counters of a Mangle site (R73, R76, R78, R79). -/
structure MngSite where
  cnt : BitVec 48 := 0
  sse : BitVec 48 := 0
  sat : Nat := 0
  spec : Nat := 0
  under : Nat := 0
  pgcnt : Nat := 0
  freeze : Bool := false
deriving DecidableEq, Repr

/-- The eleven members of a table descriptor (R83). -/
structure TblDesc where
  (cfg geom rowsLo rowsHi shard access : W32 := 0)
  (aLo aHi bLo bHi pg : W32 := 0)
deriving DecidableEq, Repr

/-- Digest state of a table side (R163). -/
inductive DigState where
  | none | scanning | ok
deriving DecidableEq, Repr

/-- Digest of a table side: state, value, rows the scan has passed (R162, R163). -/
structure Digest where
  st : DigState := .none
  val : W64 := 0
  cursor : Nat := 0
deriving DecidableEq, Repr

/-- Descriptor window, committed descriptors, digests (keyed 2 × table + side). -/
structure TableUnit where
  sel : Nat := 0
  result : BitVec 2 := 0
  staged : TblDesc := {}
  desc : FMap TblDesc := []
  dig : FMap Digest := []
deriving DecidableEq, Repr

/-! ## Update windows, placement, staging -/

/-- Members of an update window's commit group (R124). -/
structure WinRegs where
  ctl : W32 := 0
  rowLo : W32 := 0
  rowHi : W32 := 0
deriving DecidableEq, Repr

structure Window where
  staged : WinRegs := {}
  com : WinRegs := {}
  result : BitVec 2 := 0
deriving DecidableEq, Repr

/-- Members of a placement region entry (R143). -/
structure PlcRegs where
  cfg : W32 := 0
  rowLo : W32 := 0
  rowHi : W32 := 0
  key : W32 := 0
deriving DecidableEq, Repr

/-- Batches of a window or region (R133, R139): number of the open batch (= batches closed), batches done,
distinct rows written in the open batch. -/
structure Target where
  openNo : Nat := 0
  doneNo : Nat := 0
  rows : List Nat := []
deriving DecidableEq, Repr

/-- A staged row (R132, R134). Targets are windows 0 to 15 and regions 16 + n. `at_` is the moment of its hand-over, from which its
commit waits (R38). -/
structure StagedRow where
  tgt : Nat
  batch : Nat
  slice : Nat
  table : Nat
  side : Nat
  row : Nat
  desc : TblDesc
  conv : Option Nat
  bytes : List (Nat × Byte)
  ticket : Option Nat
  closer : Option Nat
  at_ : W64 := 0
deriving DecidableEq, Repr

/-- The part of a write that maps to one row (R129), waiting for a staging entry; `early` once a row has been committed early for it
(R134). -/
structure RowPart where
  tgt : Nat
  row : Nat
  bytes : List (Nat × Byte)
  early : Bool := false
deriving DecidableEq, Repr

/-- The update and placement path. `held` are the writes that wait at the flit port (R134); `reads` the reads of UPAP, offset and bytes,
that wait at a home slice while a region attribute table is applied (R266). -/
structure UpdateUnit where
  win : FMap Window := []
  plc : FMap PlcRegs := []
  plcSel : Nat := 0
  plcStaged : PlcRegs := {}
  plcResult : BitVec 2 := 0
  tgt : FMap Target := []
  staging : List StagedRow := []
  ticket : Nat := 0
  held : List RowPart := []
  reads : List (Nat × Nat) := []
deriving DecidableEq, Repr

/-! ## Migration and retention -/

inductive FwdState where
  | copying | forwarded | returning
deriving DecidableEq, Repr

/-- A row under migration (R159); `at_` is the moment from which its copy or its return waits (R38), `cmd` the CASTLE whose warm phase
promotes it (R149). -/
structure Fwd where
  table : Nat
  side : Nat
  row : Nat
  st : FwdState
  dirty : Bool
  slot : Nat
  count : Nat
  at_ : W64 := 0
  cmd : Option Nat := none
deriving DecidableEq, Repr

/-- A sticky mark (R157, R261) with its row's count. -/
structure Sticky where
  table : Nat
  side : Nat
  row : Nat
  count : Nat
deriving DecidableEq, Repr

/-- A row tracked by its home slice (R157). -/
structure Track where
  slice : Nat
  table : Nat
  side : Nat
  row : Nat
  count : Nat
deriving DecidableEq, Repr

/-- A promotion that waits until the row demoted for it has returned home (R157), with the CASTLE that makes it (R149). -/
structure Promotion where
  table : Nat
  side : Nat
  row : Nat
  count : Nat
  cmd : Option Nat := none
deriving DecidableEq, Repr

/-- Counts of a shard (R154). -/
structure Load where
  reads : Nat := 0
  far : Nat := 0
  dflt : Nat := 0
deriving DecidableEq, Repr

/-- Load counts (keyed 8 × table + partition) and migration. `running` to `epoch` are the settings of `MIG_CTL` taken at the last epoch
boundary, the thresholds in reads per epoch; `epochAt` is the moment of that boundary (R155). -/
structure Migration where
  load : FMap Load := []
  loadLast : FMap Load := []
  fwd : List Fwd := []
  sticky : List Sticky := []
  track : List Track := []
  waiting : List Promotion := []
  running : Bool := false
  stickyOn : Bool := false
  promoteAt : Nat := 256
  demoteAt : Nat := 64
  epoch : Nat := 10
  epochAt : W64 := 0
deriving DecidableEq, Repr

/-- A catalogue entry (R170). -/
structure CatEntry where
  table : Nat
  okA : Bool
  okB : Bool
  desc : TblDesc
  dgA : W64
  dgB : W64
deriving DecidableEq, Repr

/-- A catalogue as firmware offers it (R169, R171). -/
structure Catalogue where
  seq : W64
  reason : Nat
  version : W32
  entries : List CatEntry
deriving DecidableEq, Repr

structure Retention where
  busy : Bool := false
  reason : Nat := 0
  start : W64 := 0
  list : Option Catalogue := none
deriving DecidableEq, Repr

/-! ## Contexts, queues, commands -/

/-- A context (R328 to R332). STATE 0 disabled, 1 enabled, 2 in context reset. -/
structure Ctx where
  cfg : W32 := 0
  pasid : W32 := 0
  share : W32 := 0x00000100#32
  state : BitVec 2 := 0
  gen : W16 := 0
deriving DecidableEq, Repr

/-- Staged members of the context window (R329). -/
structure CtxRegs where
  cfg : W32 := 0
  pasid : W32 := 0
  share : W32 := 0x00000100#32
deriving DecidableEq, Repr

/-- An atomic grant (R315). -/
structure Grant where
  lo : W32 := 0x0000000C#32
  hi : W32 := 0
deriving DecidableEq, Repr

/-- Members of a queue's commit group: SQ CFG, BIND or CQ CFG, PASID, and the base (R335, R341). -/
structure QRegs where
  cfg : W32 := 0
  aux : W32 := 0
  baseLo : W32 := 0
  baseHi : W32 := 0
deriving DecidableEq, Repr

/-- A submission queue (R335 to R340, R354). `recv` is the DEVTIME at which each slot became pending. -/
structure Sq where
  regs : QRegs := {}
  head : Nat := 0
  tail : Nat := 0
  err : Bool := false
  recv : FMap Nat := []
  estGather : Nat := 0
  estLaunch : Nat := 0
  estMove : Nat := 0
deriving DecidableEq, Repr

/-- A completion queue (R341 to R343). -/
structure Cq where
  regs : QRegs := {}
  tail : Nat := 0
  head : Nat := 0
  err : Bool := false
  phase : Bool := true
deriving DecidableEq, Repr

/-- Opcodes of R346. -/
inductive Op where
  | nop | gatherPool | seqPool | launch | move | castle | commit | fence | signal | timestamp
deriving DecidableEq, Repr

/-- A position of a bag (R99, R105): index value, auxiliary value, table, partition (R95); whether it reads the default
row (R96); the sectors that have arrived; whether one was poisoned; whether it has been pooled. -/
structure Pos where
  bag : Nat
  ix : Nat
  aux : Nat
  table : Nat
  part : Nat
  dflt : Bool := false
  got : List (Nat × Bytes) := []
  bad : Bool := false
  done : Bool := false
deriving DecidableEq, Repr

/-- A sub-request to a partition (R114): sent, received, or its partial combined at the home. -/
inductive SubState where
  | sent | received | combined
deriving DecidableEq, Repr

/-- Where a gather stands: reading its bag list, gathering, waiting for translations of its output, landing. -/
inductive GStage where
  | list | gather | outXlat | landing
deriving DecidableEq, Repr

/-- A gather or pool at work: bags (table, length), positions, sub-requests. -/
structure Gather where
  stage : GStage := .gather
  bags : List (Nat × Nat) := []
  pos : List Pos := []
  subs : List (Nat × SubState) := []
deriving DecidableEq, Repr

/-- What an admitted command has under way. -/
inductive Work where
  | none
  | gather (g : Gather)
  | castle (switched : Bool) (drain : List (Nat × Nat))
  | commit (tgt batch : Nat)
  | move (xfer : Nat)
  | launch (l : Nat)
  | item (l tag : Nat)
deriving DecidableEq, Repr

/-- Life of a command: checked when read, admitted, waiting for a sequencer, running, yielded, waiting for earlier commands
of its SQ, waiting for a translation, ready for its record (R347, R350, R360). -/
inductive Phase where
  | checked | admitted | waitSeq | running | yielded | orderWait | xlat | ready
deriving DecidableEq, Repr

/-- A command in flight (R345, R351). `nAdmit` is its place in the order of admission from 1 on, 0 before it (R153); `landTo` the launch and teams whose
allocations its output lands in (R206). -/
structure Cmd where
  id : Nat
  sq : Nat
  ctx : Nat
  gen : W16
  op : Op
  opcode : Byte
  bytes : Bytes
  phase : Phase := .checked
  status : Byte := 0
  home : Option Nat := none
  sqHead : Nat := 0
  tRecv : W64 := 0
  tAdmit : W64 := 0
  pred : W64 := 0
  detail : W32 := 0
  waitsReport : Bool := false
  repOf : Nat := 0
  defaults : Nat := 0
  yields : Nat := 0
  rows : Nat := 0
  hist : FMap Nat := []
  common : Bool := false
  tables : FMap TblDesc := []
  work : Work := .none
  wrote : Bool := false
  strideStart : W64 := 0
  cqWaited : Bool := false
  cqSince : W64 := 0
  cqLate : Bool := false
  clusters : List Nat := []
  strideAt : Nat := 0
  cq : Nat := 0
  cfg : W32 := 0
  share : W32 := 0
  nAdmit : Nat := 0
  landTo : List (Nat × Nat) := []
deriving DecidableEq, Repr

/-- A record whose phase-tag line is still to be issued (R244). -/
structure TagLine where
  id : Nat
  cq : Nat
  ctx : Nat
  dev : Bool
  addr : Nat
  line0 : Bytes
  vec : Option Nat
  sent : Bool := false
  failed : Bool := false
deriving DecidableEq, Repr

/-- Measured capacity of a partition's gather engines (R354), positions per ns as a fraction. -/
structure GatherCap where
  delivered : Nat := 0
  busyNs : Nat := 0
  num : Nat := 4
  den : Nat := 1
deriving DecidableEq, Repr

/-- Contexts, queues and commands in flight. `owed` is what each arbiter of R357 owes a context, in grants times the weights of the
contexts that compete, and `turn` the SQ of a context that it served last; both keyed by arbiter and context. -/
structure FrontEnd where
  ctxSel : Nat := 0
  ctxStaged : CtxRegs := {}
  ctxResult : BitVec 2 := 0
  ctx : FMap Ctx := []
  atgSel : Nat := 0
  atgStaged : Grant := {}
  atgResult : BitVec 2 := 0
  atg : FMap Grant := []
  sqSel : Nat := 0
  sqStaged : QRegs := {}
  sqResult : BitVec 2 := 0
  sq : FMap Sq := []
  cqSel : Nat := 0
  cqStaged : QRegs := {}
  cqResult : BitVec 2 := 0
  cq : FMap Cq := []
  dbap : FMap Byte := []
  ring : FMap Bytes := []
  cmds : List Cmd := []
  nextId : Nat := 0
  nextAdmit : Nat := 0
  tags : List TagLine := []
  owed : FMap Nat := []
  turn : FMap Nat := []
  caps : FMap GatherCap := []
  lat : FMap Nat := []
  stopped : Bool := false
deriving DecidableEq, Repr

/-! ## SIMT cores and presses -/

/-- A code of an integer format: NaN, an infinity by its sign, or a finite code (R43). -/
inductive Cod where
  | nan
  | inf (neg : Bool)
  | int (v : Int)
deriving DecidableEq, Repr

/-- Why a group waits (R209, R211): nothing, memory, an event of a wait instruction, the team barrier, a collective. -/
inductive Wait where
  | none | mem | event | bar | coll
deriving DecidableEq, Repr

/-- A thread's reservation (R235): lane, line, DEVTIME of the LDR, and the instructions that the thread has executed since; a
memory access or a wait counts as more than the 32 of R237. -/
structure Resv where
  lane : Nat
  line : Nat
  at_ : W64
  n : Nat := 0
deriving DecidableEq, Repr

/-- A group of 32 threads (R207, R208, R214). Registers are keyed 256 × lane + n, predicates 8 × lane + p. `slot` is its
group slot: scheduler slot / 12. `arrived` are the threads that wait at BAR; `gs` those that wait at GSYNC, with the named
threads still to come (R210); `atoms` holds, by line, whether an ATOM under way is performed near (R288);
`skips`, by lane, the instructions that the group has issued since the lane's path was last issued or not ready (R210). -/
structure Group where
  num : Nat
  pcs : FMap Nat := []
  pc0 : Nat
  regs : FMap W32 := []
  preds : FMap Bool := []
  callStacks : FMap (List Nat) := []
  exited : BitVec 32 := 0
  wait : Wait := .none
  arrived : BitVec 32 := 0
  resv : List Resv := []
  dtHi : FMap W32 := []
  slot : Nat := 0
  gs : List (Nat × BitVec 32) := []
  atoms : List (Nat × Bool) := []
  skips : FMap Nat := []
deriving DecidableEq, Repr

/-- A team on its core with its local-store allocation (R198, R205). -/
structure Team where
  num : Nat
  core : Nat
  lsBase : Nat
  groups : List Group
deriving DecidableEq, Repr

/-- A work item of a resident launch (R203). -/
structure Item where
  tag : Nat
  arg : W64
  cmd : Nat
  taken : Bool := false
  done : Bool := false
  touts : Nat := 0
deriving DecidableEq, Repr

/-- A launch (R196 to R203). -/
structure Launch where
  id : Nat
  ctx : Nat
  gen : W16
  cmd : Nat
  cid : Nat
  code : Nat
  arg : W64
  split : Nat
  regs : Nat
  teamGroups : Nat
  nteams : Nat
  lsKib : Nat
  cluster : Option Nat
  home : Nat
  resident : Bool
  handle : Nat
  sq : Nat := 0
  common : Bool
  pdt : List (BitVec 128)
  placed : Nat := 0
  teams : List Team := []
  items : List Item := []
  nextTag : Nat := 0
  wrote : Bool := false
  ending : Option Byte := none
deriving DecidableEq, Repr

/-- Level of visibility that a store has reached (R232); a store that has reached system level is held no longer. -/
inductive Level where
  | core | device
deriving DecidableEq, Repr

/-- A store on its way out of a core (R212, R232): one request a line, with the threads that wrote and the command of their launch;
its bytes; the level reached. -/
structure StoreEnt where
  launch : Nat
  cmd : Nat
  team : Nat
  group : Nat
  lanes : List Nat
  line : Nat
  bytes : List (Nat × Byte)
  level : Level
deriving DecidableEq, Repr

/-- State of an L1 line (R280); an absent line is I. -/
inductive L1State where
  | M | E | S | F
deriving DecidableEq, Repr

/-- A line of an L1 (R276): `valid` are the sectors it holds, every byte of a valid sector being valid, for an L1 allocates nothing on
a store (R277); `hd` the halves of a host line that an atomic has changed (R289). -/
structure L1Line where
  line : Nat
  set : Nat
  way : Nat
  st : L1State
  data : Bytes
  poison : BitVec 4
  valid : BitVec 4 := 0xF
  hd : BitVec 2 := 0
  tag : Option Nat := none
deriving DecidableEq, Repr

/-- A line that an L1 requests (R282): whether in M, for which launch, the sectors that its threads need (R257). -/
structure Miss where
  line : Nat
  own : Bool
  launch : Nat
  sm : BitVec 4
deriving DecidableEq, Repr

/-- Sectors of a line returned to a requester that keeps no copy (R253). -/
structure Got where
  line : Nat
  sm : BitVec 4
  data : Bytes
  poison : BitVec 4
deriving DecidableEq, Repr

/-- A SIMT core (R200, R205, R276, R286). `land` is keyed by launch, `tok` and `mc` by 8 × launch + counter. `miss` holds the
lines an L1 requests (R282); `ret` what was returned to a core that keeps no copy; `lsBad` the bytes of the local store that a
transfer wrote as poison (R324). -/
structure Core where
  split : Nat := 0
  ls : FMap Byte := []
  land : FMap Nat := []
  tok : FMap Nat := []
  mc : FMap Nat := []
  sb : List StoreEnt := []
  l1 : List L1Line := []
  lfsr : W16 := 0xACE1#16
  wb : List L1Line := []
  notices : List Nat := []
  miss : List Miss := []
  ret : List Got := []
  lsBad : FMap Bool := []
deriving DecidableEq, Repr

/-- A block of weight or activation codes with its exponent (R182). -/
structure CodeBlk where
  e : Int
  c : List Cod
deriving DecidableEq, Repr

/-- An accumulator row (R174): E (UNSET is none), 128 values, 128 special states (`int 0` is NONE). -/
structure AccRow where
  e : Option Int := none
  a : List Int := []
  sp : List Cod := []
deriving DecidableEq, Repr

/-- A queued press instruction (R179): opcode, word, ADJREG and HREG values, token. -/
structure PressIns where
  opc : Byte
  word : W64
  adj : Nat
  hreg : Nat
  tok : Nat
deriving DecidableEq, Repr

/-- A stream of a core (R174). -/
structure Stream where
  launch : Option Nat := none
  press : Nat := 0
  active : List (List CodeBlk) := []
  shadow : List (List CodeBlk) := []
  rows : FMap AccRow := []
  queue : List PressIns := []
  running : List PressIns := []
deriving DecidableEq, Repr

/-- The cores and the presses. `turns` is the stream of its cluster that each stage of a press served last, keyed 3 × (2 × cluster +
press) + stage; 7 where it has served none (R193). -/
structure Simt where
  launches : List Launch := []
  nextLaunch : Nat := 0
  cores : FMap Core := []
  streams : FMap Stream := []
  busy : FMap (BitVec 48) := []
  turns : FMap Nat := []
deriving DecidableEq, Repr

/-! ## Tensor mover -/

/-- Who issued a transfer (R319). -/
inductive XOwner where
  | cmd (id : Nat)
  | simt (launch team group core mc pc : Nat)
deriving DecidableEq, Repr

/-- A row of a transfer in progress (R322): its number, whether it is delivered, the histogram of its elements (R70). -/
structure XRow where
  n : Nat
  done : Bool
  hist : FMap Nat
deriving DecidableEq, Repr

/-- A transfer (R319 to R326): `counted` rows have advanced its mover counter; `stuck` is the page that it cannot use and whether
it writes there; `fresh` a page to be translated anew; `again` the Success responses in a row; `high` the rows written before a
page request; `badAt` where a source read as poison; `isOver` is set once every row is delivered; `tout` marks a TOUT. -/
structure Xfer where
  id : Nat
  owner : XOwner
  ctx : Nat
  gen : W16
  desc : Bytes
  tag : Option Nat := none
  cursor : Nat := 0
  rows : List XRow := []
  counted : Nat := 0
  stuck : Option (Nat × Bool) := none
  prg : Option Nat := none
  fresh : Option Nat := none
  again : Nat := 0
  high : Nat := 0
  badAt : Option Nat := none
  isOver : Bool := false
  tout : Bool := false
deriving DecidableEq, Repr

structure Mover where
  xfers : List Xfer := []
  next : Nat := 0
deriving DecidableEq, Repr

/-! ## Device cache, coherence -/

/-- A line of a DC slice (R256, R269, R378). -/
structure DcLine where
  set : Nat
  way : Nat
  line : Nat
  data : Bytes
  bv : BitVec 128
  dirty : BitVec 4
  poison : BitVec 4
  sticky : Bool
  tag : Option Nat
  h0 : HostState
  h1 : HostState
deriving DecidableEq, Repr

/-- A directory entry (R281). -/
structure DirEnt where
  line : Nat
  owner : Option (Nat × L1State)
  sharers : BitVec 64
deriving DecidableEq, Repr

/-- For whom a request goes to memory or to the host: nobody waits for it, a command, the stores of a command's launch on a core, a
record's lines, a fill, patrol scrub, migration, a ring of firmware's, a row of a transfer with the command whose bytes it writes, the
host. -/
inductive Requester where
  | none
  | cmd (id : Nat)
  | core (c cmd : Nat)
  | record (id : Nat)
  | tagLine (id : Nat)
  | fill
  | scrub
  | migration
  | ring (telem : Bool)
  | row (xfer n cmd : Nat)
  | hostRead (hpa : Nat)
  | hostWrite (hpa : Nat)
deriving DecidableEq, Repr

/-- Host snoops (R380). -/
inductive Snp where
  | data | inv | cur
deriving DecidableEq, Repr

/-- What a transaction of a home slice is for (R282). -/
inductive TxnKind where
  | readShared (core : Nat) (sm : BitVec 4)
  | readOwn (core : Nat) (sm : BitVec 4)
  | merge (who : Requester) (bytes : List (Nat × Byte)) (tag : Option Nat)
  | hostSnoop (op : Snp) (pa : Nat)
  | recall
deriving DecidableEq, Repr

/-- A transaction in progress on a line (R284): cores still to be snooped, cores whose answers are on their way, the data that a
holder supplied, whether a snooped holder keeps its copy. -/
structure Txn where
  line : Nat
  kind : TxnKind
  inval : Bool
  snoops : List Nat
  answers : List Nat
  data : Option L1Line
  kept : Bool
  since : W64
deriving DecidableEq, Repr

/-- A line of a prefetch side buffer (R271); of a host line, the halves that have come. -/
structure SideEnt where
  line : Nat
  data : Bytes
  placed : W64
  halves : BitVec 2 := 3
deriving DecidableEq, Repr

/-- Requests that a home may refuse (R282, R284); an ATOM performed near is one of its own (R287). -/
inductive ReqKind where
  | readShared | readOwn | writeThrough | write | readCurrent | atom
deriving DecidableEq, Repr

/-- A request refused with NAK (R284): the agent (a core, or 256 for the requesters that keep no copy), the line, the kind, the NAKs so
far, and the moment of the last. -/
structure Nak where
  core : Nat
  line : Nat
  kind : ReqKind
  n : Nat
  at_ : W64
deriving DecidableEq, Repr

/-- A DC slice (R256 to R288). `fills` are the lines with a fill in progress (R258), `pfills` those that a prefetch fetches (R271);
`gapMig` and `gapCommit` count the slots in a row that foreground work took at the request pipeline and at the commit port while a
migration or a commit was pending there (R38). -/
structure Slice where
  lfsr : W16 := 0
  scr : Nat := 0
  off : Nat := 0
  result : BitVec 2 := 0
  busy : Bool := false
  lines : List DcLine := []
  fills : List Nat := []
  dir : List DirEnt := []
  txns : List Txn := []
  naks : List Nak := []
  starved : List Nak := []
  side : List SideEnt := []
  pfills : List Nat := []
  ctrs : FMap Nat := []
  last : FMap Nat := []
  gapMig : Nat := 0
  gapCommit : Nat := 0
deriving DecidableEq, Repr

/-- A write of a non-caching requester on its way to the home (R282 Write). -/
structure PendWrite where
  who : Requester
  line : Nat
  bytes : List (Nat × Byte)
  tag : Option Nat
deriving DecidableEq, Repr

/-- The slices; the writes on their way to them; the scratchpad bytes and, by offset / 8, the words of it that read as poison (R290);
the lines outside the allocating policies that a requester without a copy waits for (`want`) and those returned to it (`got`). -/
structure Caches where
  slices : FMap Slice := []
  writes : List PendWrite := []
  scratch : FMap Byte := []
  scratchBad : FMap Bool := []
  want : List Nat := []
  got : List Got := []
deriving DecidableEq, Repr

/-- An entry of the region attribute table (R263). -/
structure RatEnt where
  baseLo : W32 := 0
  baseHi : W32 := 0
  limLo : W32 := 0
  limHi : W32 := 0
  attr : W32 := 0
deriving DecidableEq, Repr

structure Rat where
  staged : FMap RatEnt := []
  com : FMap RatEnt := []
  applying : FMap RatEnt := []
  result : BitVec 2 := 0
  busy : Bool := false
deriving DecidableEq, Repr

/-! ## Memory tiers, ports, translation -/

/-- `MEM_*` registers and what training found (R296, R297, R307, R310). -/
structure MemMap where
  npres : BitVec 8 := 0
  ncap : BitVec 7 := 0
  fpres : BitVec 16 := 0
  fcap : BitVec 9 := 0
  lock : Bool := false
  bad : Bool := false
  nloc : BitVec 7 := 0
  hvdm0 : W32 := 0
  hvdm1 : W32 := 0
  mapped : Bool := false
  capTrained : FMap Nat := []
  nearBad : Bool := false
  farBad : Bool := false
deriving DecidableEq, Repr

/-- Operations of a port request (R301). -/
inductive POp where
  | rd | wr | scr | sre | srx | trn (keep : Bool)
deriving DecidableEq, Repr

/-- A port request: queued (no tag yet) or outstanding. `crit` is the critical sector of a read (R301). `snap` and `snapBad` are the
data and the poison that a read sent returns (R303); `stale` the sectors written since; `cond` marks a correcting or poisoning write of
R309. -/
structure PReq where
  op : POp
  tag : Nat := 0
  pline : Nat := 0
  dline : Nat := 0
  smask : BitVec 4 := 0
  crit : BitVec 2 := 0
  who : Requester := .none
  bytes : List (Nat × Byte) := []
  poison : BitVec 4 := 0
  snap : Bytes := []
  snapBad : BitVec 4 := 0
  stale : BitVec 4 := 0
  cond : Bool := false
  since : W64 := 0
deriving DecidableEq, Repr

/-- A memory port (R301 to R311, R490). `gapScrub` and `gapMig` count the arbitration slots in a row in which the activity had a request
pending and did not get the slot (R38). -/
structure Port where
  credits : Nat := 0
  queue : List PReq := []
  sent : List PReq := []
  selfRefresh : Bool := false
  lost : Bool := false
  ready : Bool := false
  cap : Nat := 0
  scrubLine : Nat := 0
  passes : Nat := 0
  gapScrub : Nat := 0
  gapMig : Nat := 0
deriving DecidableEq, Repr

/-- An ATC entry (R312): the first virtual and the first physical page of the 2^log2 pages of 4 KiB that it covers. -/
structure AtcEnt where
  pasid : Nat
  ctx : Nat
  gen : W16
  page : Nat
  ppn : Nat
  r : Bool
  w : Bool
  noWrite : Bool
  log2 : Nat := 0
deriving DecidableEq, Repr

/-- Who needs a translation. -/
inductive XlatFor where
  | cmd (id : Nat)
  | group (launch team group : Nat) (store : Bool)
  | xfer (id : Nat)
  | ring (sq : Nat)
  | cq (q : Nat)
  | mgmt (telem : Bool)
  | prefetch
deriving DecidableEq, Repr

/-- A Translation Request outstanding (R312, R314). -/
structure XlatReq where
  id : Nat
  pasid : Nat
  ctx : Nat
  gen : W16
  page : Nat
  noWrite : Bool
  who : XlatFor
  va : Nat
  pc : Nat
  since : W64
deriving DecidableEq, Repr

/-- A page request group (R317, R318). -/
structure Prg where
  index : Nat
  xfer : Nat
  pages : List Nat
  since : W64
  abandoned : Bool
deriving DecidableEq, Repr

/-- An invalidation whose completion is due (R316), with the first physical page and the number of pages of each entry removed. -/
structure Inv where
  itag : Nat
  ppns : List (Nat × Nat)
deriving DecidableEq, Repr

structure Atc where
  ents : List AtcEnt := []
  reqs : List XlatReq := []
  next : Nat := 0
  invs : List Inv := []
  prgs : List Prg := []
  prFail : Bool := false
deriving DecidableEq, Repr

/-! ## Host endpoint -/

/-- D2H requests of R379. -/
inductive D2hOp where
  | rdShared | rdOwn | rdCurr | itoMWr | woWrInv | dirtyEvict | cleanEvict
deriving DecidableEq, Repr

structure D2h where
  tag : Nat
  op : D2hOp
  pa : Nat
  bytes : List (Nat × Byte) := []
  who : Requester := .none
  since : W64 := 0
  poison : Bool := false
deriving DecidableEq, Repr

/-! ## Outputs -/

/-- What the block presents at its ports (R1), in the terms of the transaction layer. -/
inductive Out where
  | readData (off : Nat) (v : W32)
  | readBytes (aperture : Nat) (off : Nat) (b : Bytes) (poison : Bool)
  | unsupported
  | cfgRetry
  | cfgData (reg v : Nat)
  | portReq (port : Nat) (r : PReq)
  | d2hReq (r : D2h)
  | h2dData (pa : Nat) (b : Option Bytes) (poison : Bool)
  | memData (hpa : Nat) (b : Bytes) (poison : Bool)
  | memCmp (hpa : Nat)
  | translationRequest (pasid page : Nat) (noWrite : Bool)
  | pageRequest (pasid index page : Nat) (write last : Bool)
  | invalidationCompletion (itag : Nat)
  | msix (vec : Nat)
  | assertInta
  | deassertInta
  | linkDownSignal
  | viral
  | csr (addr : BitVec 12) (we : Bool) (v : W32)
  | sideband (tag eid : Nat) (b : Bytes)
  | mctpControl (cmd : Byte) (b : Bytes)
  | i3cIbi
  | doe (kind : DoeKind) (b : Bytes)
  | flashErase (slot : Nat)
  | pdomEn (d : Nat) (on : Bool)
deriving DecidableEq, Repr

structure Hdm where
  base : Nat := 0
  size : Nat := 0
  committed : Bool := false
  error : Bool := false
deriving DecidableEq, Repr

/-- Pending events of a vector's coalescer (R382). -/
structure Coal where
  n : Nat := 0
  first : W64 := 0
deriving DecidableEq, Repr

/-- What a command gives of the header of a request (R144): the BAR, the offset in it, the requester ID, the bytes it covers. -/
structure TlpHeader where
  bar : Nat
  offset : Nat
  reqid : W16
  length : Nat
deriving DecidableEq, Repr

/-- Errors logged through AER, an unsupported request with its header (R393, R144). -/
inductive Aer where
  | unsupportedRequest (h : TlpHeader)
  | poisonedTlp | completionTimeout | unexpectedCompletion | ideCheckFailed
deriving DecidableEq, Repr

/-- The endpoint. `gapTelem` counts the flit slots in a row that other requests took while telemetry waited (R38). -/
structure Hif where
  cfgReady : Bool := false
  cfgFrom : W64 := 0
  cfgLink : Bool := false
  ids : List Nat := []
  mse : Bool := false
  bme : Bool := false
  d0 : Bool := true
  linkUp : Bool := false
  fmt : BitVec 2 := 0
  linkHold : Bool := true
  pmState : BitVec 2 := 0
  l1Req : Bool := false
  l0pReq : Bool := false
  aspmL1 : Bool := false
  l0pOn : Bool := false
  flr : Bool := false
  msixEn : Bool := false
  funcMask : Bool := false
  intxDis : Bool := false
  unmasked : FMap Bool := []
  pba : FMap Bool := []
  coal : FMap Coal := []
  intxPend : Bool := false
  intxAsserted : Bool := false
  hdm : FMap Hdm := []
  d2h : List D2h := []
  held : List D2h := []
  heldOut : List Out := []
  nextTag : Nat := 0
  prAlloc : Nat := 0
  cto : Nat := 40000000
  aer : List Aer := []
  viral : Bool := false
  ideInsecure : FMap Bool := []
  csr : Option (BitVec 12 × Bool) := none
  gapTelem : Nat := 0
deriving DecidableEq, Repr

/-! ## Rook and side-band -/

/-- Where a management command came from (R408, R418); the response to `gone` is discarded (R410). -/
inductive JobSrc where
  | mailbox (m : Nat)
  | sideband (tag eid : Nat)
  | gone
deriving DecidableEq, Repr

/-- A management command in progress, and its answer once it has one: RET, AUX, payload (R409, R413). -/
structure Job where
  id : Nat
  src : JobSrc
  opcode : Nat
  payload : Bytes
  ans : Option (Nat × Nat × Bytes) := none
deriving DecidableEq, Repr

/-- Firmware update session (R414). -/
structure FwSession where
  owner : JobSrc
  slot : Nat
  len : Nat
  last : W64
deriving DecidableEq, Repr

/-- Telemetry ring (R423): `part` is how many of the lines 1 to 3 of the record under way are issued, 4 once line 0 is; none under
way is `none`. -/
structure TelemRing where
  ctx : Nat
  log2n : Nat
  period : Nat
  base : Nat
  part : Option Nat := none
deriving DecidableEq, Repr

/-- Host fault ring (R434): `mirror` is the SEQ of the record whose write is under way. -/
structure FaultRing where
  ctx : Nat
  log2n : Nat
  base : Nat
  tailAddr : Nat
  mirror : Option Nat := none
deriving DecidableEq, Repr

/-- Cumulative counts of the telemetry record (R424). -/
structure TelemCounts where
  (ok resigned failed rows defaults : W64 := 0)
  press : FMap W64 := []
  prsSeen : FMap (BitVec 48) := []
  near : FMap W64 := []
  (far dcHit dcMiss : W64 := 0)
  (commits migrations corrected skipped faults faultsLost seq : W32 := 0)
  powerAcc : Nat := 0
  powerN : Nat := 0
deriving DecidableEq, Repr

structure Rook where
  state : Nat := 0
  restarts : Nat := 0
  slot : Nat := 0
  loaded : Bool := false
  imgSeq : Nat := 0
  cfgRej : Bool := false
  cfgOk : Bool := false
  sigChk : Bool := false
  fwver : BitVec 31 := 0
  running0 : W64 := 0
  beat : W64 := 0
  restartTimes : List W64 := []
  qstate : BitVec 2 := 0
  qStart : W64 := 0
  qGrace : Nat := 0
  payload : FMap Byte := []
  jobs : List Job := []
  nextJob : Nat := 0
  flash : FMap Byte := []
  session : Option FwSession := none
  locate : Bool := false
  dynAddr : Option (BitVec 7) := none
  sbAddr : BitVec 7 := 0
  eid : Nat := 0
  eventEid : Option Nat := none
  telem : Option TelemRing := none
  snapAt : W64 := 0
  latest : Bytes := []
  counts : TelemCounts := {}
  fring : Option FaultRing := none
  testClosed : Bool := false
  keyDigest : BitVec 384 := 0
deriving DecidableEq, Repr

/-! ## Fault collector -/

/-- REACT of a record, `FLT_REACT` of a source (R427, R438). -/
structure React where
  irq : Bool
  nmi : Bool
  errn : Bool
  reset : Nat
deriving DecidableEq, Repr

/-- A fault record (R427). -/
structure Rec where
  seq : Nat
  cls : Nat
  react : React
  source : Nat
  injected : Bool
  tFirst : W64
  tLast : W64
  count : Nat
  ctx : Option Nat
  gen : W16
  loc : Loc
  addr : Option Nat
  info : W64
  blame : Option Nat
  pending : Bool
deriving DecidableEq, Repr

/-- A checker test in progress (R446). -/
structure ChkTest where
  checker : Nat
  unit : Nat
  since : W64
deriving DecidableEq, Repr

/-- A fault injection armed (R448). -/
structure Inject where
  kind : Nat
  target : Nat
  index : Nat
deriving DecidableEq, Repr

/-- A report in an intake buffer (R430), with the generation tag and DEVTIME of its detection and the reaction in force
then (R441). `isOver`: the buffer was full. -/
structure Intake where
  buf : Nat
  isOver : Bool
  rep : Report
  gen : W16
  time : W64
  react : React
deriving DecidableEq, Repr

structure Flt where
  recs : List Rec := []
  fatal : Option Rec := none
  seq : Nat := 0
  ovf : Nat := 0
  lost : Bool := false
  react : FMap React := []
  intake : List Intake := []
  safe : Bool := false
  errn : Bool := false
  nmi : List Nat := []
  chk : Option ChkTest := none
  chkResult : BitVec 2 := 0
  armed : Option Inject := none
deriving DecidableEq, Repr

/-! ## Power and pins -/

structure Power where
  porstLow : Bool := true
  enAt : W64 := 0
  bootAt : W64 := 0
  perstLow : Bool := false
  en : BitVec 11 := 0
  iso : BitVec 11 := 0x7FF#11
  ack : BitVec 11 := 0
  fail : BitVec 11 := 0
  on : BitVec 11 := 0
  lockd : BitVec 11 := 0
  sampled : Bool := false
  retain : Bool := false
  ftest : Bool := false
  refLoss : Bool := false
  cluStop : FMap Bool := []
  pllOff : BitVec 8 := 0
  idleFrom : FMap W64 := []
  step : Nat := 9
  below : Nat := 0
  samples : List Nat := []
  isOver : Bool := false
  hot : Bool := false
  noSens : Bool := false
  temp : BitVec 12 := 0
  sens : FMap (Option (BitVec 12)) := []
  sensAt : FMap W64 := []
  pwrcyc : Bool := false
deriving DecidableEq, Repr

/-- A reset in progress (R452 to R457). `fromSafe`: it leaves the safe state; `asked`: its register asked for it. -/
structure ResetRun where
  kind : ResetKind
  index : Nat
  start : W64
  fromSafe : Bool
  asked : Bool
deriving DecidableEq, Repr

/-- The state of the block. -/
structure State where
  pending : List Instr
  freeCtr : Nat
  out : List Out
  devtime : W64
  acc : Access
  regs : FMap W32
  latch : FMap W32
  mng : FMap MngSite
  tbl : TableUnit
  upd : UpdateUnit
  mig : Migration
  ret : Retention
  fe : FrontEnd
  simt : Simt
  mov : Mover
  dc : Caches
  rat : Rat
  dram : FMap Byte
  poison : FMap Bool
  mem : MemMap
  ports : FMap Port
  atc : Atc
  hif : Hif
  rook : Rook
  flt : Flt
  pwr : Power
  rst : List ResetRun
deriving DecidableEq, Repr

/-- The state that `PORST_N` leaves while it is asserted (R398, R465, R485): every domain off, nothing commanded. PORST_DEASSERT
starts the block from here (DESIGN CHOICE, log 33). The values it gives where the spec states none are those of logs 6, 7, 20 to 22,
24, 25 and 31. -/
def State.reset : State where
  pending := []
  freeCtr := 0
  out := []
  devtime := 0
  acc := {}
  regs := []
  latch := []
  mng := []
  tbl := {}
  upd := {}
  mig := {}
  ret := {}
  fe := {}
  simt := {}
  mov := {}
  dc := {}
  rat := {}
  dram := []
  poison := []
  mem := {}
  ports := []
  atc := {}
  hif := {}
  rook := {}
  flt := {}
  pwr := {}
  rst := []

end Sys2Proof.Machine
end

