-- ==== Sys2Proof/Machine/Ops.lean ====
section
/-! DEFINITION. Operations over the sparse tables, words and bytes, the power domains, the count of discarded register
accesses, reports to the fault collector, and the gate through which every register write passes. -/

namespace Sys2Proof.Machine

/-! ## Sparse tables -/

/-- What key `k` of a table reads as; `d` is what an unlisted key reads as. -/
def fget {α : Type} (d : α) : FMap α → Nat → α
  | [], _ => d
  | (k, v) :: m, i => if k = i then v else fget d m i

/-- Write `v` at key `k`, keeping the canonical form for the default `d` of that key. -/
def fset {α : Type} [DecidableEq α] (d : α) : FMap α → Nat → α → FMap α
  | [], k, v => if v = d then [] else [(k, v)]
  | (j, u) :: m, k, v =>
    if k < j then (if v = d then (j, u) :: m else (k, v) :: (j, u) :: m)
    else if k = j then (if v = d then m else (k, v) :: m)
    else (j, u) :: fset d m k v

/-- Apply `f` to the value at key `k`. -/
def fmod {α : Type} [DecidableEq α] (d : α) (m : FMap α) (k : Nat) (f : α → α) : FMap α :=
  fset d m k (f (fget d m k))

/-- Keys from `lo` on, strictly rising, and no entry equal to the default `d` of its key. -/
def fwfFrom {α : Type} [DecidableEq α] (d : Nat → α) (lo : Nat) : FMap α → Bool
  | [] => true
  | (k, v) :: m => decide (lo ≤ k) && decide (v ≠ d k) && fwfFrom d (k + 1) m

/-- The canonical form of a table. -/
def fwf {α : Type} [DecidableEq α] (d : Nat → α) (m : FMap α) : Bool := fwfFrom d 0 m

/-- The canonical form of a byte memory whose unlisted bytes read as zero (DESIGN CHOICE, logs 6 and 7). -/
abbrev Memory.wf (m : FMap Byte) : Bool := fwf (fun _ => (0 : Byte)) m

/-- Bytes `a` to `a + n - 1`. -/
def memRead (m : FMap Byte) (a n : Nat) : Bytes := (List.range n).map fun i => fget 0 m (a + i)

/-- Write bytes at addresses, in the order listed. -/
def memWrite (m : FMap Byte) : List (Nat × Byte) → FMap Byte
  | [] => m
  | (a, b) :: l => memWrite (fset 0 m a b) l

/-- Bytes placed one after another from address `a`. -/
def placed (a : Nat) : Bytes → List (Nat × Byte)
  | [] => []
  | b :: l => (a, b) :: placed (a + 1) l

/-- Enabled bytes placed from address `a`. -/
def placedMasked (a : Nat) : Masked → List (Nat × Byte)
  | [] => []
  | none :: l => placedMasked (a + 1) l
  | some b :: l => (a, b) :: placedMasked (a + 1) l

/-! ## Words, bytes and fields -/

/-- `n` bytes of `v`, little-endian (R7). -/
def leBytes : Nat → Nat → Bytes
  | 0, _ => []
  | n + 1, v => BitVec.ofNat 8 v :: leBytes n (v / 256)

/-- The number that little-endian bytes spell (R7). -/
def leNat : Bytes → Nat
  | [] => 0
  | b :: l => b.toNat + 256 * leNat l

/-- Bytes `off` to `off + n - 1` of a structure, zero beyond its end. -/
def slice (b : Bytes) (off n : Nat) : Bytes := (List.range n).map fun i => b.getD (off + i) 0

/-- The little-endian number in bytes `off` to `off + n - 1`. -/
def num (b : Bytes) (off n : Nat) : Nat := leNat (slice b off n)

/-- Bits [hi:lo] of a number. -/
def bits (v hi lo : Nat) : Nat := v / 2 ^ lo % 2 ^ (hi + 1 - lo)

/-- Bits [hi:lo] of a register. -/
def fld (w : W32) (hi lo : Nat) : Nat := bits w.toNat hi lo

/-- Register with bits [hi:lo] replaced by `v`. -/
def setFld (w : W32) (hi lo v : Nat) : W32 :=
  let m : W32 := BitVec.ofNat 32 ((2 ^ (hi + 1 - lo) - 1) * 2 ^ lo)
  (w &&& ~~~m) ||| (BitVec.ofNat 32 (v * 2 ^ lo) &&& m)

/-- Bit `i` of a register. -/
def bit (w : W32) (i : Nat) : Bool := w.getLsbD i

/-- 64-bit value of two registers. -/
def pair (lo hi : W32) : Nat := lo.toNat + 2 ^ 32 * hi.toNat

/-- Bits of a mask from `hi` down to `lo`. -/
def maskOf (hi lo : Nat) : W32 := BitVec.ofNat 32 ((2 ^ (hi + 1 - lo) - 1) * 2 ^ lo)

/-- Increment of a 31-bit counter that saturates (R79, R436). -/
def sat31 (n k : Nat) : Nat := min 0x7FFFFFFF (n + k)

/-- Signed value of the low `n` bits of `v`. -/
def signed (n v : Nat) : Int := if v % 2 ^ n < 2 ^ (n - 1) then (v % 2 ^ n : Nat) else (v % 2 ^ n : Nat) - (2 ^ n : Nat)

/-- Nat form of the low `n` bits of an integer. -/
def toBits (n : Nat) (i : Int) : Nat := (i % (2 ^ n : Nat)).toNat

/-- Elements of a list without those at which `p` holds; the first one only. -/
def dropFirst {α : Type} (p : α → Bool) : List α → List α
  | [] => []
  | a :: l => if p a then l else a :: dropFirst p l

/-- Apply `f` to the elements at which `p` holds. -/
def mapWhere {α : Type} (p : α → Bool) (f : α → α) (l : List α) : List α := l.map fun a => if p a then f a else a

/-- Time in nanoseconds between two readings of DEVTIME. -/
def since (now then' : W64) : Nat := now.toNat - then'.toNat

/-! ## Domains (R462) -/

inductive Dom where
  | aon | mgt | fab | hif | part (p : Nat)
deriving DecidableEq, Repr

/-- A domain is powered, out of isolation and released from reset (R463). HIF runs on the fabric PLL (R470). -/
def up (s : State) : Dom → Bool
  | .aon => !s.pwr.porstLow
  | .mgt => s.pwr.on.getLsbD 0 && s.pwr.lockd.getLsbD 0
  | .fab => s.pwr.on.getLsbD 1 && s.pwr.lockd.getLsbD 1
  | .hif => s.pwr.on.getLsbD 2 && s.pwr.lockd.getLsbD 1
  | .part p => s.pwr.on.getLsbD (3 + p) && s.pwr.lockd.getLsbD (3 + p)

/-- The form of every meaning. With REFLOSS set the behaviour of every domain but AON is not defined (R472); a command
for a domain that is not running has no effect (R464, DESIGN CHOICE, log 2); else the command has its effect. -/
def live (d : Dom) (s : State) (f : State → State) : Host.Outcome State Fault Refusal :=
  if s.pwr.refLoss && d ≠ .aon then .fault .refclkLost
  else if up s d then .next (f s)
  else .next s

/-! ## Outputs and free values -/

/-- What leaves the block as flits. -/
def onLink : Out → Bool
  | .portReq _ _ => false
  | .csr _ _ _ => false
  | .sideband _ _ _ => false
  | .mctpControl _ _ => false
  | .i3cIbi => false
  | .flashErase _ => false
  | .pdomEn _ _ => false
  | _ => true

/-- An output; a flit to send asks for the exit from L1 (R387). DESIGN CHOICE, log 45. -/
def emit (o : Out) (s : State) : State :=
  { s with out := o :: s.out, hif := if onLink o then { s.hif with l1Req := false } else s.hif }

/-- Streams of IDE (R397): 0 to 2 of CXL.io, 3 of CXL.cache and CXL.mem. Nothing is issued on an Insecure one. -/
def secure (s : State) (stream : Nat) : Bool := !fget false s.hif.ideInsecure stream

/-- A memory request of the block to the host: held while Bus Master Enable is 0 (R372) or its stream is Insecure (R397), none in
the safe state (R443). -/
def emitMem (o : Out) (s : State) : State :=
  if s.flt.safe then s
  else if s.hif.bme && secure s 0 then emit o s
  else { s with hif := { s.hif with heldOut := s.hif.heldOut ++ [o] } }

/-! ## Plain registers -/

/-- Reset value of a plain register, by its CTLAP offset; each from the register's own table (DEDUCED, log 5). -/
def regReset (off : Nat) : W32 :=
  if off = 0x82020 then 0x0010040A#32
  else if 0xA3000 ≤ off && off < 0xA3100 then 0xF#32
  else if off = 0xB0020 then 0x80001800#32
  else if off = 0xC3008 then 0x10#32
  else if off = 0xE0000 then 0xC00A0064#32
  else if 0xE1000 ≤ off && off < 0xE5000 then 0x00010000#32
  else if off = 0xF0010 then 0x000001F4#32
  else if off = 0x120000 then 0x000001A4#32
  else if off = 0x120004 then 0x00FF6E5F#32
  else if 0x120100 ≤ off && off < 0x120120 then 0x000003E8#32
  else if 0x120200 ≤ off && off < 0x120300 then 0x9#32
  else 0

def rget (s : State) (off : Nat) : W32 := fget (regReset off) s.regs off
def rsetR (r : FMap W32) (off : Nat) (v : W32) : FMap W32 := fset (regReset off) r off v
def rset (off : Nat) (v : W32) (s : State) : State := { s with regs := rsetR s.regs off v }
/-- A 31-bit count register of the plain registers grows (R140, R344). -/
def rcount (off k : Nat) (s : State) : State := rset off (BitVec.ofNat 32 (sat31 (rget s off).toNat k)) s

/-- The next free value (DESIGN CHOICE, log 3). -/
def freeVal (w : Nat) (s : State) : BitVec w := Config.freeBits w s.freeCtr

def useFree (s : State) : State := { s with freeCtr := s.freeCtr + 1 }

/-! ## Discarded register accesses (R494) -/

def Access.count1 (a : Access) (reason : BitVec 3) (off : Nat) : Access :=
  { reason := reason, count := if a.count = 0xFFFF#16 then a.count else a.count + 1, offset := BitVec.ofNat 25 off }

def countAcc (reason : BitVec 3) (off : Nat) (s : State) : State := { s with acc := s.acc.count1 reason off }

/-! ## Geometry of the block (R462, 00) -/

/-- Partition of compute cluster c (0 to 63) or gather cluster 64 + p. -/
def partOfCluster (c : Nat) : Nat := if c < 64 then c / 8 else c - 64
def partOfSlice (sl : Nat) : Nat := sl / 8
def clusterOfCore (c : Nat) : Nat := c / 4
def partOfCore (c : Nat) : Nat := c / 32
/-- Ports 0 to 127 are NP, 128 to 143 are FP (R28). -/
def partOfPort (p : Nat) : Nat := if p < 128 then p / 16 else (p - 128) / 2

def resetting (s : State) (k : ResetKind) (i : Nat) : Bool := s.rst.any fun r => r.kind = k && r.index = i
def partInReset (s : State) (p : Nat) : Bool := resetting s .partition p || resetting s .block 0
/-- A cluster held by a cluster reset, or by a partition reset of its partition (R455, R456). -/
def clusterInReset (s : State) (c : Nat) : Bool := resetting s .cluster c || partInReset s (partOfCluster c)

/-- A request restarts a stopped partition PLL (R474). -/
def Power.wake (p : Power) (part : Nat) : Power := { p with pllOff := p.pllOff &&& ~~~(BitVec.ofNat 8 (2 ^ part)) }
def wakePart (part : Nat) (s : State) : State := { s with pwr := s.pwr.wake part }

/-- The event that a cluster waits for restarts its clock (R473). -/
def Power.startClk (p : Power) (c : Nat) : Power := { p with cluStop := fset false p.cluStop c false }

/-! ## Fault sources and reports (R425, R426) -/

/-- Class of a source; `none` for a reserved code. Source 0x14 takes the class of its next rung, given in INFO's rung. -/
def sourceClass (src : Nat) : Option Nat :=
  if src ∈ [0x30, 0x38, 0x50] then some 0
  else if src ∈ [0x06, 0x07, 0x08, 0x09, 0x0A, 0x0B, 0x10, 0x15, 0x16, 0x17, 0x18, 0x20, 0x21, 0x28, 0x29, 0x2A, 0x2B,
    0x31, 0x39, 0x40, 0x48, 0x49, 0x4A] then some 1
  else if src ∈ [0x01, 0x02, 0x03, 0x04, 0x05] then some 2
  else if src ∈ [0x11, 0x33, 0x51] then some 3
  else if src ∈ [0x12, 0x3A, 0x52] then some 4
  else if src ∈ [0x13, 0x32, 0x3B, 0x41, 0x42, 0x53] then some 5
  else if src ∈ [0x43, 0x54] then some 6
  else none

/-- Least reset of a class (R425). -/
def leastReset (cls : Nat) : Nat := if cls < 2 then 0 else cls - 1

/-- Reaction of a class after `PORST_N` (R425). -/
def classReact (cls : Nat) : React :=
  { irq := 1 ≤ cls && cls ≤ 4, nmi := cls = 5, errn := 4 ≤ cls, reset := leastReset cls }

/-- Class of a report: for source 0x14, that of the rung after the one that overran (R451), whose level is in INFO. -/
def reportClass (r : Report) (next : Nat) : Nat :=
  if r.source = 0x14 then next else (sourceClass r.source).getD 0

/-- `FLT_REACT` of a source (R438). -/
def reactDefault (src : Nat) : React :=
  match sourceClass src with
  | some c => classReact c
  | none => { irq := false, nmi := false, errn := false, reset := 0 }
def reactOf (f : Flt) (src : Nat) : React := fget (reactDefault src) f.react src

def genOf (s : State) (ctx : Option Nat) : W16 :=
  match ctx with
  | some c => (fget {} s.fe.ctx c).gen
  | none => 0

/-- A report enters intake buffer `buf` (0 to 7 the partitions, 8 the front end), which holds 16 (R430). -/
def Flt.take (f : Flt) (buf : Nat) (r : Report) (gen : W16) (t : W64) : Flt :=
  { f with intake := f.intake ++
      [{ buf := buf, isOver := 16 ≤ (f.intake.filter fun i => i.buf = buf).length, rep := r, gen := gen, time := t,
         react := reactOf f r.source }] }

/-- An injection armed at the unit fires: the fault that results carries INJECTED (R448). -/
def Flt.fires (f : Flt) (l : Loc) : Bool := match f.armed with
  | some i => i.target = l.kind && i.index = l.index
  | none => false

def detect (buf : Nat) (r : Report) (s : State) : State :=
  if s.flt.fires r.loc then
    { s with flt := { s.flt.take buf { r with injected := true } (genOf s r.ctx) s.devtime with armed := none } }
  else { s with flt := s.flt.take buf r (genOf s r.ctx) s.devtime }

/-- A report with the usual fields. -/
def report (source : Nat) (ctx : Option Nat) (loc : Loc) (addr : Option Nat) (info : Nat) : Report :=
  { source := source, ctx := ctx, loc := loc, addr := addr, info := BitVec.ofNat 64 info, blame := none, owner := none,
    injected := false }

def locNone : Loc := { kind := 0, index := 0 }
def locCore (c : Nat) : Loc := { kind := 1, index := c }
def locCluster (c : Nat) : Loc := { kind := 2, index := c }
def locPart (p : Nat) : Loc := { kind := 3, index := p }
def locSlice (sl : Nat) : Loc := { kind := 4, index := sl }
def locPort (p : Nat) : Loc := if p < 128 then { kind := 5, index := p } else { kind := 6, index := p - 128 }
def locFront : Loc := { kind := 7, index := 0 }
def locHif : Loc := { kind := 8, index := 0 }
def locRook : Loc := { kind := 9, index := 0 }
def locCollector : Loc := { kind := 0xA, index := 0 }
def locSite (n : Nat) : Loc := { kind := 0xB, index := n }

/-- Cluster that a unit is or lies in (R441). -/
def locClusterOf (l : Loc) : Option Nat :=
  if l.kind = 1 then some (l.index / 4) else if l.kind = 2 then some l.index
  else if l.kind = 0xB && l.index < 8 then some (64 + l.index) else none

/-- Partition that a unit is or lies in (R441). -/
def locPartOf (l : Loc) : Option Nat :=
  match locClusterOf l with
  | some c => some (partOfCluster c)
  | none =>
    if l.kind = 3 then some l.index else if l.kind = 4 then some (l.index / 8)
    else if l.kind = 5 then some (l.index / 16) else if l.kind = 6 then some (l.index / 2) else none

/-! ## The gate of CTLAP writes -/

/-- CTLAP requests reach the block: link up, Memory Space Enable, D0, no FLR in progress (R372, R386, R390). -/
def ctlReach (s : State) : Bool := s.hif.linkUp && s.hif.mse && s.hif.d0 && !s.hif.flr

def isMboxPayload (off : Nat) : Bool := 0x100000 ≤ off && off < 0x110000 && 0x100 ≤ (off % 0x1000)

/-- Registers whose writes take effect in the safe state (R444). -/
def safeWritable (off : Nat) : Bool :=
  off = 0x11010C || (0x100000 ≤ off && off < 0x110000) || off = 0x0F0008 || off ∈ [0x110010, 0x11000C, 0x110000, 0x110024]

/-- Registers that a cluster or partition reset holds (R507). -/
def heldInReset (s : State) (off : Nat) : Bool :=
  if 0xA3000 ≤ off && off < 0xA3100 then clusterInReset s ((off - 0xA3000) / 4)
  else if 0x90000 ≤ off && off < 0x90400 then clusterInReset s ((off - 0x90000) / 16)
  else if 0xA2000 ≤ off && off < 0xA2400 && off % 16 = 0 then partInReset s (partOfSlice ((off - 0xA2000) / 16))
  else false

/-- Partition whose registers these are (R497): a write restarts its stopped PLL. -/
def ctlPart (off : Nat) : Option Nat :=
  if 0xA3000 ≤ off && off < 0xA3100 then some ((off - 0xA3000) / 4 / 8)
  else if 0x90000 ≤ off && off < 0x90400 then some ((off - 0x90000) / 16 / 8)
  else if 0xA2000 ≤ off && off < 0xA2400 then some ((off - 0xA2000) / 16 / 8)
  else if 0x120200 ≤ off && off < 0x120300 then some ((off - 0x120200) / 4 / 8)
  else none

/-- A write waits at the flit port (R134), and every posted write after it with it, in the order of R129: the link does not deliver it
yet (DESIGN CHOICE, log 43). -/
def portHeld (s : State) : Bool := s.upd.held ≠ [] && !s.flt.safe

/-- The block is quiesced (R420, R421). -/
def quiesced (s : State) : Bool := s.rook.qstate = 3

/-- Takes an error for AER (R393). -/
def logAer (e : Aer) (s : State) : State := { s with hif := { s.hif with aer := s.hif.aer ++ [e] } }

/-- A write of a BAR: a poisoned one is discarded and logged (R374, R393). -/
def barWrite {α : Type} (w : Posted α) (f : α → State → State) (s : State) : State :=
  if !w.ep then f w.data s else if ctlReach s && !portHeld s then logAer .poisonedTlp s else s

/-- Effect of one 4-B word of a CTLAP write (R495, R496, R444, R507) whose effect on the register, when it takes one, is
`f`. -/
def ctlWord (off : Nat) (be : BitVec 4) (f : State → State) (s : State) : State :=
  if !ctlReach s || be = 0 || portHeld s then s
  else if s.flt.safe && !safeWritable off then s
  else if be ≠ 0xF#4 then countAcc 1 off s
  else if heldInReset s off then countAcc 4 off s
  else match ctlPart off with
    | some p => f (wakePart p s)
    | none => f s

/-- A register write as a command. -/
def ctlWrite (off : Nat) (be : BitVec 4) (s : State) (f : State → State) : Host.Outcome State Fault Refusal :=
  live .hif s (ctlWord off be f)

end Sys2Proof.Machine
end

