-- ==== Sys2Proof/Machine/Num.lean ====
section
/-! DEFINITION. The integer number system (R40 to R64, R70, R72): exact values, codes, rounding, quantising into the block
formats, the edge formats, the exponent histogram and the conversion error of an element. -/

namespace Sys2Proof.Machine

/-- An exact value: NaN, an infinity, or n / d × 2^e with d at least 1. -/
inductive Val where
  | nan
  | inf (neg : Bool)
  | fin (n : Int) (d : Nat) (e : Int)
deriving DecidableEq, Repr

def Val.zero : Val := .fin 0 1 0
def Val.isZero : Val → Bool
  | .fin n _ _ => n = 0
  | _ => false
def Val.isFin : Val → Bool
  | .fin _ _ _ => true
  | _ => false
def Val.neg : Val → Bool
  | .fin n _ _ => n < 0
  | .inf b => b
  | .nan => false

/-- Nearest integer to n / d, ties to even (R52). -/
def rneDiv (n : Int) (d : Nat) : Int :=
  let q := n / (d : Int)
  let r := n % (d : Int)
  if 2 * r < d then q else if 2 * r > d then q + 1 else if q % 2 = 0 then q else q + 1

/-- RNE(n / d × 2^k). -/
def rneScale (n : Int) (d : Nat) (k : Int) : Int :=
  if 0 ≤ k then rneDiv (n * 2 ^ k.toNat) d else rneDiv n (d * 2 ^ (-k).toNat)

/-- RNE(x × 2^k) of a finite value; 0 of others. -/
def Val.rne (x : Val) (k : Int) : Int :=
  match x with
  | .fin n d e => rneScale n d (e + k)
  | _ => 0

/-- floor(log2 |x|) of a finite non-zero value. -/
def Val.log2 : Val → Int
  | .fin n d e =>
    let k : Int := (Nat.log2 n.natAbs : Int) - (Nat.log2 d : Int)
    let ge := if 0 ≤ k then decide (d * 2 ^ k.toNat ≤ n.natAbs) else decide (d ≤ n.natAbs * 2 ^ (-k).toNat)
    (if ge then k else k - 1) + e
  | _ => 0

/-- Difference of two finite values. -/
def Val.sub (a b : Val) : Val :=
  match a, b with
  | .fin n d e, .fin m c f =>
    let g := min e f
    .fin (n * 2 ^ (e - g).toNat * c - m * 2 ^ (f - g).toNat * d) (d * c) g
  | _, _ => .nan

/-- The larger of two values in the order of the reals, both finite. -/
def Val.le (a b : Val) : Bool :=
  match a.sub b with
  | .fin n _ _ => n ≤ 0
  | _ => false

/-! ## Special values (R50) -/

/-- Sum of two special states; `int 0` is NONE, and any finite value leaves the other. -/
def addSpecial (a b : Cod) : Cod :=
  match a, b with
  | .nan, _ => .nan
  | _, .nan => .nan
  | .inf x, .inf y => if x = y then .inf x else .nan
  | .inf x, .int _ => .inf x
  | .int _, .inf y => .inf y
  | .int _, .int _ => .int 0

/-- Product of two codes by R50; finite ones multiply. -/
def mulCod (a b : Cod) : Cod :=
  match a, b with
  | .nan, _ => .nan
  | _, .nan => .nan
  | .int x, .int y => .int (x * y)
  | .inf x, .inf y => .inf (x != y)
  | .inf x, .int y => if y = 0 then .nan else .inf (x != decide (y < 0))
  | .int x, .inf y => if x = 0 then .nan else .inf (y != decide (x < 0))

/-- Maximum of two values (R50). -/
def Val.max (a b : Val) : Val :=
  match a, b with
  | .nan, _ => .nan
  | _, .nan => .nan
  | .inf false, _ => .inf false
  | _, .inf false => .inf false
  | .inf true, x => x
  | x, .inf true => x
  | x, y => if x.le y then y else x

/-! ## Codes of the block formats (R43 to R47) -/

/-- Finite code range of IB8, IB16, IB32, IB4 (FMT 0 to 3). -/
def fmtLo (f : Nat) : Int := if f = 1 then -32766 else if f = 2 then -2147483646 else if f = 3 then -8 else -126
def fmtHi (f : Nat) : Int := if f = 1 then 32766 else if f = 2 then 2147483646 else if f = 3 then 7 else 126

/-- Bits of a code of the format: IB8, IB16, IB32, IB4, IB2T. -/
def fmtBits (f : Nat) : Nat := if f = 1 then 16 else if f = 2 then 32 else if f = 3 then 4 else if f = 4 then 2 else 8

/-- Code of an IB format from its bits (R43). -/
def codOf (f v : Nat) : Cod :=
  let b := fmtBits f
  let x := signed b v
  if f = 3 then .int x
  else if x = -(2 ^ (b - 1) : Nat) then .nan
  else if x = (2 ^ (b - 1) - 1 : Nat) then .inf false
  else if x = -((2 ^ (b - 1) - 1 : Nat) : Int) then .inf true
  else .int x

/-- Bits of a code (R43). -/
def bitsOfCod (f : Nat) (c : Cod) : Nat :=
  let b := fmtBits f
  match c with
  | .nan => if f = 3 then 0 else 2 ^ (b - 1)
  | .inf false => if f = 3 then 0 else 2 ^ (b - 1) - 1
  | .inf true => if f = 3 then 0 else 2 ^ (b - 1) + 1
  | .int x => toBits b x

/-- Value of a code at exponent e. -/
def codVal (c : Cod) (e : Int) : Val :=
  match c with
  | .nan => .nan
  | .inf n => .inf n
  | .int x => .fin x 1 e

/-- Code RNE(x) clipped to an infinity outside the range (R50). -/
def clipCod (lo hi x : Int) (neg : Bool) : Cod := if x < lo || hi < x then .inf neg else .int x

/-- The block formats of R48. -/
def isBlockFmt (f : Nat) : Bool := f ≤ 5
def isEdgeFmt (f : Nat) : Bool := (8 ≤ f && f ≤ 0xA) || (0x10 ≤ f && f ≤ 0x15)
def isFmt (f : Nat) : Bool := isBlockFmt f || isEdgeFmt f
def isMx (f : Nat) : Bool := 0x10 ≤ f && f ≤ 0x15
def isBinary (f : Nat) : Bool := 8 ≤ f && f ≤ 0xA

/-- Bytes of one block of codes (R92, R43); for DP8 both halves. -/
def blockBytes (f : Nat) : Nat :=
  if f = 1 then 64 else if f = 2 then 128 else if f = 3 then 16 else if f = 4 then 8 else if f = 5 then 64 else 32

/-- Element bytes of one block of an MX format (R61). -/
def mxBytes (f : Nat) : Nat := if f = 0x13 || f = 0x14 then 24 else if f = 0x15 then 16 else 32

/-- Element i of a block (R44). -/
def rawElem (f : Nat) (blk : Bytes) (i : Nat) : Nat :=
  if f = 1 then num blk (2 * i) 2
  else if f = 2 then num blk (4 * i) 4
  else if f = 3 then num blk (i / 2) 1 / 16 ^ (i % 2) % 16
  else if f = 4 then num blk (i / 4) 1 / 4 ^ (i % 4) % 4
  else num blk i 1

/-- The 32 codes of a block; an IB2T escape takes the next sidecar byte, and a block with more than K escapes is NaN
throughout (R45, R46). The Bool says that R46 applied. -/
def blockCodes (f k : Nat) (blk side : Bytes) : List Cod × Bool :=
  if f = 4 then
    let raw := (List.range 32).map (rawElem 4 blk)
    let esc (i : Nat) := ((raw.take i).filter (· = 2)).length
    if k < esc 32 then (List.replicate 32 .nan, true)
    else ((List.range 32).map fun i =>
      let r := raw.getD i 0
      if r = 2 then codOf 0 (num side (esc i) 1) else if r = 3 then .int (-1) else .int r, false)
  else ((List.range 32).map fun i => codOf f (rawElem f blk i), false)

/-- Value of a darned pair (R47). -/
def pairCod (hi lo : Cod) : Cod :=
  match hi, lo with
  | .int h, .int l => .int (128 * h + l)
  | .int _, _ => .nan
  | c, _ => c

/-- Codes of a decoded scale group: ER, deltas, codes by block; DP8 codes are pair codes at eB - 7. -/
structure Codes where
  er : Nat
  d : List Nat
  blocks : List (List Cod)
  dp : Bool
  isOver : Nat

/-- Exponent of block b (R41). -/
def Codes.eB (g : Codes) (b : Nat) : Int := (g.er : Int) - 127 - (g.d.getD b 0 : Int) - (if g.dp then 7 else 0)

/-- Code and exponent of element j; an invalid group is NaN throughout (R41). -/
def Codes.term (g : Codes) (j : Nat) : Cod × Int :=
  if g.er = 0xFF then (.nan, 0) else (((g.blocks.getD (j / 32) []).getD (j % 32) (.int 0)), g.eB (j / 32))

/-- Exact values of the first n elements. -/
def Codes.vals (g : Codes) (n : Nat) : List Val := (List.range n).map fun j => codVal (g.term j).1 (g.term j).2

/-! ## Quantising into a block format (R53 to R56) -/

/-- First e from `s` on at which `p` holds, within `fuel` steps. -/
def firstExp (p : Int → Bool) : Nat → Int → Int
  | 0, s => s
  | n + 1, s => if p s then s else firstExp p n (s + 1)

/-- Smallest e with lo ≤ RNE(x × 2^-e) ≤ hi, of a finite non-zero x. -/
def minExp (lo hi : Int) (x : Val) : Int :=
  firstExp (fun e => let c := x.rne (-e); lo ≤ c && c ≤ hi) 8 (x.log2 - Nat.log2 hi.toNat - 2)

def maxOpt (l : List (Option Int)) : Option Int :=
  l.foldl (fun m x => match m, x with
    | none, y => y
    | some a, none => some a
    | some a, some b => some (max a b)) none

/-- Ideal exponent of a block (R53). -/
def idealExp (lo hi : Int) (xs : List Val) : Option Int :=
  maxOpt (xs.map fun x => if x.isFin && !x.isZero then some (minExp lo hi x) else none)

def clampI (x lo hi : Int) : Int := max lo (min hi x)

/-- ER and deltas from the ideal exponents of the blocks (R53). -/
def groupExp (es : List (Option Int)) : Int × List Nat :=
  match maxOpt es with
  | none => (-127, es.map fun _ => 15)
  | some m =>
    let eR := clampI m (-127) 127
    (eR, es.map fun e => match e with
      | none => 15
      | some v => (clampI (eR - v) 0 15).toNat)

/-- A quantised scale group: ER, deltas, codes of each block (hi codes for DP8), lo codes, ideal exponents, whether the
group was written invalid (R54, R55). -/
structure Quant where
  er : Nat
  d : List Nat
  blocks : List (List Cod)
  lo : List (List Int)
  ideal : List (Option Int)
  invalid : Bool

def blocksOf {α : Type} (nb : Nat) (l : List α) : List (List α) := (List.range nb).map fun b => (l.drop (32 * b)).take 32

def quantCod (lo hi : Int) (eB : Int) (x : Val) : Cod :=
  match x with
  | .nan => .nan
  | .inf n => .inf n
  | x => clipCod lo hi (x.rne (-eB)) x.neg

/-- IB8, IB16, IB32 and the hi part of DP8 (R53). -/
def quantPlain (lo hi : Int) (bs : List (List Val)) : Quant :=
  let es := bs.map (idealExp lo hi)
  let (eR, ds) := groupExp es
  { er := (eR + 127).toNat, d := ds,
    blocks := (bs.zip ds).map fun (b, d) => b.map (quantCod lo hi (eR - d)), lo := [], ideal := es, invalid := false }

def invalidGroup (bs : List (List Val)) (es : List (Option Int)) : Quant :=
  { er := 0xFF, d := bs.map fun _ => 0, blocks := bs.map fun b => b.map fun _ => .int 0, lo := [], ideal := es, invalid := true }

def isInt : Cod → Bool
  | .int _ => true
  | _ => false

/-- Elements that need an escape at every exponent (R55): specials and |x| above 126.5 × 2^127. -/
def mustEscape (x : Val) : Bool :=
  match x with
  | .fin _ _ _ =>
    let a : Val := match x with
      | .fin n d e => .fin n.natAbs d e
      | y => y
    !(a.le (.fin 253 1 126))
  | _ => true

/-- Ideal exponent of an IB2T block with escape capacity K (R55). -/
def idealIb2t (k : Nat) (xs : List Val) : Option Int :=
  let s := (xs.filter mustEscape).length
  let ys := xs.filter fun x => !mustEscape x && !x.isZero
  match idealExp (-126) 126 ys with
  | none => none
  | some e8 =>
    let big (e : Int) := (ys.filter fun y => 1 < (y.rne (-e)).natAbs).length
    some (firstExp (fun e => big e ≤ k - s) 16 e8)

def quantIb2t (k : Nat) (bs : List (List Val)) : Quant :=
  let es := bs.map (idealIb2t k)
  if bs.any fun b => k < (b.filter mustEscape).length then invalidGroup bs es
  else
    let (eR, ds) := groupExp es
    let cs := (bs.zip ds).map fun (b, d) => b.map fun x =>
      if mustEscape x then (match x with
        | .nan => Cod.nan
        | y => .inf y.neg)
      else quantCod (-126) 126 (eR - d) x
    let esc (c : Cod) : Bool := match c with
      | .int x => 1 < x.natAbs
      | _ => true
    if cs.any fun b => k < (b.filter esc).length then invalidGroup bs es
    else { er := (eR + 127).toNat, d := ds, blocks := cs, lo := [], ideal := es, invalid := false }

/-- Quantise blocks of exact values into block format f with escape capacity k. -/
def quantise (f k : Nat) (bs : List (List Val)) : Quant :=
  if f = 3 then
    let q := quantPlain (-8) 7 bs
    if q.blocks.any fun b => b.any fun c => !isInt c then invalidGroup bs q.ideal else q
  else if f = 4 then quantIb2t k bs
  else if f = 5 then
    let q := quantPlain (-126) 126 bs
    { q with lo := (bs.zip (q.blocks.zip q.d)).map fun (b, cs, d) => (b.zip cs).map fun (x, c) =>
        match c, x with
        | .int h, .fin n dd e => (Val.sub (.fin n dd e) (.fin h 1 ((q.er : Int) - 127 - d))).rne (7 - ((q.er : Int) - 127 - d))
        | _, _ => 0 }
  else quantPlain (fmtLo f) (fmtHi f) bs

/-- Value written for element i of block b. -/
def Quant.val (q : Quant) (f b i : Nat) : Val :=
  if q.invalid then .nan
  else
    let eB := (q.er : Int) - 127 - (q.d.getD b 0 : Int)
    let c := (q.blocks.getD b []).getD i (.int 0)
    if f = 5 then
      match c with
      | .int h => .fin (128 * h + (q.lo.getD b []).getD i 0) 1 (eB - 7)
      | c => codVal c 0
    else codVal c eB

/-- Nibbles packed two to a byte, the even one low. -/
def packNibbles : List Nat → Bytes
  | [] => []
  | [a] => [BitVec.ofNat 8 a]
  | a :: b :: l => BitVec.ofNat 8 (a + 16 * b) :: packNibbles l

/-- Numbers of w bits packed little-endian into n bytes. -/
def packBits (w n : Nat) (l : List Nat) : Bytes :=
  leBytes n (l.reverse.foldl (fun a x => a * 2 ^ w + x % 2 ^ w) 0)

def pad32 (l : List Nat) : List Nat := (l ++ List.replicate 32 0).take 32

/-- Code bytes of a block, and its sidecar (R44, R45). -/
def blockImage (f k : Nat) (cs : List Cod) : Bytes × Bytes :=
  if f = 4 then
    let esc (c : Cod) : Bool := match c with
      | .int x => 1 < x.natAbs
      | _ => true
    let raw := cs.map fun c => if esc c then 2 else match c with
      | .int x => toBits 2 x
      | _ => 2
    (packBits 2 8 (pad32 raw),
     ((cs.filter esc).map (fun c => BitVec.ofNat 8 (bitsOfCod 0 c)) ++ List.replicate k 0).take k)
  else (packBits (fmtBits f) (if f = 5 then 32 else blockBytes f) (pad32 (cs.map (bitsOfCod f))), [])

/-! ## Edge formats (R57 to R63) -/

/-- mantissa bits, least exponent, greatest exponent of a floating element format. -/
def fpShape (f : Nat) : Nat × Int × Int :=
  if f = 8 then (23, -126, 127) else if f = 9 then (10, -14, 15) else if f = 0xA then (7, -126, 127)
  else if f = 0x11 then (3, -6, 8) else if f = 0x12 then (2, -14, 15) else if f = 0x13 then (3, 0, 2)
  else if f = 0x14 then (2, -2, 4) else (1, 0, 2)

/-- exponent field bits of a floating element format. -/
def fpExpBits (f : Nat) : Nat :=
  if f = 8 || f = 0xA then 8 else if f = 9 || f = 0x12 then 5 else if f = 0x11 then 4 else if f = 0x14 then 3 else 2

def fpWidth (f : Nat) : Nat := 1 + fpExpBits f + (fpShape f).1

/-- Spacing exponent of the format in the binade of x: u = 2^q (R72). -/
def fpQuantum (f : Nat) (x : Val) : Int :=
  let (m, emin, _) := fpShape f
  (if x.isZero then emin else max x.log2 emin) - m

/-- Rounded magnitude as (integer, exponent). -/
def fpRound (f : Nat) (x : Val) : Nat × Int :=
  let q := fpQuantum f x
  ((x.rne (-q)).natAbs, q)

/-- Encode a rounded magnitude that fits. -/
def fpEncode (f : Nat) (neg : Bool) (m : Nat) (q : Int) : Nat :=
  let (mb, emin, _) := fpShape f
  let (m, q) := if 2 ^ (mb + 1) ≤ m then (m / 2, q + 1) else (m, q)
  let body := if m < 2 ^ mb then m else (q + mb - emin + 1).toNat * 2 ^ mb + (m - 2 ^ mb)
  (if neg then 2 ^ (fpWidth f - 1) else 0) + body

/-- Value of an element code of a floating format; binary formats and E5M2 have infinities, E4M3 only NaN. -/
def fpDecode (f v : Nat) : Val :=
  let (mb, emin, _) := fpShape f
  let eb := fpExpBits f
  let neg := v / 2 ^ (fpWidth f - 1) % 2 = 1
  let ex := v / 2 ^ mb % 2 ^ eb
  let m := v % 2 ^ mb
  let sg : Int := if neg then -1 else 1
  if (f ≤ 0xA || f = 0x12) && ex = 2 ^ eb - 1 then (if m = 0 then .inf neg else .nan)
  else if f = 0x11 && ex = 15 && m = 7 then .nan
  else if ex = 0 then .fin (sg * m) 1 (emin - mb)
  else .fin (sg * (2 ^ mb + m : Nat)) 1 (emin - mb + ex - 1)

/-- Canonical NaN of binary32, binary16, bfloat16 (R57). -/
def binNan (f : Nat) : Nat := if f = 8 then 0x7FC00000 else if f = 9 then 0x7E00 else 0x7FC0

/-- Code of a value in a binary format (R57), and whether it overflowed. -/
def binCode (f : Nat) (x : Val) : Nat × Bool :=
  let (mb, _, emax) := fpShape f
  let infCode (neg : Bool) := (if neg then 2 ^ (fpWidth f - 1) else 0) + (2 ^ fpExpBits f - 1) * 2 ^ mb
  match x with
  | .nan => (binNan f, false)
  | .inf n => (infCode n, false)
  | x =>
    if x.isZero then (0, false)
    else
      let (m, q) := fpRound f x
      let big : Bool := !(Val.le (.fin m 1 q) (.fin (2 ^ (mb + 1) - 1 : Nat) 1 (emax - mb)))
      if big then (infCode x.neg, true) else (fpEncode f x.neg m q, false)

/-- One element of an MX block: its code, the value written without scale, and what happened to it. -/
structure MxElem where
  code : Nat
  sat : Bool
  kill : Bool

/-- Largest finite magnitude of an MX element format. -/
def mxMax (f : Nat) : Val :=
  if f = 0x10 then .fin 127 1 (-6) else if f = 0x11 then .fin 448 1 0 else if f = 0x12 then .fin 57344 1 0
  else if f = 0x13 then .fin 15 1 (-1) else if f = 0x14 then .fin 28 1 0 else .fin 6 1 0
def mxEmax (f : Nat) : Int := if f = 0x10 then 0 else (fpShape f).2.2

/-- Element of an MX block for source value x at scale 2^(X-127) (R63 items 4 to 9). A finite element that E4M3 writes as NaN has e8 = 255
and is counted in SAT, as one that saturates (R72, R73; DESIGN CHOICE, log 47). -/
def mxElem (f : Nat) (sc : Int) (x : Val) : MxElem :=
  let noSpecial : Bool := f = 0x10 || 0x13 ≤ f
  match x with
  | .nan => { code := 0x7F, sat := false, kill := noSpecial }
  | .inf n => { code := if f = 0x12 then (if n then 0xFC else 0x7C) else 0x7F, sat := false, kill := noSpecial }
  | .fin n d e =>
    let y : Val := .fin n d (e - sc)
    let a : Val := .fin n.natAbs d (e - sc)
    let huge : Bool := Val.le (.fin 1 1 (mxEmax f + 1)) a
    if huge then
      { code := if f = 0x12 then (if n < 0 then 0xFC else 0x7C) else 0x7F, sat := true, kill := noSpecial }
    else if f = 0x10 then
      let c := y.rne 6
      if c < -127 then { code := toBits 8 (-127), sat := true, kill := false }
      else if 127 < c then { code := 127, sat := true, kill := false }
      else { code := toBits 8 c, sat := false, kill := false }
    else if n = 0 then { code := 0, sat := false, kill := false }
    else
      let (m, q) := fpRound f y
      if Val.le (.fin m 1 q) (mxMax f) then { code := fpEncode f (n < 0) m q, sat := false, kill := false }
      else
        { code := match mxMax f with
            | .fin w _ _ => let mx := fpRound f (.fin w 1 (if f = 0x13 then -1 else 0)); fpEncode f (n < 0) mx.1 mx.2
            | _ => 0
          sat := true, kill := false }

/-- Scale of an MX block (R63 items 1 to 3). -/
def mxScale (f : Nat) (xs : List Val) : Nat :=
  match maxOpt (xs.map fun x => if x.isFin && !x.isZero then some x.log2 else none) with
  | none => 0x7F
  | some l => (clampI (l - mxEmax f + 127) 0 254).toNat

/-- Value of an MX element code at scale X (R62). -/
def mxVal (f x code : Nat) : Val :=
  if x = 0xFF then .nan
  else
    let sc : Int := (x : Int) - 127
    if f = 0x10 then .fin (signed 8 code) 1 (sc - 6)
    else match fpDecode f code with
      | .fin n d e => .fin n d (e + sc)
      | v => v

def mxWidth (f : Nat) : Nat := if f = 0x10 then 8 else fpWidth f

/-! ## Conversion: image, values written, and counters -/

/-- What the conversion of one element did (R72, R73). -/
structure Elem where
  q : Val
  e8 : Nat
  sat : Bool := false
  spec : Bool := false
  under : Bool := false

/-- e8 of an element with unit 2^u (R72). -/
def e8Of (x q : Val) (u : Int) : Nat :=
  match q.sub x with
  | .fin n d e => min 255 (rneScale (256 * n.natAbs) d (e - u)).toNat
  | _ => 255

/-- Element record: source x, value written q, unit exponent u, whether the group was written invalid. -/
def elemOf (x q : Val) (u : Int) (sat invalid cause : Bool) : Elem :=
  match x with
  | .fin n _ _ =>
    if sat then { q := q, e8 := 255, sat := true }
    else if !q.isFin then
      (if invalid && !cause then { q := q, e8 := 255 } else { q := q, e8 := 255, sat := true })
    else { q := q, e8 := e8Of x q u, under := n ≠ 0 && q.isZero }
  | _ => { q := q, e8 := 0, spec := true }

/-- Result of converting one scale group or bag vector. -/
structure Conv where
  q : Quant
  elems : List Elem
  codes : List Nat
  scales : List Nat

/-- Elements that are out of range at the exponents of the group, which invalidate IB4 (R54). Of an IB2T group written invalid the cause is
every finite element that must escape, also in a block whose own escapes fit (R72; DESIGN CHOICE, log 47). -/
def convElems (f : Nat) (q : Quant) (bs : List (List Val)) : List Elem :=
  (List.range bs.length).flatMap fun b =>
    let u := match q.ideal.getD b none with
      | some e => if f = 4 then (q.er : Int) - 127 - (q.d.getD b 0 : Int) else if f = 5 then e - 7 else e
      | none => 0
    (List.range (bs.getD b []).length).map fun i =>
      let x := (bs.getD b []).getD i .zero
      let cause : Bool := q.invalid && (if f = 3 then
          (match x with
            | .fin _ _ _ => clampI (x.rne (-127)) (-8) 7 != x.rne (-127)
            | _ => true)
        else mustEscape x)
      elemOf x (q.val f b i) u false q.invalid cause

/-- Convert exact values into format f (K escapes for IB2T). -/
def convert (f k : Nat) (xs : List Val) : Conv :=
  let nb := (xs.length + 31) / 32
  let bs := blocksOf nb xs
  if isBlockFmt f then
    let q := quantise f k bs
    { q := q, elems := convElems f q bs, codes := [], scales := [] }
  else if isBinary f then
    let cs := xs.map (binCode f)
    { q := { er := 0, d := [], blocks := [], lo := [], ideal := [], invalid := false },
      elems := (xs.zip cs).map fun (x, c) => elemOf x (fpDecode f c.1) (fpQuantum f x) c.2 false false,
      codes := cs.map Prod.fst, scales := [] }
  else
    let out := bs.map fun b =>
      let X := mxScale f b
      let es := b.map (mxElem f ((X : Int) - 127))
      (b, X, es, es.any MxElem.kill)
    { q := { er := 0, d := [], blocks := [], lo := [], ideal := [], invalid := false },
      elems := out.flatMap fun (b, X, es, kill) => (b.zip es).map fun (x, e) =>
        let X' := if kill then 0xFF else X
        let sc : Int := (X : Int) - 127
        let u : Int := if f = 0x10 then (X : Int) - 133 else
          (match x with
            | .fin n d ee => fpQuantum f (.fin n d (ee - sc)) + sc
            | _ => 0)
        elemOf x (mxVal f X' e.code) u (e.sat && (!kill || e.kill)) kill e.kill,
      codes := out.flatMap fun (_, _, es, kill) => pad32 (es.map fun e => if kill then 0 else e.code),
      scales := out.map fun (_, X, _, kill) => if kill then 0xFF else X }

/-- Spare delta bytes of a row of nb blocks (R92). -/
def rowX (nb : Nat) : Nat := if nb ≤ 8 then 0 else ((nb - 8 + 1) / 2 + 7) / 8 * 8

/-- Size S of a row (R92). -/
def rowSize (f k dim : Nat) : Nat :=
  let nb := (dim + 31) / 32
  8 + rowX nb + nb * blockBytes f + (if f = 4 then nb * k else 0)

/-- Escapes among the ternary codes of a block (R44, R45). -/
def escapesOf (blk : Bytes) : Nat := ((List.range 32).filter fun i => rawElem 4 blk i = 2).length

/-- The bytes 0 to S - 1 of a row as every engine writes them: reserved bits of FLAGS, bytes 2 and 3, delta nibbles of no block and
sidecar bytes beyond a block's escapes are zero (R93). -/
def rowClean (f k dim : Nat) (b : Bytes) : Bytes :=
  let nb := (dim + 31) / 32
  let sc := 8 + rowX nb + 8 * nb
  let nibble (n : Nat) (v : Byte) : Byte := if n + 1 < nb then v else if n < nb then v &&& 0xF else 0
  (b.zip (List.range b.length)).map fun (v, i) =>
    if i = 1 then v &&& 1
    else if i = 2 ∨ i = 3 then 0
    else if 4 ≤ i ∧ i < 8 then nibble (2 * (i - 4)) v
    else if 8 ≤ i ∧ i < 8 + rowX nb then nibble (8 + 2 * (i - 8)) v
    else if f = 4 ∧ sc ≤ i ∧ escapesOf (slice b (8 + rowX nb + 8 * ((i - sc) / k)) 8) ≤ (i - sc) % k then 0
    else v

/-- Bytes 0 to S - 1 of a row holding a converted group (R92, R93). -/
def rowImage (f k dim : Nat) (c : Conv) : Bytes :=
  let nb := (dim + 31) / 32
  let ds := c.q.d
  let head : Bytes := [BitVec.ofNat 8 c.q.er, 0, 0, 0]
  let d0 := (packNibbles (ds.take 8) ++ List.replicate 4 0).take 4
  let d1 := (packNibbles (ds.drop 8) ++ List.replicate (rowX nb) 0).take (rowX nb)
  let im := c.q.blocks.map (blockImage f k)
  let codes := im.flatMap Prod.fst
  let tail := if f = 4 then im.flatMap Prod.snd
    else if f = 5 then (List.range nb).flatMap fun b => packBits 8 32 (pad32 ((c.q.lo.getD b []).map (toBits 8)))
    else []
  head ++ d0 ++ d1 ++ codes ++ tail

/-- Decode the bytes of a row (R92). -/
def rowCodes (f k dim : Nat) (b : Bytes) : Codes :=
  let nb := (dim + 31) / 32
  let x := rowX nb
  let d (i : Nat) : Nat :=
    let by_ := if i < 8 then num b (4 + i / 2) 1 else num b (8 + (i - 8) / 2) 1
    by_ / 16 ^ (i % 2) % 16
  let base := 8 + x
  let out := (List.range nb).map fun i =>
    if f = 5 then
      let hi := (blockCodes 0 0 (slice b (base + 32 * i) 32) []).1
      let lo := (blockCodes 0 0 (slice b (base + 32 * nb + 32 * i) 32) []).1
      ((hi.zip lo).map fun (h, l) => pairCod h l, false)
    else blockCodes f k (slice b (base + i * blockBytes f) (blockBytes f))
      (if f = 4 then slice b (base + 8 * nb + i * k) k else [])
  { er := num b 0 1, d := (List.range nb).map d, blocks := out.map Prod.fst, dp := f = 5,
    isOver := (out.filter Prod.snd).length }

/-- ABSENT of a row (R92). -/
def rowAbsent (b : Bytes) : Bool := num b 1 1 % 2 = 1

/-- A vector laid out for output (R118). -/
def vecImage (f dim : Nat) (c : Conv) : Bytes :=
  if isBlockFmt f then rowImage f 8 dim c
  else if isBinary f then c.codes.flatMap fun v => leBytes (fpWidth f / 8) v
  else (blocksOf (c.codes.length / 32) c.codes).flatMap (fun b => packBits (mxWidth f) (mxBytes f) b)
    ++ c.scales.map (BitVec.ofNat 8)

/-- Size V of a vector of m elements (R118). -/
def vecSize (f m : Nat) : Nat :=
  let nb := (m + 31) / 32
  if isBlockFmt f then rowSize f 8 m
  else if f = 8 then 4 * m else if isBinary f then 2 * m else nb * mxBytes f + nb

/-- Exact values of m elements laid out by R118 or R321. -/
def vecVals (f k m : Nat) (b : Bytes) : List Val :=
  if isBlockFmt f then (rowCodes f k m b).vals m
  else if isBinary f then (List.range m).map fun i => fpDecode f (num b (i * (fpWidth f / 8)) (fpWidth f / 8))
  else
    let nb := (m + 31) / 32
    (List.range m).map fun i =>
      let w := mxWidth f
      let blk := num b (i / 32 * mxBytes f) (mxBytes f)
      mxVal f (num b (nb * mxBytes f + i / 32) 1) (blk / 2 ^ (w * (i % 32)) % 2 ^ w)

/-! ## Exponent histogram (R70) -/

def histBin (v : Val) : Nat :=
  match v with
  | .fin n _ _ =>
    if n = 0 then 0
    else
      let l := v.log2
      if l < -32 then 1 else if 4 ≤ l then 38 else (l + 34).toNat
  | _ => 39

/-- Add elements to the 40 bins, each saturating at 0xFFFF (R71). -/
def histAdd (h : FMap Nat) (vs : List Val) : FMap Nat :=
  vs.foldl (fun h v => fmod 0 h (histBin v) fun n => min 0xFFFF (n + 1)) h

/-! ## Counters of a Mangle site (R73, R76) -/

def MngSite.add (m : MngSite) (es : List Elem) (r46 : Nat) : MngSite :=
  if m.freeze then m
  else
    { m with
      cnt := m.cnt + BitVec.ofNat 48 es.length
      sse := m.sse + BitVec.ofNat 48 ((es.map fun e => e.e8 * e.e8).foldl (· + ·) 0)
      sat := sat31 m.sat (es.filter Elem.sat).length
      spec := sat31 m.spec ((es.filter Elem.spec).length + r46)
      under := sat31 m.under (es.filter Elem.under).length }

/-- Blocks that the precision guard flags (R80): sum of e8² above 16 × PG_THRESH. -/
def flagged (thresh : Nat) (es : List Elem) : List Nat :=
  (List.range ((es.length + 31) / 32)).filter fun b =>
    16 * thresh < ((((es.drop (32 * b)).take 32).map fun e => e.e8 * e.e8).foldl (· + ·) 0)

/-! ## The accumulator loop of R113 -/

def align (t d : Int) : Int := if 0 ≤ d then t * 2 ^ d.toNat else rneScale t 1 d

/-- Smallest k, from a start below which no k can serve, at which the sum stays below the bound, within `fuel`. -/
def raiseBy (bound : Int) (a t d : Int) : Nat → Nat → Nat
  | 0, k => k
  | n + 1, k => if (rneScale a 1 (-(k : Int)) + align t (d - k)).natAbs < bound.natAbs then k else raiseBy bound a t d n (k + 1)

/-- One element of a contribution added to the accumulator; `e0` is the contribution's smallest exponent. -/
def accElem (bound : Int) (e0 : Option Int) (acc : AccRow) (j : Nat) (t : Cod) (et : Int) : AccRow :=
  match t with
  | .int v =>
    if v = 0 then acc
    else
      let E := match acc.e with
        | some e => e
        | none => e0.getD et
      let a := acc.a.getD j 0
      let k := raiseBy bound a v (et - E) 128 (et - E + Nat.log2 v.natAbs - Nat.log2 bound.natAbs - 1).toNat
      let as_ := if k = 0 then acc.a else acc.a.map fun x => rneScale x 1 (-(k : Int))
      let E' := E + k
      { acc with e := some E', a := as_.set j (as_.getD j 0 + align v (et - E')) }
  | c => { acc with sp := acc.sp.set j (addSpecial (acc.sp.getD j (.int 0)) c) }

def minOpt (l : List Int) : Option Int := l.foldl (fun m x => match m with
  | none => some x
  | some a => some (min a x)) none

/-- Add one contribution, its elements in ascending order (R113). -/
def accContribution (bound : Int) (acc : AccRow) (ts : List (Cod × Int)) : AccRow :=
  let e0 := minOpt (ts.filterMap fun (c, e) => match c with
    | .int v => if v = 0 then none else some e
    | _ => none)
  (ts.zip (List.range ts.length)).foldl (fun acc (t, j) => accElem bound e0 acc j t.1 t.2) acc

def accEmpty (m : Nat) : AccRow := { e := none, a := List.replicate m 0, sp := List.replicate m (.int 0) }

/-- Value of an accumulator element divided by n (R115, R184). -/
def accVal (acc : AccRow) (n j : Nat) : Val :=
  match acc.sp.getD j (.int 0), acc.e with
  | .int _, none => .zero
  | .int _, some e => .fin (acc.a.getD j 0) n e
  | c, _ => codVal c 0

end Sys2Proof.Machine
end

