-- ==== Sys2Proof/Machine/Operands.lean ====
section
/-! DEFINITION. Fields of commands (R99, R107, R141, R148, R345, R348, R349, R327), of descriptors (R83, R104, R125, R143,
R176, R320) and of SIMT and press words (R179, R214). -/

namespace Sys2Proof.Machine

/-! ## Command header (R345) -/

def hdrOpcode (b : Bytes) : Nat := num b 0 1
def hdrCtl (b : Bytes) : Nat := num b 1 1
def hdrSlots (b : Bytes) : Nat := hdrCtl b % 4 + 1
def hdrForm (b : Bytes) : Bool := bits (hdrCtl b) 2 2 = 1
def hdrRelease (b : Bytes) : Bool := bits (hdrCtl b) 3 3 = 1
def hdrIrq (b : Bytes) : Bool := bits (hdrCtl b) 4 4 = 1
def hdrGen (b : Bytes) : Nat := num b 2 2
def hdrCid (b : Bytes) : Nat := num b 4 4
def hdrDeadline (b : Bytes) : Nat := num b 8 8
def hdrCost (b : Bytes) : Nat := num b 0x10 4
def hdrWdog (b : Bytes) : Nat := num b 0x14 2

/-- A defined opcode (R346). -/
def opOf (n : Nat) : Option Op :=
  match n with
  | 0 => some .nop | 1 => some .gatherPool | 2 => some .seqPool | 3 => some .launch | 4 => some .move
  | 5 => some .castle | 6 => some .commit | 7 => some .fence | 8 => some .signal | 9 => some .timestamp
  | _ => none

/-! ## GATHER_POOL and SEQ_POOL (R99, R107) -/

def gpTable (b : Bytes) : Nat := num b 0x20 2 % 2 ^ 14
def gpMode (b : Bytes) : Nat := num b 0x22 1
def gpFmt (b : Bytes) : Nat := num b 0x23 1 % 32
def gpSpace (b : Bytes) : Nat := bits (num b 0x23 1) 6 5
def gpBags (b : Bytes) : Nat := num b 0x24 2 + 1
def gpIdx (b : Bytes) : Nat := num b 0x26 1 % 8
def gpRange (b : Bytes) : Bool := bits (num b 0x26 1) 7 7 = 1
/-- Index width in bytes. -/
def gpIdxW (b : Bytes) : Nat := gpIdx b + 1
def gpK (b : Bytes) : Nat := num b 0x27 1 + 1
def gpOut (b : Bytes) : Nat := num b 0x28 8
def gpWexp (b : Bytes) : Nat := num b 0x30 1
def gpStride (b : Bytes) : Nat := num b 0x32 2
def gpHalf (op : Op) (b : Bytes) : Nat := if op = .seqPool then num b 0x30 2 else num b 0x34 2
def gpSrc (b : Bytes) : Nat := num b 0x38 8
def spCount (b : Bytes) : Nat := num b 0x34 4 % 2 ^ 23
/-- AUX bytes per position (R100). -/
def gpAux (b : Bytes) : Nat := if gpMode b = 3 || gpMode b = 4 then 2 else 0

/-! ## LAUNCH (R348) -/

def lnCode (b : Bytes) : Nat := num b 0x20 8 % 2 ^ 52
def lnArg (b : Bytes) : Nat := num b 0x28 8
def lnPdtAddr (b : Bytes) : Nat := num b 0x30 8 % 2 ^ 52
def lnPdtN (b : Bytes) : Nat := bits (num b 0x30 8) 62 56
def lnTeams (b : Bytes) : Nat := num b 0x38 2 + 1
def lnLs (b : Bytes) : Nat := num b 0x3A 2 % 512
def lnTeamM1 (b : Bytes) : Nat := num b 0x3C 1 % 32
def lnSplit (b : Bytes) : Nat := num b 0x3C 1 / 32
def lnRegs (b : Bytes) : Nat := num b 0x3D 1 % 64
def lnResident (b : Bytes) : Bool := bits (num b 0x3D 1) 6 6 = 1
def lnAttach (b : Bytes) : Bool := bits (num b 0x3D 1) 7 7 = 1
def lnCluster (b : Bytes) : Nat := num b 0x3E 1 % 128
def lnHandle (b : Bytes) : Nat := num b 0x3F 1

/-! ## COMMIT, CASTLE, SIGNAL, TIMESTAMP, MOVE -/

/-- Target of a COMMIT (R141): window 0 to 15, or region n as 16 + n. -/
def cmIndex (b : Bytes) : Nat := num b 0x20 2 % 1024
def cmRegion (b : Bytes) : Bool := bits (num b 0x20 2) 15 15 = 1
def cmTarget (b : Bytes) : Nat := if cmRegion b then 16 + cmIndex b else cmIndex b

def caN (b : Bytes) : Nat := num b 0x20 1 % 16 + 1
def caWarm (b : Bytes) : Bool := num b 0x21 1 % 2 = 1
/-- Entry i of a CASTLE (R148): table and target side. -/
def caEntry (b : Bytes) (i : Nat) : Nat × Nat :=
  let e := num b (0x22 + 2 * i) 2
  (e % 2 ^ 14, e / 2 ^ 15)
def caEntries (b : Bytes) : List (Nat × Nat) := (List.range (min 15 (caN b))).map (caEntry b)

def sgAddr (b : Bytes) : Nat := num b 0x20 8
def sgValue (b : Bytes) : Nat := num b 0x28 8
def sgSpace (b : Bytes) : Nat := num b 0x30 1 % 4

def mvDesc (b : Bytes) : Nat := num b 0x20 8
def mvDspc (b : Bytes) : Nat := num b 0x28 1 % 2

/-! ## Transfer descriptor (R320) -/

def tdSrc (d : Bytes) : Nat := num d 0 8
def tdDst (d : Bytes) : Nat := num d 8 8
def tdSspace (d : Bytes) : Nat := num d 0x10 1 % 4
def tdDspace (d : Bytes) : Nat := bits (num d 0x10 1) 3 2
def tdSfmt (d : Bytes) : Nat := num d 0x11 1 % 32
def tdDfmt (d : Bytes) : Nat := num d 0x12 1 % 32
def tdConv (d : Bytes) : Bool := num d 0x13 1 % 2 = 1
def tdEscK (d : Bytes) : Nat := num d 0x13 1 / 16
def tdLen (d : Bytes) : Nat := num d 0x14 4 % 2 ^ 24
def tdC (d : Bytes) (i : Nat) : Nat := num d (0x18 + 2 * i) 2 + 1
def tdSs (d : Bytes) (i : Nat) : Int := signed 32 (num d (0x20 + 4 * i) 4)
def tdDs (d : Bytes) (i : Nat) : Int := signed 32 (num d (0x2C + 4 * i) 4)
def tdTable (d : Bytes) : Nat := tdDst d % 2 ^ 14
def tdSide (d : Bytes) : Nat := bits (tdDst d) 15 15
def tdRow (d : Bytes) : Nat := bits (tdDst d) 50 16
def tdRows (d : Bytes) : Nat := tdC d 0 * tdC d 1 * tdC d 2
/-- Bytes of a row in a format, or LEN when bytes are copied (R321). -/
def tdRowBytes (d : Bytes) (f : Nat) : Nat :=
  if tdConv d then (if isBlockFmt f then rowSize f (tdEscK d) (tdLen d) else vecSize f (tdLen d)) else tdLen d
/-- Row n's indices and addresses (R321). -/
def tdIx (d : Bytes) (n i : Nat) : Nat :=
  if i = 0 then n % tdC d 0 else if i = 1 then n / tdC d 0 % tdC d 1 else n / (tdC d 0 * tdC d 1)
def tdAt (base : Nat) (st : Nat → Int) (ix : Nat → Nat) : Nat :=
  toBits 64 ((base : Int) + st 0 * ix 0 + st 1 * ix 1 + st 2 * ix 2)
def tdSrcRow (d : Bytes) (n : Nat) : Nat := tdAt (tdSrc d) (tdSs d) (tdIx d n)
def tdDstRow (d : Bytes) (n : Nat) : Nat := tdAt (tdDst d) (tdDs d) (tdIx d n)

/-! ## Table descriptor (R85 to R87) -/

def TblDesc.valid (t : TblDesc) : Bool := bit t.cfg 31
def TblDesc.cur (t : TblDesc) : Nat := fld t.cfg 28 28
def TblDesc.escK (t : TblDesc) : Nat := fld t.cfg 11 8
def TblDesc.fmt (t : TblDesc) : Nat := fld t.cfg 4 0
def TblDesc.stride (t : TblDesc) : Nat := fld t.geom 22 16 * 32
def TblDesc.dim (t : TblDesc) : Nat := fld t.geom 15 0
def TblDesc.rows (t : TblDesc) : Nat := t.rowsLo.toNat + 2 ^ 32 * fld t.rowsHi 2 0
def TblDesc.shards (t : TblDesc) : Nat := fld t.shard 7 0
def TblDesc.group (t : TblDesc) : Nat := fld t.access 31 16
def TblDesc.owner (t : TblDesc) : Nat := fld t.access 11 0
def TblDesc.side (t : TblDesc) (k : Nat) : Nat :=
  if k = 0 then pair (t.aLo &&& 0xFFFFF000#32) (t.aHi &&& 0xFFFFF#32) else pair (t.bLo &&& 0xFFFFF000#32) (t.bHi &&& 0xFFFFF#32)
def TblDesc.pgAct (t : TblDesc) : Nat := fld t.pg 17 16
def TblDesc.pgThresh (t : TblDesc) : Nat := fld t.pg 15 0
def TblDesc.size (t : TblDesc) : Nat := rowSize t.fmt t.escK t.dim
/-- Device address of row r of a side (R94). -/
def TblDesc.rowAddr (t : TblDesc) (side r : Nat) : Nat := t.side side + r * t.stride

/-- Partition and slice of index value v of a table with the shard mask (R94). -/
def popcount8 (m : Nat) : Nat := ((List.range 8).filter fun i => m.testBit i).length
def shardHome (table mask v : Nat) : Nat × Nat :=
  let h := (table * 2 ^ 40 + v) * 0x9E3779B97F4A7C15 % 2 ^ 64
  let n := popcount8 mask
  let s := (h / 2 ^ 32) * n / 2 ^ 32
  let p := ((List.range 8).filter fun i => mask.testBit i).getD s 0
  (p, 8 * p + h / 2 ^ 29 % 8)

/-! ## Windows and regions (R125, R143) -/

/-- Setting of a window or region: EN, MODE, SIDE, SFMT, SSTRIDE32, TABLE, ROW. -/
structure WinSet where
  en : Bool
  conv : Bool
  side : Nat
  sfmt : Nat
  sstride : Nat
  trig : Bool
  table : Nat
  row : Nat
deriving DecidableEq, Repr

def winSet (ctl lo hi : W32) (trig : Bool) : WinSet :=
  { en := bit ctl 31, conv := bit ctl 30, side := fld ctl 29 29, sfmt := fld ctl 28 24, sstride := fld ctl 22 16 * 32,
    trig := trig, table := fld ctl 13 0, row := lo.toNat + 2 ^ 32 * fld hi 2 0 }
def WinRegs.set (r : WinRegs) : WinSet := winSet r.ctl r.rowLo r.rowHi false
def PlcRegs.set (r : PlcRegs) : WinSet := winSet r.cfg r.rowLo r.rowHi (bit r.cfg 15)
/-- Element size of the source format (R127). -/
def elemSize (f : Nat) : Nat := if f = 8 then 4 else 2

/-! ## Tile descriptor (R176) -/

def tileBase (d : BitVec 128) : Nat := bits d.toNat 18 0
def tileCore (d : BitVec 128) : Nat := bits d.toNat 20 19
def tileFmt (d : BitVec 128) : Nat := bits d.toNat 28 24
def tileRole (d : BitVec 128) : Bool := bits d.toNat 31 31 = 1
def tileLines (d : BitVec 128) : Nat := bits d.toNat 38 32 + 1
def tileKb (d : BitVec 128) : Nat := bits d.toNat 41 40 + 1
def tileEsc (d : BitVec 128) : Nat := bits d.toNat 47 44
def tilePitch (d : BitVec 128) : Nat := bits d.toNat 55 48 * 32
def tileHdr (d : BitVec 128) : Nat := bits d.toNat 82 64
def tileReserved (d : BitVec 128) : Bool :=
  bits d.toNat 23 21 != 0 || bits d.toNat 30 29 != 0 || bits d.toNat 39 39 != 0 || bits d.toNat 43 42 != 0
    || bits d.toNat 63 56 != 0 || bits d.toNat 127 83 != 0
/-- Bytes LB of a line (R177). -/
def tileLb (d : BitVec 128) : Nat :=
  let f := tileFmt d
  if f = 4 then tileKb d * (8 + tileEsc d)
  else if f = 8 then tileKb d * 128 else if isBinary f then tileKb d * 64
  else if isMx f then tileKb d * mxBytes f else tileKb d * blockBytes f
/-- Bytes of the tile header (R177). -/
def tileHdrLen (d : BitVec 128) : Nat :=
  let n := tileLines d * tileKb d
  if isBinary (tileFmt d) then 0 else if isMx (tileFmt d) then n else 4 + (n + 1) / 2

/-! ## SIMT words (R214) and press words (R179) -/

/-- The whole word: the row's opcode below the operand's bits. -/
def word (opc : Nat) (x : Issue) : Nat := opc + 256 * x.bits.toNat
def wRd (w : Nat) : Nat := bits w 15 8
def wRa (w : Nat) : Nat := bits w 23 16
def wRb (w : Nat) : Nat := bits w 31 24
def wRc (w : Nat) : Nat := bits w 39 32
def wMod (w : Nat) : Nat := bits w 47 40
def wImm (w : Nat) : Nat := bits w 55 24
def wModi (w : Nat) : Nat := bits w 58 56
def wFi (w : Nat) : Bool := bits w 59 59 = 1
def wPg (w : Nat) : Nat := bits w 62 60
def wPn (w : Nat) : Bool := bits w 63 63 = 1
def wS (w : Nat) : Nat := bits w 8 8
def wTok (w : Nat) : Nat := bits w 11 9
def wDi (w : Nat) : Nat := bits w 21 16
def wAdj (w : Nat) : Nat := bits w 29 22
def wInit (w : Nat) : Bool := bits w 30 30 = 1
def wSwap (w : Nat) : Bool := bits w 31 31 = 1
def wArow (w : Nat) : Nat := bits w 38 32
def wCb0 (w : Nat) : Nat := bits w 40 39
def wHreg (w : Nat) : Nat := bits w 48 41

end Sys2Proof.Machine
end

