-- ==== Sys2Proof/Machine/Memory.lean ====
section
/-! DEFINITION. Device memory: the address map (R294 to R299), the ports and what the controllers behind them keep (R301 to
R308), the lines of the DC slices and their write policies (R256 to R274), and the requests to the host (R379). -/

namespace Sys2Proof.Machine

/-! ## Address map (R294, R299) -/

def popcount16 (m : Nat) : Nat := ((List.range 16).filter fun i => m.testBit i).length
def MemMap.P (m : MemMap) : Nat := popcount8 m.npres.toNat
def MemMap.F (m : MemMap) : Nat := popcount16 m.fpres.toNat
def MemMap.niSize (m : MemMap) : Nat := 16 * m.P * (m.ncap.toNat - m.nloc.toNat) * 2 ^ 26
def nlBase (p : Nat) : Nat := 0x010000000000 + p * 0x1000000000
def MemMap.nlSize (m : MemMap) (p : Nat) : Nat := if m.npres.getLsbD p then 16 * m.nloc.toNat * 2 ^ 26 else 0
def fiBase : Nat := 0x100000000000
def MemMap.fiSize (m : MemMap) : Nat := m.F * m.fcap.toNat * 2 ^ 30
def scrBase : Nat := 0xFFF0000000000
/-- Lines that each near port gives to NI (R299). -/
def MemMap.lni (m : MemMap) : Nat := (m.ncap.toNat - m.nloc.toNat) * 2 ^ 19

inductive Where where
  | ni | nl (p : Nat) | fi | scratch | nowhere
deriving DecidableEq, Repr

/-- Window in which a device address lies; NI and NL only once LOCK is 1 (R297). -/
def MemMap.window (m : MemMap) (a : Nat) : Where :=
  if a < m.niSize then (if m.lock then .ni else .nowhere)
  else match (List.range 8).find? fun p => nlBase p ≤ a && a < nlBase p + m.nlSize p with
    | some p => if m.lock then .nl p else .nowhere
    | none => if fiBase ≤ a && a < fiBase + m.fiSize then .fi
      else if scrBase ≤ a && a < scrBase + 2 ^ 26 then .scratch else .nowhere

/-- XOR of all 4-bit groups (R299). -/
def fold4 (y : Nat) : Nat := (List.range 16).foldl (fun a i => a ^^^ (y / 16 ^ i % 16)) 0

/-- The q-th set bit of a mask, counted from 0 (R299). -/
def nthSet (mask q : Nat) : Nat := ((List.range 16).filter fun i => mask.testBit i).getD q 0

/-- Port and port line of a populated device address (R299). -/
def MemMap.port (m : MemMap) (a : Nat) : Option (Nat × Nat) :=
  match m.window a with
  | .ni =>
    let x := a / 128; let y := x / 16; let k := y / m.P; let q := (y % m.P + k) % m.P
    some (16 * nthSet m.npres.toNat q + (x ^^^ fold4 y) % 16, k)
  | .nl p =>
    let x := (a - nlBase p) / 128; let y := x / 16
    some (16 * p + (x ^^^ fold4 y) % 16, m.lni + y)
  | .fi =>
    let x := (a - fiBase) / 128; let k := x / m.F; let j := (x % m.F + k) % m.F
    some (128 + nthSet m.fpres.toNat j, k)
  | _ => none

/-- Device line of a port line, the inverse of R299. -/
def MemMap.deviceLine (m : MemMap) (port line : Nat) : Option Nat :=
  if port < 128 then
    let p := port / 16
    if line < m.lni then
      let q := ((List.range p).filter fun i => m.npres.getLsbD i).length
      let y := line * m.P + (q + m.P * (line + 1) - line) % m.P
      some (16 * y + (port % 16 ^^^ fold4 y) % 16)
    else
      let y := line - m.lni
      some (nlBase p / 128 + 16 * y + (port % 16 ^^^ fold4 y) % 16)
  else
    let j := ((List.range (port - 128)).filter fun i => m.fpres.getLsbD i).length
    some (fiBase / 128 + line * m.F + (j + m.F * (line + 1) - line) % m.F)

/-- Home slice of an address outside table regions (R254). -/
def homeSlice (a : Nat) : Nat := (List.range 12).foldl (fun s i => s ^^^ (a / 128 / 64 ^ i % 64)) 0

/-! ## Region attribute table (R263) -/

def RatEnt.en (e : RatEnt) : Bool := bit e.attr 31
def RatEnt.table (e : RatEnt) : Bool := bit e.attr 16
def RatEnt.policy (e : RatEnt) : Nat := fld e.attr 1 0
def RatEnt.base (e : RatEnt) : Nat := pair (e.baseLo &&& 0xFFE00000#32) (e.baseHi &&& 0xFFFFF#32)
def RatEnt.limit (e : RatEnt) : Nat := pair (e.limLo &&& 0xFFE00000#32) (e.limHi &&& 0xFFFFF#32)
def RatEnt.covers (e : RatEnt) (a : Nat) : Bool := e.en && e.base ≤ a && a < e.limit

/-- Entry in force that covers an address. -/
def ratOf (t : FMap RatEnt) (a : Nat) : Option RatEnt := (t.map Prod.snd).find? fun e => e.covers a
def inTable (t : FMap RatEnt) (a : Nat) : Bool :=
  match ratOf t a with
  | some e => e.table
  | none => false
/-- Write policy; an address no entry covers is used only by paths that R267 exempts, which write through. -/
def policyAt (t : FMap RatEnt) (a : Nat) : Nat :=
  match ratOf t a with
  | some e => e.policy
  | none => 2
/-- All bytes of a range lie in enabled entries with TABLE as given (R89, R265): checked at every 2 MiB granule. -/
def rangeIn (t : FMap RatEnt) (tab : Bool) (a n : Nat) : Bool :=
  (List.range ((a + n - 1) / 2 ^ 21 - a / 2 ^ 21 + 1)).all fun i =>
    match ratOf t ((a / 2 ^ 21 + i) * 2 ^ 21) with
    | some e => e.table = tab
    | none => false

/-- A table side of n bytes lies wholly within table regions; enabled entries are 2 MiB aligned, so it is enough to walk from
entry to entry. -/
def coveredBy (t : FMap RatEnt) (tab : Bool) (lim : Nat) : Nat → Nat → Bool
  | 0, a => lim ≤ a
  | n + 1, a =>
    if lim ≤ a then true
    else match ratOf t a with
      | some e => if e.table = tab then coveredBy t tab lim n e.limit else false
      | none => false

def rangeInTable (t : FMap RatEnt) (a n : Nat) : Bool := coveredBy t true (a + n) 65 a
/-- Some byte of the range lies in a table region. -/
def rangeMeetsTable (t : FMap RatEnt) (a n : Nat) : Bool :=
  (t.map Prod.snd).any fun e => e.en && e.table && e.base < a + n && a < e.limit

/-- Outcome of R267 and R295 for a request of an ordinary path to device range [a, a + n); the scratchpad is none of its (R275). -/
def allowed (s : State) (a n : Nat) : Bool :=
  decide (a < scrBase) && coveredBy s.rat.com false (a + n) 65 a && s.mem.window a != .nowhere
    && s.mem.window (a + n - 1) != .nowhere

/-- The range lies in one slice's scratchpad, on bytes that exist (R275). -/
def scratchOk (s : State) (a n : Nat) : Bool :=
  decide (scrBase ≤ a) && decide (n = 0 ∨ (a + n ≤ scrBase + 2 ^ 26 ∧ (a - scrBase) / 2 ^ 20 = (a + n - 1 - scrBase) / 2 ^ 20
    ∧ (a + n - 1 - scrBase) % 2 ^ 20 < (fget { lfsr := 0 } s.dc.slices ((a - scrBase) / 2 ^ 20)).scr * 2 ^ 17))

/-- What the tensor mover may reach: the scratchpad too (R275). -/
def moverAllowed (s : State) (a n : Nat) : Bool := allowed s a n || scratchOk s a n

/-! ## Slices and ports as table entries -/

/-- A slice as reset (R262). -/
def sliceDef (k : Nat) : Slice := { lfsr := 0xACE1#16 ^^^ BitVec.ofNat 16 k }
def Caches.slice (c : Caches) (k : Nat) : Slice := fget (sliceDef k) c.slices k
def Caches.setSlice (c : Caches) (k : Nat) (v : Slice) : Caches := { c with slices := fset (sliceDef k) c.slices k v }
def Caches.modSlice (c : Caches) (k : Nat) (f : Slice → Slice) : Caches := c.setSlice k (f (c.slice k))
def modSlice (k : Nat) (f : Slice → Slice) (s : State) : State := { s with dc := s.dc.modSlice k f }
def portAt (m : FMap Port) (p : Nat) : Port := fget {} m p
def modPort (p : Nat) (f : Port → Port) (s : State) : State := { s with ports := fmod {} s.ports p f }

/-! ## Ports (R301 to R308) -/

/-- Requests to a port are answered within the block (R306, R307). -/
def portDead (m : MemMap) (ports : FMap Port) (p : Nat) : Bool :=
  (portAt ports p).lost || (if p < 128 then m.nearBad else m.farBad)

def isRead (r : PReq) : Bool := match r.op with
  | .rd => true
  | .scr => true
  | _ => false
def isCtl (r : PReq) : Bool := match r.op with
  | .sre => true
  | .srx => true
  | .trn _ => true
  | _ => false
def portReads (p : Port) : Nat := (p.sent.filter isRead).length
def allReads (m : FMap Port) : Nat := (m.map fun e => portReads e.2).foldl (· + ·) 0

/-- Lowest tag of 0 to n - 1 not in use by requests of the kind. -/
def freeTag (n : Nat) (used : List Nat) : Option Nat := (List.range n).find? fun t => !used.contains t

/-- Read and write tags form separate spaces (R301). -/
def tagFor (port : Nat) (p : Port) (r : PReq) : Option Nat :=
  match r.op with
  | .rd | .scr => freeTag (if port < 128 then 512 else 1024) ((p.sent.filter isRead).map PReq.tag)
  | .wr => freeTag 256 ((p.sent.filter fun q => q.op = .wr).map PReq.tag)
  | _ => some 0

def sectorKey (dline k : Nat) : Nat := dline * 4 + k

/-- What the controller stores on a write (R302): the bytes; poison set by the POISON bit, cleared by a whole sector. -/
def storePoison (m : FMap Bool) (r : PReq) : FMap Bool :=
  (List.range 4).foldl (fun m k =>
    let n := (r.bytes.filter fun b => b.1 / 32 = sectorKey r.dline k).length
    if r.poison.getLsbD k then fset false m (sectorKey r.dline k) true
    else if n = 32 then fset false m (sectorKey r.dline k) false else m) m

/-- Poison bits of a device line as its controller keeps them. -/
def poisonMask (m : FMap Bool) (dline : Nat) : BitVec 4 :=
  BitVec.ofNat 4 (((List.range 4).filter fun k => fget false m (sectorKey dline k)).foldl (fun a k => a + 2 ^ k) 0)

/-- A write `x` sent makes outstanding reads of its sectors stale, and drops waiting conditional writes to them (R309). -/
def markStale (x r : PReq) : PReq :=
  if x.op = .wr && isRead r && r.pline = x.pline then { r with stale := r.stale ||| x.smask } else r
def afterWrite (x : PReq) (l : List PReq) : List PReq :=
  if x.op = .wr then l.filter fun r => !(r.cond && r.pline = x.pline && r.smask &&& x.smask ≠ 0) else l

/-- Bytes of the sectors of a mask. -/
def maskBytes (m : BitVec 4) : Nat := 32 * ((List.range 4).filter fun k => m.getLsbD k).length

/-- Bytes moved at a port, for the telemetry record (R424). -/
def countPort (p n : Nat) (s : State) : State :=
  let k := s.rook.counts
  { s with rook := { s.rook with counts :=
      if p < 128 then { k with near := fmod 0 k.near (p / 16) (· + BitVec.ofNat 64 n) } else { k with far := k.far + BitVec.ofNat 64 n } } }

/-- A request that waits for an SRE, SRX or TRN outstanding; a TRN follows its SRE without waiting for the answer (R307, R456). -/
def waitsCtl (q : Port) (r : PReq) : Bool :=
  q.sent.any fun x => isCtl x && (match r.op, x.op with
    | .trn _, .sre => false
    | _, _ => true)

/-! ### Arbitration at a request queue (R37 to R39, R308) -/

/-- The background activities that share a port's request queue (R38). -/
inductive Bg where
  | scrub | migration
deriving DecidableEq, Repr

/-- Activity that a request belongs to; none for foreground work. Patrol scrub's are its reads and every conditional write of R309
(DESIGN CHOICE, log 46). -/
def bgOf (r : PReq) : Option Bg := match r.who with
  | .scrub => some .scrub
  | .migration => some .migration
  | _ => none

/-- Promotion deadline in nanoseconds (R38). -/
def bgDeadline : Bg → Nat
  | .scrub => 200000
  | .migration => 1000000

/-- The two requests touch a common sector. -/
def meets (x r : PReq) : Bool := x.pline = r.pline && x.smask &&& r.smask ≠ 0

/-- A request waits behind one before it in the queue: one that changes the state of the port, a write that it would read or
overtake, a read that it would overwrite; foreground work passes a background read (R308, R309). -/
def waitsBehind (x r : PReq) : Bool :=
  isCtl x || isCtl r
  || (meets x r && x.op = .wr && (isRead r || !x.cond))
  || (meets x r && isRead x && r.op = .wr && ((bgOf x).isNone || (bgOf r).isSome))

/-- Requests of a queue, with their places, that wait behind no other. -/
def atHead (l : List PReq) : List (Nat × PReq) :=
  (l.zip (List.range l.length)).filterMap fun (r, i) => if (l.take i).any fun x => waitsBehind x r then none else some (i, r)

/-- The moment from which a request counts as foreground work: its arrival, or for background work the end of its promotion
deadline (R37, R39). -/
def fgFrom (r : PReq) : Nat := r.since.toNat + (match bgOf r with
  | none => 0
  | some b => bgDeadline b + 1)

/-- The activity is owed its minimum share: 1 slot in 64 for migration; 1 in 256 for patrol scrub, taken one slot early, for both may be
owed at once (R38). -/
def Port.owes (q : Port) : Bg → Bool
  | .migration => 63 ≤ q.gapMig
  | .scrub => 254 ≤ q.gapScrub

/-- The request of the candidates that the arbiter serves (R37): one that is owed its share; else the foreground or promoted one that
became eligible first; else the first of the background. -/
def Port.pick (q : Port) (now : W64) (cs : List (Nat × PReq)) : Option (Nat × PReq) :=
  let of (b : Bg) := cs.find? fun c => bgOf c.2 = some b
  match (if q.owes .migration then of .migration else none) with
  | some c => some c
  | none => match (if q.owes .scrub then of .scrub else none) with
    | some c => some c
    | none =>
      match (cs.filter fun c => fgFrom c.2 ≤ now.toNat).foldl (fun m c => match m with
          | none => some c
          | some d => if fgFrom c.2 < fgFrom d.2 then some c else some d) none with
      | some c => some c
      | none => cs.head?

/-- A slot went to request `r`: the slots in a row that an activity with a request pending did not get (R38). -/
def Port.slot (q : Port) (r : PReq) : Port :=
  let gap (b : Bg) (n : Nat) : Nat :=
    if bgOf r = some b then 0 else if q.queue.any fun x => bgOf x = some b then n + 1 else n
  { q with gapScrub := gap .scrub q.gapScrub, gapMig := gap .migration q.gapMig }

/-- The port can take the request now: a free tag, no SRE, SRX or TRN outstanding, reads within R30, no write outstanding before an
SRE (R308). -/
def canSend (p : Nat) (s : State) (r : PReq) : Bool :=
  let q := portAt s.ports p
  !waitsCtl q r && !(r.op = .sre && q.sent.any fun x => x.op = .wr) && !(isRead r && 65536 ≤ allReads s.ports) && (tagFor p q r).isSome

/-- Sends one request of a port's queue when the port can take one: SRX first from self-refresh, else the one that the arbiter
serves (R308). -/
def portSend1 (p : Nat) (s : State) : State :=
  let q := portAt s.ports p
  match q.queue with
  | [] => s
  | r :: _ =>
    if q.credits = 0 then s
    else if q.selfRefresh && r.op ≠ .srx && (match r.op with
        | .trn _ => false
        | _ => true) then
      let x : PReq := { op := .srx, since := s.devtime }
      if waitsCtl q r then s
      else emit (.portReq p x) (modPort p (fun q => { q with credits := q.credits - 1, sent := q.sent ++ [x] }) s)
    else match q.pick s.devtime ((atHead q.queue).filter fun c => canSend p s c.2) with
      | none => s
      | some (i, r) =>
        let x : PReq := { r with
          tag := (tagFor p q r).getD 0, since := s.devtime
          snap := if isRead r then memRead s.dram (r.dline * 128) 128 else []
          snapBad := if isRead r then poisonMask s.poison r.dline else 0 }
        let s := if r.op = .wr then
          countPort p (maskBytes r.smask) { s with dram := memWrite s.dram r.bytes, poison := storePoison s.poison r } else s
        emit (.portReq p x) (modPort p (fun q => { q.slot r with
          credits := q.credits - 1, queue := afterWrite x (q.queue.eraseIdx i), sent := (q.sent.map (markStale x)) ++ [x] }) s)

/-- Sends what the port can take. -/
def portPump (p : Nat) : Nat → State → State
  | 0, s => s
  | n + 1, s => portPump p n (portSend1 p s)

/-- Pumps a port after its queue or its credits changed. -/
def pump (p : Nat) (s : State) : State := portPump p ((portAt s.ports p).queue.length + 1) s

/-- Pumps every port: a read held by the limit of the whole block may go (R30). -/
def pumpAll (s : State) : State :=
  (List.range 144).foldl (fun s p => if (portAt s.ports p).queue = [] then s else pump p s) s

/-- Pumps a port from which something has gone; every port if the limit of the whole block held before. -/
def pumpFreed (full : Bool) (p : Nat) (s : State) : State := if full then pumpAll s else pump p s

/-! ### Lost writes (R306, R307) -/

/-- A record write that failed (R343) is marked on its phase-tag line. -/
def failRecord (id : Nat) (f : FrontEnd) : FrontEnd :=
  { f with tags := mapWhere (fun t => t.id = id) (fun t => { t with failed := true }) f.tags }

/-- A command's write was answered as lost: the command ends FAULTED (R306). -/
def failCmd (st : Byte) (detail : Nat) (id : Nat) (f : FrontEnd) : FrontEnd :=
  let g (c : Cmd) : Cmd := { c with status := st, detail := BitVec.ofNat 32 detail }
  { f with cmds := mapWhere (fun c => c.id = id && c.status = 0) g f.cmds }

/-- SEQ of the record of a lost port, or of the port whose mismatch keeps its tier from serving (R306, R307). -/
def lossSeq (f : Flt) (p : Nat) : Nat :=
  match (f.recs.filter fun r => (r.source = 0x3A && r.loc = locPort p) || (r.source = 0x3B && r.loc.kind = (locPort p).kind)).getLast? with
  | some r => r.seq
  | none => 0

/-- Keys by which a command waits for the record of a lost port, or of a tier that serves no request. -/
def lossKey (p : Nat) : Nat := 2 ^ 40 + p
def tierKey (p : Nat) : Nat := 2 ^ 41 + (if p < 128 then 0 else 1)

/-- A command of which a write was lost ends FAULTED; its DETAIL is the SEQ of the port's record, once that is made (R306). -/
def loseCmd (p id : Nat) (s : State) : State :=
  match s.flt.intake.find? fun i => i.rep.owner = some (lossKey p) || i.rep.owner = some (tierKey p) with
  | some i =>
    let f (c : Cmd) : Cmd := if c.status = 0 then { c with status := 0x20, waitsReport := true, repOf := i.rep.owner.getD 0 } else c
    { s with fe := { s.fe with cmds := mapWhere (fun c => decide (c.id = id)) f s.fe.cmds } }
  | none => { s with fe := failCmd 0x20 (lossSeq s.flt p) id s.fe }

/-- A launch of which a write was lost ends with FAULTED, and its work items with it (R306, R223). -/
def loseLaunch (p cmd : Nat) (s : State) : State :=
  match s.simt.launches.find? fun x => x.cmd = cmd && x.ending.isNone with
  | none => loseCmd p cmd s
  | some x =>
    let f (y : Launch) : Launch := { y with ending := some 0x20 }
    (cmd :: x.items.map Item.cmd).foldl (fun s id => loseCmd p id s)
      { s with simt := { s.simt with launches := mapWhere (fun y => decide (y.id = x.id)) f s.simt.launches } }

/-- A write answered as lost (R306): the command whose bytes it carries ends; a record's line fails. -/
def loseWrite (p : Nat) (who : Requester) (s : State) : State :=
  match who with
  | .cmd id => loseCmd p id s
  | .core _ cmd => loseLaunch p cmd s
  | .record id => { s with fe := failRecord id s.fe }
  | .tagLine id => { s with fe := failRecord id s.fe }
  | .row x _ cmd => match (s.mov.xfers.find? fun t => t.id = x).map Xfer.owner with
    | some (.simt l _ _ _ _ _) => match s.simt.launches.find? fun y => y.id = l with
      | some y => loseLaunch p y.cmd s
      | none => loseCmd p cmd s
    | _ => loseCmd p cmd s
  | .hostWrite hpa => emit (.memCmp hpa) s
  | _ => s

/-- Puts a request in a port's queue; a stopped partition restarts (R474). -/
def portEnqueue (p : Nat) (r : PReq) (s : State) : State :=
  let s := wakePart (partOfPort p) s
  pump p (modPort p (fun q => { q with queue := q.queue ++ [{ r with since := s.devtime }] }) s)

/-- Writes bytes of one device line to its port. -/
def portWrite (who : Requester) (dline : Nat) (bytes : List (Nat × Byte)) (poison : BitVec 4) (s : State) : State :=
  match s.mem.port (dline * 128) with
  | none => s
  | some (p, line) =>
    if portDead s.mem s.ports p then loseWrite p who s
    else
      let sm := BitVec.ofNat 4 (((List.range 4).filter fun k =>
        poison.getLsbD k || bytes.any fun b => b.1 / 32 = sectorKey dline k).foldl (fun a k => a + 2 ^ k) 0)
      portEnqueue p { op := .wr, pline := line, dline := dline, smask := sm, who := who, bytes := bytes, poison := poison } s

/-- The lowest sector of a mask: the one that holds the lowest byte that a request lacks (R257, R301). -/
def critOf (sm : BitVec 4) : BitVec 2 := BitVec.ofNat 2 (((List.range 4).find? fun k => sm.getLsbD k).getD 0)

/-- Requests sectors of one device line from its port, unless a read of them is on its way that no write has passed (R258). -/
def portRead (who : Requester) (dline : Nat) (sm : BitVec 4) (s : State) : State :=
  match s.mem.port (dline * 128) with
  | none => s
  | some (p, line) =>
    let q := portAt s.ports p
    if portDead s.mem s.ports p then s
    else if (q.queue ++ q.sent).any fun r =>
        isRead r && r.op ≠ .scr && r.dline = dline && r.who = who && (sm &&& ~~~r.smask) = 0 && r.stale = 0 then s
    else portEnqueue p { op := .rd, pline := line, dline := dline, smask := sm, crit := critOf sm, who := who } s

/-! ## DC lines -/

/-- Line numbers of host memory are set apart from device lines by this offset. -/
def hostLine : Nat := 2 ^ 46
def isHostLine (l : Nat) : Bool := hostLine ≤ l
/-- Home slice of a device or host line outside table regions (R254). -/
def lineHome (l : Nat) : Nat := homeSlice (if isHostLine l then (l - hostLine) * 128 else l * 128)
def DcLine.sectorValid (l : DcLine) (k : Nat) : Bool := (l.bv >>> (32 * k)) &&& 0xFFFFFFFF#128 = 0xFFFFFFFF#128
/-- Mask of the sectors at which `p` holds. -/
def secMask (p : Nat → Bool) : BitVec 4 := BitVec.ofNat 4 (((List.range 4).filter p).foldl (fun a k => a + 2 ^ k) 0)
/-- Byte mask of the sectors of a mask. -/
def byteMask (m : BitVec 4) : BitVec 128 :=
  (List.range 4).foldl (fun b k => if m.getLsbD k then b ||| (0xFFFFFFFF#128 <<< (32 * k)) else b) 0
def DcLine.validMask (l : DcLine) : BitVec 4 := secMask l.sectorValid
def Slice.find (sl : Slice) (line : Nat) : Option DcLine := sl.lines.find? fun l => l.line = line
def Slice.cacheWays (sl : Slice) : Nat := 16 - sl.scr - sl.off
def Slice.put (sl : Slice) (l : DcLine) : Slice :=
  { sl with lines := sl.lines.map fun x => if x.line = l.line then l else x }
def Slice.drop (sl : Slice) (line : Nat) : Slice := { sl with lines := sl.lines.filter fun l => l.line ≠ line }
def newLine (set way line : Nat) : DcLine :=
  { set := set, way := way, line := line, data := List.replicate 128 0, bv := 0, dirty := 0, poison := 0, sticky := false,
    tag := none, h0 := .I, h1 := .I }

/-- Some transaction is in progress on the line (R284). -/
def Slice.inTxn (sl : Slice) (line : Nat) : Bool := sl.txns.any fun t => t.line = line
/-- A fill of the line is in progress (R258). -/
def Slice.filling (sl : Slice) (line : Nat) : Bool := sl.fills.contains line || sl.pfills.contains line

/-- A way in which a line can be allocated (R260): the lowest way of the set that is empty or whose line holds nothing, else the way
that the LFSR names among those with no sticky line; never one with a fill or a transaction in progress, or at whose line `busy` holds;
none when there is no candidate. -/
def Slice.victim (sl : Slice) (set : Nat) (busy : Nat → Bool) : Option (Nat × Option DcLine) :=
  let inSet := sl.lines.filter fun l => l.set = set
  let ways := (List.range sl.cacheWays).filterMap fun w => match inSet.find? fun l => l.way = w with
    | none => some (w, none)
    | some l => if sl.filling l.line || sl.inTxn l.line || busy l.line then none else some (w, some l)
  let empty (l : Option DcLine) : Bool := match l with
    | none => true
    | some l => decide (l.bv = 0) && decide (l.h0 = .I) && decide (l.h1 = .I)
  match ways.find? fun x => empty x.2 with
  | some x => some x
  | none =>
    let cand := ways.filter fun x => !(x.2.any DcLine.sticky)
    cand[sl.lfsr.toNat * cand.length / 65536]?

/-- Bytes of a line's dirty sectors that hold data, at their device addresses (R259). -/
def DcLine.dirtyBytes (l : DcLine) : List (Nat × Byte) :=
  (List.range 128).filterMap fun i =>
    if l.dirty.getLsbD (i / 32) && l.bv.getLsbD i then some (l.line * 128 + i, l.data.getD i 0) else none

/-! ## Requests to the host (R379, R372) -/

/-- A request may go out: once the block is quiesced, only the evictions that its drain made (R420). -/
def hostOpen (s : State) (r : D2h) : Bool :=
  s.hif.bme && secure s 3 && !s.flt.safe && s.hif.d2h.length < 1024
    && (!quiesced s || r.op = .dirtyEvict || r.op = .cleanEvict)

/-- A request to the host is sent, or held until it may go (R372, R380, R397). -/
def d2hSend (r : D2h) (s : State) : State :=
  let r := { r with tag := s.hif.nextTag, since := s.devtime }
  let s := { s with hif := { s.hif with nextTag := s.hif.nextTag + 1 } }
  if hostOpen s r then
    emit (.d2hReq r) { s with hif := { s.hif with d2h := s.hif.d2h ++ [r] } }
  else { s with hif := { s.hif with held := s.hif.held ++ [r] } }

/-- A write of bytes of one 64-B half of host memory (R379): ItoMWr when it covers the half. -/
def hostWrite (who : Requester) (pa : Nat) (bytes : List (Nat × Byte)) (s : State) : State :=
  if bytes = [] then s
  else d2hSend { tag := 0, op := if bytes.length = 64 then .itoMWr else .woWrInv, pa := pa / 64 * 64, bytes := bytes, who := who } s

/-- A record line (R379). -/
def hostRecordLine (who : Requester) (pa : Nat) (b : Bytes) (s : State) : State :=
  d2hSend { tag := 0, op := .itoMWr, pa := pa / 64 * 64, bytes := placed pa b, who := who } s

/-- Some sector of half `h` of a line is poisoned. -/
def DcLine.halfBad (l : DcLine) (h : Nat) : Bool := l.poison.getLsbD (2 * h) || l.poison.getLsbD (2 * h + 1)

/-- Host halves of an evicted line leave by DirtyEvict, poison with them, or by CleanEvictNoData (R379, R291). -/
def evictHalf (l : DcLine) (k : Nat) (h : HostState) (s : State) : State :=
  let pa := (l.line - hostLine) * 128 + 64 * k
  match h with
  | .I => s
  | .M => d2hSend { tag := 0, op := .dirtyEvict, pa := pa, bytes := placed pa (slice l.data (64 * k) 64), poison := l.halfBad k } s
  | _ => d2hSend { tag := 0, op := .cleanEvict, pa := pa } s

/-- Writes back the dirty sectors of a line, for whoever waits; poison travels with them (R291). -/
def writeBackLine (who : Requester) (l : DcLine) (s : State) : State :=
  if isHostLine l.line then evictHalf l 1 l.h1 (evictHalf l 0 l.h0 s)
  else if l.dirty = 0 then s
  else portWrite who l.line l.dirtyBytes (l.dirty &&& l.poison) s

/-! ## Cores and their copies -/

def coreAt (s : State) (c : Nat) : Core := fget {} s.simt.cores c
def modCore (c : Nat) (f : Core → Core) (s : State) : State :=
  { s with simt := { s.simt with cores := fmod {} s.simt.cores c f } }

/-- The core has an L1 and it is enabled (R276, R278). -/
def l1On (s : State) (c : Nat) : Bool := bit (rget s (0xA3000 + 4 * (c / 4))) (c % 4) && (coreAt s c).split ≠ 0

/-- The M data of a line that has not reached its home: in an L1 or in its write-back buffer (R280, R286). -/
def dirtyL1 (cores : FMap Core) (line : Nat) : Option L1Line :=
  (cores.flatMap fun e => e.2.l1 ++ e.2.wb).find? fun l => l.line = line && l.st = .M

/-- Line with the data of an M copy; the halves of host memory that an atomic has changed become M (R289). -/
def DcLine.takeM (l : DcLine) (m : L1Line) : DcLine :=
  let host : Bool := isHostLine l.line
  { l with
    data := (List.range 128).map fun i => if m.valid.getLsbD (i / 32) then m.data.getD i 0 else l.data.getD i 0
    bv := if host then l.bv else l.bv ||| byteMask m.valid
    dirty := if host then l.dirty else l.dirty ||| m.valid
    poison := (l.poison &&& ~~~m.valid) ||| (m.poison &&& m.valid)
    tag := if m.tag.isSome then m.tag else l.tag
    h0 := if l.h0 ≠ .I && m.hd.getLsbD 0 then .M else l.h0
    h1 := if l.h1 ≠ .I && m.hd.getLsbD 1 then .M else l.h1 }

/-- A copy in the write-back buffer whose data has been taken leaves a data-less notice (R286). -/
def Core.takeWb (line : Nat) (k : Core) : Core :=
  if k.wb.any fun m => m.line = line then
    { k with wb := k.wb.filter (fun m => m.line ≠ line), notices := k.notices ++ [line] }
  else k

/-- Returned copies of a line go when the line changes. -/
def dropRet (line : Nat) (s : State) : State :=
  let s := if s.simt.cores.any fun e => e.2.ret.any fun r => r.line = line then
      let f (e : Nat × Core) : Nat × Core := (e.1, { e.2 with ret := e.2.ret.filter (fun r => r.line ≠ line) })
      { s with simt := { s.simt with cores := s.simt.cores.map f } }
    else s
  { s with dc := { s.dc with got := s.dc.got.filter fun r => r.line ≠ line } }

/-- Every L1 copy and returned copy of a line goes, and its directory entry; an L1 that is disabled keeps its contents (R279). -/
def dropCopies (line : Nat) (s : State) : State :=
  let f (e : Nat × Core) : Nat × Core :=
    let k := e.2.takeWb line
    (e.1, if l1On s e.1 then { k with l1 := k.l1.filter (fun l => l.line ≠ line) } else k)
  let g (sl : Slice) : Slice := { sl with dir := sl.dir.filter (fun x => x.line ≠ line) }
  dropRet line (modSlice (lineHome line) g { s with simt := { s.simt with cores := s.simt.cores.map f } })

/-- Every reservation on the line ends but those of the threads in `keep` (launch, team, group, lane) (R236). -/
def endResv (keep : List (Nat × Nat × Nat × Nat)) (line : Nat) (m : Simt) : Simt :=
  { m with launches := m.launches.map fun l => { l with teams := l.teams.map fun t => { t with groups := t.groups.map fun g =>
      { g with resv := g.resv.filter fun r => r.line ≠ line || keep.contains (l.id, t.num, g.num, r.lane) } } } }

/-- Reservations on a line end. -/
def endLineResv (line : Nat) (s : State) : State := { s with simt := endResv [] line s.simt }

/-- Some thread is within 32 instructions of an LDR of the line (R237). -/
def resvHeld (s : State) (line : Nat) : Bool :=
  s.simt.launches.any fun l => l.teams.any fun t => t.groups.any fun g => g.resv.any fun r => r.line = line && decide (r.n ≤ 32)

/-! ## Allocation and eviction (R260) -/

/-- The read that fills a line has no use any more, for the line has left its slice. -/
def orphanFill (k line : Nat) (s : State) : State :=
  if !(s.dc.slice k).filling line then s
  else
    let f (r : PReq) : PReq := if isRead r && r.who = .fill && r.dline = line then { r with who := .none } else r
    let g (e : Nat × Port) : Nat × Port := (e.1, { e.2 with queue := e.2.queue.map f, sent := e.2.sent.map f })
    modSlice k (fun sl => { sl with fills := sl.fills.filter (· ≠ line), pfills := sl.pfills.filter (· ≠ line) })
      { s with ports := s.ports.map g }

/-- A prefetched copy of a line goes, or comes no more (R272). -/
def dropSide (k line : Nat) (s : State) : State :=
  let s := if (s.dc.slice k).pfills.contains line then orphanFill k line s else s
  modSlice k (fun sl => { sl with side := sl.side.filter fun e => e.line ≠ line }) s

/-- The command whose tag a line carries waits for the writes of the line (R233, R243). -/
def tagOwner (t : Option Nat) : Requester := match t with
  | some id => .cmd id
  | none => .none

/-- Writes back and drops a line of a slice. A host half that leaves takes its L1 copies along, for no L1 may hold what the
host no longer grants (R289). -/
def evictLine (k : Nat) (l : DcLine) (s : State) : State :=
  let s := orphanFill k l.line s
  if isHostLine l.line then
    let l' := match dirtyL1 s.simt.cores l.line with
      | some m => l.takeM m
      | none => l
    modSlice k (fun sl => sl.drop l.line) (writeBackLine (tagOwner l.tag) l' (dropCopies l.line s))
  else modSlice k (fun sl => sl.drop l.line) (writeBackLine (tagOwner l.tag) l s)

/-- Cleans a line in place: dirty sectors written back, the tag cleared (R269). -/
def cleanLine (k : Nat) (who : Requester) (l : DcLine) (s : State) : State :=
  modSlice k (fun sl => sl.put { l with dirty := 0, tag := none }) (writeBackLine who l s)

/-- A write of the line is on its way to its port or to the host; or the line is a host line that a thread has reserved, which would
leave the L1s with it (R260, R237). -/
def lineHeld (s : State) (line : Nat) : Bool :=
  if isHostLine line then
    (s.hif.d2h ++ s.hif.held).any (fun r => r.pa / 128 = line - hostLine && !r.bytes.isEmpty) || resvHeld s line
  else match s.mem.port (line * 128) with
    | some (p, _) => let q := portAt s.ports p
      (q.queue ++ q.sent).any fun r => r.op = .wr && r.dline = line
    | none => false

/-- Where a line that slice k does not hold can go. -/
def wayFor (k line : Nat) (s : State) : Option (Nat × Option DcLine) := (s.dc.slice k).victim (Config.dcSet line).val (lineHeld s)

/-- The line in the slice, allocated when absent; none when no way can take it (R260). -/
def allocLine (k line : Nat) (s : State) : State × Option DcLine :=
  match (s.dc.slice k).find line with
  | some l => (s, some l)
  | none =>
    match wayFor k line s with
    | none => (s, none)
    | some (w, old) =>
      let s := match old with
        | some o => evictLine k o s
        | none => s
      let l := newLine (Config.dcSet line).val w line
      (modSlice k (fun sl => { sl with lines := sl.lines ++ [l] }) s, some l)

/-- The home can merge into the line: it holds it, has a way for it, or its region allocates none (R260, R268). -/
def homeCan (s : State) (line : Nat) : Bool :=
  isHostLine line || policyAt s.rat.com (line * 128) = 2 || ((s.dc.slice (lineHome line)).find line).isSome
    || (wayFor (lineHome line) line s).isSome

/-- Merge written bytes into a line; a sector wholly covered by the write loses its poison (R291). -/
def DcLine.merge (l : DcLine) (bytes : List (Nat × Byte)) (dirty : Bool) : DcLine :=
  let at_ (i : Nat) : Option Byte := (bytes.reverse.find? fun b => b.1 % 128 = i).map Prod.snd
  let cov (k : Nat) := ((List.range 32).filter fun i => (at_ (32 * k + i)).isSome).length
  { l with
    data := (List.range 128).map fun i => (at_ i).getD (l.data.getD i 0)
    bv := (List.range 128).foldl (fun m i => if (at_ i).isSome then m ||| BitVec.ofNat 128 (2 ^ i) else m) l.bv
    dirty := if dirty then (List.range 4).foldl (fun m k => if cov k = 0 then m else m ||| BitVec.ofNat 4 (2 ^ k)) l.dirty else l.dirty
    poison := (List.range 4).foldl (fun m k => if cov k = 32 then m &&& ~~~(BitVec.ofNat 4 (2 ^ k)) else m) l.poison }

/-- Fill the sectors of `sm`: bytes already valid stay (R259). -/
def DcLine.fill (l : DcLine) (sm : BitVec 4) (data : Bytes) (bad : BitVec 4) : DcLine :=
  { l with
    data := (List.range 128).map fun i => if sm.getLsbD (i / 32) && !l.bv.getLsbD i then data.getD i 0 else l.data.getD i 0
    bv := l.bv ||| byteMask sm
    poison := l.poison ||| (sm &&& bad) }

/-! ## The coherent view of device memory -/

/-- Newest bytes of queued writes to a device address; writes already sent are in `dram` (R303). -/
def queuedByte (m : MemMap) (ports : FMap Port) (a : Nat) : Option Byte :=
  match m.port a with
  | none => none
  | some (p, _) =>
    ((portAt ports p).queue.reverse.flatMap fun r => if r.op = .wr && !r.cond then r.bytes.reverse else []).find? (fun b => b.1 = a)
      |>.map Prod.snd

def dcByte (sl : Slice) (a : Nat) : Option Byte :=
  match sl.find (a / 128) with
  | some l => if l.bv.getLsbD (a % 128) then some (l.data.getD (a % 128) 0) else none
  | none => (sl.side.find? fun e => e.line = a / 128).map fun e => e.data.getD (a % 128) 0

/-- Byte of device memory as the home slice `k` serves it (R282, R268): M data, the slice, writes under way, memory. -/
def devByte (s : State) (k a : Nat) : Byte :=
  match (dirtyL1 s.simt.cores (a / 128)).filter fun l => l.valid.getLsbD (a % 128 / 32) with
  | some l => l.data.getD (a % 128) 0
  | none =>
    match dcByte (s.dc.slice k) a with
    | some b => b
    | none => (queuedByte s.mem s.ports a).getD (fget 0 s.dram a)

def devBytes (s : State) (k a n : Nat) : Bytes := (List.range n).map fun i => devByte s k (a + i)

/-- A device address whose port answers nothing: its reads are answered as errors within the block (R306, R307). -/
def deadAt (s : State) (a : Nat) : Bool :=
  match s.mem.port a with
  | some (p, _) => portDead s.mem s.ports p
  | none => false

/-- Sector `sec` of device memory is poisoned, as home slice `k` sees it: in the M copy, in the slice, as its port returned it, or in
memory (R291, R306). -/
def secPoison (s : State) (k sec : Nat) : Bool :=
  let j := sec % 4
  let below : Bool := fget false s.poison sec || deadAt s (32 * sec)
    || s.dc.got.any fun r => r.line = sec / 4 && r.sm.getLsbD j && r.poison.getLsbD j
  match (dirtyL1 s.simt.cores (sec / 4)).filter fun l => l.valid.getLsbD j with
  | some m => m.poison.getLsbD j
  | none => match (s.dc.slice k).find (sec / 4) with
    | some l => l.poison.getLsbD j || (!l.sectorValid j && below)
    | none => below

/-- Some sector of the range is poisoned. -/
def devPoison (s : State) (k a n : Nat) : Bool :=
  (List.range ((a + n - 1) / 32 - a / 32 + 1)).any fun i => secPoison s k (a / 32 + i)

/-- Some 8-B word of a scratchpad range reads as poison (R290, R324). -/
def scratchBad (s : State) (a n : Nat) : Bool :=
  let o := a - scrBase
  (List.range ((o + n - 1) / 8 - o / 8 + 1)).any fun i => fget false s.dc.scratchBad (o / 8 + i)

/-- Bytes of an ordinary device address range or of the scratchpad, each at the home of its line. -/
def readDevice (s : State) (a n : Nat) : ReadBack :=
  if scrBase ≤ a then
    (if scratchBad s a n then .poison else .data (memRead s.dc.scratch (a - scrBase) n))
  else
    let bad := (List.range ((a + n - 1) / 32 - a / 32 + 1)).any fun i =>
      secPoison s (homeSlice ((a / 32 + i) * 32)) (a / 32 + i)
    if bad then .poison else .data ((List.range n).map fun i => devByte s (homeSlice (a + i)) (a + i))

/-! ## Requests refused (R284) -/

/-- The agent of the requesters that keep no copy. -/
def noCopy : Nat := 256

def isNak (c line : Nat) (kind : ReqKind) (n : Nak) : Bool := n.core = c && n.line = line && n.kind = kind

/-- A refused request (R284): counted; starved after its fourth NAK. -/
def refuse (c line : Nat) (kind : ReqKind) (s : State) : State :=
  modSlice (lineHome line) (fun sl =>
    let n := match sl.naks.find? (isNak c line kind) with
      | some x => min 7 (x.n + 1)
      | none => 1
    let x : Nak := { core := c, line := line, kind := kind, n := n, at_ := s.devtime }
    { sl with
      naks := sl.naks.filter (fun y => !isNak c line kind y) ++ [x]
      starved := if 4 ≤ n && !sl.starved.any (isNak c line kind) then sl.starved ++ [x] else sl.starved }) s

def clearNak (c line : Nat) (kind : ReqKind) (s : State) : State :=
  modSlice (lineHome line) (fun sl =>
    { sl with naks := sl.naks.filter (fun n => !isNak c line kind n), starved := sl.starved.filter (fun n => !isNak c line kind n) }) s

/-- The request that a NAK stands for still wants the line: what ends with its command or its launch is starved no more. -/
def Nak.wanted (s : State) (n : Nak) : Bool :=
  match n.kind with
  | .readShared => (coreAt s n.core).miss.any fun m => m.line = n.line && !m.own
  | .readOwn => (coreAt s n.core).miss.any fun m => m.line = n.line && m.own
  | .writeThrough => (coreAt s n.core).sb.any fun e => e.line = n.line && e.level = .core
  | .write => s.dc.writes.any fun w => w.line = n.line
  | .readCurrent => s.dc.want.contains n.line
  | .atom => s.simt.launches.any fun l => l.ending.isNone && l.teams.any fun t => t.core = n.core && t.groups.any fun g =>
      g.wait = .mem && (g.atoms.any (fun a => a.1 = n.line) || g.resv.any fun r => r.line = n.line)

/-- The home refuses the request: a transaction is in progress, or an older starved request waits (R284). -/
def refused (s : State) (c line : Nat) (kind : ReqKind) : Bool :=
  let sl := s.dc.slice (lineHome line)
  sl.inTxn line || match sl.starved.find? fun n => n.line = line && n.wanted s with
    | some n => !isNak c line kind n
    | none => false

/-- A request refused before may be made again: 8 × (n + 1) FCLK cycles of 2/3 ns have passed (R284). -/
def mayRetry (s : State) (c line : Nat) (kind : ReqKind) : Bool :=
  match (s.dc.slice (lineHome line)).naks.find? (isNak c line kind) with
  | none => true
  | some n => 16 * (n.n + 1) ≤ 3 * since s.devtime n.at_

/-! ## Requests to affected bytes while a table is applied (R266) -/

/-- TABLE and POLICY of the entry that covers an address, if any. -/
def ratAttr (t : FMap RatEnt) (a : Nat) : Option (Bool × Nat) := (ratOf t a).map fun e => (e.table, e.policy)

/-- A device line affected by a commit (R266). -/
def ratAffected (old new : FMap RatEnt) (line : Nat) : Bool :=
  !isHostLine line && ratAttr old (line * 128) ≠ ratAttr new (line * 128)

/-- Requests to affected bytes wait at their home slices while a table is applied (R266). -/
def ratWait (s : State) (line : Nat) : Bool := s.rat.busy && ratAffected s.rat.com s.rat.applying line

/-! ## Fills (R257, R258) -/

/-- Sectors that slice k serves of a line: valid ones of its line, all of a side buffer entry. -/
def Slice.holds (sl : Slice) (line : Nat) : BitVec 4 :=
  match sl.find line with
  | some l => l.validMask
  | none => if sl.side.any fun e => e.line = line then 0xF else 0

/-- The slice asks the port for the sectors of a line that it lacks, into a way of its own where the region allocates. It waits while
a fill of the line is in progress, while all 256 trackers are busy, or no way can take the line (R257, R258, R260, R268). -/
def fetchSectors (k line : Nat) (need : BitVec 4) (s : State) : State :=
  let sl := s.dc.slice k
  let lack := need &&& ~~~sl.holds line
  if lack = 0 || ratWait s line || sl.filling line || 256 ≤ sl.fills.length + sl.pfills.length || deadAt s (line * 128) then s
  else
    let go (s : State) : State := portRead .fill line lack (modSlice k (fun sl => { sl with fills := sl.fills ++ [line] }) s)
    if 2 ≤ policyAt s.rat.com (line * 128) then go s
    else match allocLine k line s with
      | (_, none) => s
      | (s, some _) => go s

/-- Sectors of a line needed by device range [a, a + n). -/
def sectorsOf (line a n : Nat) : BitVec 4 := secMask fun k => line * 128 + 32 * k < a + n && a < line * 128 + 32 * k + 32

/-- Lines of a range. -/
def rangeLines (a n : Nat) : List Nat :=
  if n = 0 then [] else (List.range ((a + n - 1) / 128 - a / 128 + 1)).map fun i => a / 128 + i

/-- A DC read served without a port read, or one that needed a port read (R424). -/
def countDc (hit : Bool) (s : State) : State :=
  let k := s.rook.counts
  { s with rook := { s.rook with counts :=
      if hit then { k with dcHit := k.dcHit + 1 } else { k with dcMiss := k.dcMiss + 1 } } }

/-- Requests from the ports the sectors of a range that slice k does not hold; `first` when the range is asked for the first time. -/
def fetchRange (first : Bool) (k a n : Nat) (s : State) : State :=
  (rangeLines a n).foldl (fun s line =>
    let need := sectorsOf line a n
    let s := if first then countDc (decide (need &&& ~~~(s.dc.slice k).holds line = 0)) s else s
    fetchSectors k line need s) s

/-- Sectors returned join those returned before. -/
def addGot (g : Got) (l : List Got) : List Got :=
  match l.find? fun r => r.line = g.line with
  | none => l ++ [g]
  | some r =>
    let data := (List.range 128).map fun i => if g.sm.getLsbD (i / 32) then g.data.getD i 0 else r.data.getD i 0
    l.map fun x => if x.line = g.line then
      { r with sm := r.sm ||| g.sm, data := data, poison := (r.poison &&& ~~~g.sm) ||| (g.poison &&& g.sm) } else x

/-- Sectors of a line that the slice does not keep go to the requesters that wait for it (R253, R268). -/
def serveWaiting (k line : Nat) (sm bad : BitVec 4) (s : State) : State :=
  let d := devBytes s k (line * 128) 128
  let g : Got := { line := line, sm := sm, data := d, poison := sm &&& bad }
  let f (e : Nat × Core) : Nat × Core :=
    let m (x : Miss) : Bool := x.line = line && !x.own
    let have_ (k : Core) : BitVec 4 := match k.ret.find? fun r => r.line = line with
      | some r => r.sm
      | none => 0
    if e.2.miss.any m then
      let c := { e.2 with ret := addGot g e.2.ret }
      (e.1, { c with miss := c.miss.filter fun x => !(m x && (x.sm &&& ~~~have_ c) = 0) })
    else e
  { s with
    simt := { s.simt with cores := s.simt.cores.map f }
    dc := { s.dc with got := if s.dc.want.contains line then addGot g s.dc.got else s.dc.got } }

/-- Install fill data for a line in the slice that waits for it, under the region's policy (R268). -/
def installFill (k line : Nat) (sm : BitVec 4) (data : Bytes) (bad : BitVec 4) (s : State) : State :=
  let s := modSlice k (fun sl => { sl with fills := sl.fills.filter (· ≠ line) }) s
  if 2 ≤ policyAt s.rat.com (line * 128) then serveWaiting k line sm bad s
  else match (s.dc.slice k).find line with
    | some l => modSlice k (fun sl => sl.put (l.fill sm data bad)) s
    | none => s

/-- The first demand read that hits a side buffer entry moves its line into the arrays, where a way can take it (R272). -/
def useSide (k line : Nat) (s : State) : State :=
  match (s.dc.slice k).side.find? fun e => e.line = line with
  | none => s
  | some e =>
    match allocLine k line s with
    | (_, none) => s
    | (s, some l) =>
      let l := l.fill 0xF e.data 0
      let h (i : Nat) (x : HostState) : HostState := if isHostLine line && e.halves.getLsbD i then .S else x
      modSlice k (fun sl => { sl.put { l with h0 := h 0 l.h0, h1 := h 1 l.h1 } with
        side := sl.side.filter fun x => x.line ≠ line }) s

/-- Asks the host for halves of a line, unless the request is under way (R379). -/
def askHost (op : D2hOp) (line : Nat) (hs : List Nat) (s : State) : State :=
  hs.foldl (fun s h =>
    let pa := (line - hostLine) * 128 + 64 * h
    if (s.hif.d2h ++ s.hif.held).any fun r => r.pa = pa && r.op = op then s
    else d2hSend { tag := 0, op := op, pa := pa } s) s

/-- A prefetch of a line into the side buffer of slice k: dropped when the slice has it or fetches it, when its region allocates none,
and where nothing can fetch it (R271). -/
def prefetch (k line : Nat) (s : State) : State :=
  let sl := s.dc.slice k
  if (sl.find line).isSome || sl.filling line || (sl.side.any fun e => e.line = line) || 256 ≤ sl.fills.length + sl.pfills.length
      || sl.inTxn line || ratWait s line then s
  else
    let note (s : State) : State := modSlice k (fun sl => { sl with pfills := sl.pfills ++ [line] }) s
    if isHostLine line then askHost .rdShared line [0, 1] (note s)
    else if 2 ≤ policyAt s.rat.com (line * 128) || deadAt s (line * 128) || (s.mem.port (line * 128)).isNone then s
    else portRead .fill line 0xF (note s)

/-- A byte of host memory in the copy that the block holds of it, in an L1 or the slice, and whether it is poison (R282 ReadCurrent). -/
def hostCopy (s : State) (pa : Nat) : Option (Byte × Bool) :=
  let line := hostLine + pa / 128
  let o := pa % 128
  match (dirtyL1 s.simt.cores line).filter fun l => l.valid.getLsbD (o / 32) with
  | some m => some (m.data.getD o 0, m.poison.getLsbD (o / 32))
  | none => ((s.dc.slice (lineHome line)).find line).bind fun l =>
      if l.bv.getLsbD o then some (l.data.getD o 0, l.poison.getLsbD (o / 32)) else none

/-- A byte of host memory: the block's own copy stands before the one read from the host. -/
def hostByte (s : State) (pa : Nat) (b : Byte) : Byte := ((hostCopy s pa).map Prod.fst).getD b

/-- A byte of host memory is poison in the copy that the block holds of it. -/
def hostBad (s : State) (pa : Nat) : Bool := (hostCopy s pa).any Prod.snd

/-! ### Reads of the requesters that keep no copy (R282 ReadCurrent) -/

/-- The sectors of a device line are at hand: an M holder supplies them, or the slice, or the port has returned them, or answers
nothing any more; and no transaction stands in the way. -/
def lineReady (s : State) (line : Nat) (need : BitVec 4) : Bool :=
  let k := lineHome line
  let got : BitVec 4 := match s.dc.got.find? fun r => r.line = line with
    | some r => r.sm
    | none => 0
  !ratWait s line && !(s.dc.slice k).inTxn line
  && ((dirtyL1 s.simt.cores line).any (fun m => need &&& ~~~m.valid = 0)
    || need &&& ~~~((s.dc.slice k).holds line ||| got) = 0 || deadAt s (line * 128) || (s.mem.port (line * 128)).isNone)

/-- A device range outside table regions, or of the scratchpad, can be read now. -/
def deviceReady (s : State) (a n : Nat) : Bool :=
  decide (scrBase ≤ a) || (rangeLines a n).all fun l => lineReady s l (sectorsOf l a n)

/-- One line asked of its home (R282, R284). -/
def askLine (line : Nat) (need : BitVec 4) (s : State) : State :=
  if lineReady s line need then useSide (lineHome line) line s
  else if !mayRetry s noCopy line .readCurrent then s
  else
    let s := { s with dc := { s.dc with want := if s.dc.want.contains line then s.dc.want else s.dc.want ++ [line] } }
    if refused s noCopy line .readCurrent then refuse noCopy line .readCurrent s
    else fetchSectors (lineHome line) line need (clearNak noCopy line .readCurrent s)

/-- What a read of a device range lacks is asked for. -/
def askDevice (a n : Nat) (s : State) : State :=
  if scrBase ≤ a then s else (rangeLines a n).foldl (fun s l => askLine l (sectorsOf l a n) s) s

/-- A range has been read: what was returned for it alone goes. -/
def doneDevice (a n : Nat) (s : State) : State :=
  let hit (l : Nat) : Bool := a / 128 ≤ l && l * 128 < a + n
  { s with dc := { s.dc with want := s.dc.want.filter (fun l => !hit l), got := s.dc.got.filter fun r => !hit r.line } }

/-! ## Writes at the home (R268, R269, R272) -/

/-- Bits of a half of a line. -/
def halfMask (h : Nat) : BitVec 128 := (BitVec.ofNat 128 (2 ^ 64 - 1)) <<< (64 * h)

/-- A write to host memory (R289, R379): merged into the copy that the slice holds, written to the host at once; the halves it
touches are then invalid toward the host. A half in M goes to the host first, so that an atomic's result is never lost with the
write. -/
def hostMerge (k line : Nat) (who : Requester) (bytes : List (Nat × Byte)) (s : State) : State :=
  let base := (line - hostLine) * 128
  let part (h : Nat) : List (Nat × Byte) := (bytes.map fun b => (b.1 - hostLine * 128, b.2)).filter fun b => b.1 / 64 % 2 = h
  let send (s : State) : State := hostWrite who (base + 64) (part 1) (hostWrite who base (part 0) s)
  match (s.dc.slice k).find line with
  | none => send (dropCopies line s)
  | some l =>
    let l := match dirtyL1 s.simt.cores line with
      | some m => l.takeM m
      | none => l
    let first (h : Nat) (st : HostState) (s : State) : State := if part h ≠ [] && st = .M then evictHalf l h st s else s
    let m := l.merge bytes false
    let cut (h : Nat) : BitVec 128 := if part h = [] then 0 else halfMask h
    let m' : DcLine := { m with
      bv := m.bv &&& ~~~(cut 0 ||| cut 1)
      h0 := if part 0 = [] then l.h0 else .I
      h1 := if part 1 = [] then l.h1 else .I }
    let s := modSlice k (fun sl => if m'.h0 = .I && m'.h1 = .I then sl.drop line else sl.put m') (dropCopies line s)
    send (first 1 l.h1 (first 0 l.h0 s))

/-- Bytes of an M copy's valid sectors at their device addresses. -/
def L1Line.placed (m : L1Line) : List (Nat × Byte) :=
  (List.range 128).filterMap fun i => if m.valid.getLsbD (i / 32) then some (m.line * 128 + i, m.data.getD i 0) else none

/-- Data of an M copy reaches the home, under the region's policy (R282 WriteBack, R268); without a way for it, its port. -/
def homeData (k : Nat) (m : L1Line) (s : State) : State :=
  if isHostLine m.line then
    match (s.dc.slice k).find m.line with
    | some l => modSlice k (fun sl => sl.put (l.takeM m)) s
    | none => s
  else
    let out := portWrite (tagOwner m.tag) m.line m.placed (m.poison &&& m.valid)
    match allocLine k m.line s with
    | (s, none) => out s
    | (s, some l) =>
      if policyAt s.rat.com (m.line * 128) = 0 then modSlice k (fun sl => sl.put (l.takeM m)) s
      else out (modSlice k (fun sl => sl.put { l.takeM m with dirty := 0, tag := none }) s)

/-- A write into a line that keeps it dirty: another command's tag first causes a write-back (R269). -/
def mergeDirty (k : Nat) (l : DcLine) (tag : Option Nat) (bytes : List (Nat × Byte)) (s : State) : State :=
  let (s, l) := match l.tag, tag with
    | some t, some u => if t = u then (s, l) else (cleanLine k (.cmd t) l s, { l with dirty := 0, tag := none })
    | _, _ => (s, l)
  modSlice k (fun sl => sl.put { l.merge bytes true with tag := if tag.isSome then tag else l.tag }) s

/-- Merge a write into the home slice of its line under the region's policy (R268); `tag` is the command whose result it is, `keep` the
threads whose own store it is. A write that finds no way goes to its port (only what does not wait: DESIGN CHOICE, log 21). -/
def homeMerge1 (k line : Nat) (who : Requester) (tag : Option Nat) (keep : List (Nat × Nat × Nat × Nat)) (bytes : List (Nat × Byte))
    (s : State) : State :=
  let s := dropRet line (dropSide k line { s with simt := endResv keep line s.simt })
  if isHostLine line then hostMerge k line who bytes s
  else
    let policy := policyAt s.rat.com (line * 128)
    let out := portWrite who line bytes 0
    if policy = 2 then out s
    else match allocLine k line s with
      | (s, none) => out s
      | (s, some l) =>
        if policy = 1 then out (modSlice k (fun sl => sl.put (l.merge bytes false)) s) else mergeDirty k l tag bytes s

/-- Sectors of a device line become poisoned at their home, under the region's policy (R268, R291). -/
def poisonLine (k line : Nat) (m : BitVec 4) (s : State) : State :=
  let policy := policyAt s.rat.com (line * 128)
  let out := portWrite .none line [] m
  if policy = 2 then out s
  else match allocLine k line s with
    | (s, none) => out s
    | (s, some l) =>
      let l := { l with poison := l.poison ||| m, bv := l.bv ||| byteMask m, dirty := if policy = 1 then l.dirty else l.dirty ||| m }
      let s := modSlice k (fun sl => sl.put l) s
      if policy = 1 then out s else s

/-- A line of a completion record leaves no dirty copy behind (R244). -/
def homeMerge (k line : Nat) (who : Requester) (tag : Option Nat) (keep : List (Nat × Nat × Nat × Nat)) (bytes : List (Nat × Byte))
    (s : State) : State :=
  let s := homeMerge1 k line who tag keep bytes s
  match who, (s.dc.slice k).find line with
  | .record _, some l => if l.dirty = 0 then s else cleanLine k who l s
  | .tagLine _, some l => if l.dirty = 0 then s else cleanLine k who l s
  | _, _ => s

/-- Puts a write of a non-caching requester on its way to the home (R282 Write), one entry a line. -/
def sendWrite (who : Requester) (tag : Option Nat) (bytes : List (Nat × Byte)) (s : State) : State :=
  let lines := (bytes.map fun b => b.1 / 128).eraseDups
  { s with dc := { s.dc with writes := s.dc.writes ++ lines.map fun l =>
      { who := who, line := l, bytes := bytes.filter fun b => b.1 / 128 = l, tag := tag } } }

/-- Writes bytes of the scratchpad; a word wholly written reads as poison no more (R290). -/
def writeScratch (o : Nat) (b : Bytes) (c : Caches) : Caches :=
  { c with
    scratch := memWrite c.scratch (placed o b)
    scratchBad := c.scratchBad.filter fun e => !(o ≤ 8 * e.1 && 8 * e.1 + 8 ≤ o + b.length) }

/-- Writes device bytes for a requester that R267 allows: scratchpad at once, memory by way of the home. -/
def writeDevice (who : Requester) (tag : Option Nat) (a : Nat) (b : Bytes) (s : State) : State :=
  if scrBase ≤ a then { s with dc := writeScratch (a - scrBase) b s.dc } else sendWrite who tag (placed a b) s

/-- The release point of a command (R269): every line with its tag is written back, and in a release-through region
invalidated. -/
def releaseLine (id k : Nat) (l : DcLine) (s : State) : State :=
  let s := cleanLine k (.cmd id) l s
  if policyAt s.rat.com (l.line * 128) = 3 then modSlice k (fun sl => sl.drop l.line) s else s

/-- The M lines of the L1s at which `p` holds return to their homes; the copies stay, in E. -/
def returnM (p : L1Line → Bool) (s : State) : State :=
  let hit (l : L1Line) : Bool := l.st = .M && p l
  let ms := s.simt.cores.flatMap fun e => (e.2.l1 ++ e.2.wb).filter hit
  if ms = [] then s
  else
    let f (l : L1Line) : L1Line := { l with st := .E, tag := none, hd := 0 }
    let g (e : Nat × Core) : Nat × Core :=
      let k := (e.2.wb.filter hit).foldl (fun k m => k.takeWb m.line) e.2
      (e.1, { k with l1 := mapWhere hit f k.l1 })
    ms.foldl (fun s m => homeData (lineHome m.line) m s) { s with simt := { s.simt with cores := s.simt.cores.map g } }

/-- The release of a command's lines: M lines of L1s with its tag return to their homes first (R243). -/
def releaseAll (id : Nat) (s : State) : State :=
  let s := returnM (fun l => l.tag = some id) s
  (List.range 64).foldl (fun s k =>
    (s.dc.slice k).lines.foldl (fun s l => if l.tag = some id then releaseLine id k l s else s) s) s

/-- The command whose result bytes a write carries. -/
def Requester.isFor (id : Nat) : Requester → Bool
  | .cmd i => i = id
  | .core _ i => i = id
  | .row _ _ i => i = id
  | _ => false

/-- The write that a transaction waits to merge. -/
def Txn.writer (t : Txn) : Option Requester := match t.kind with
  | .merge x _ _ => some x
  | _ => none

/-- Writes that have not been issued, or wait for a port's answer (R31, R306). -/
def anyUnissued (s : State) (p : Requester → Bool) : Bool :=
  s.dc.writes.any (fun x => p x.who)
  || s.ports.any (fun e => (e.2.queue ++ e.2.sent).any fun r => r.op = .wr && p r.who)
  || s.hif.held.any (fun r => p r.who)
  || s.dc.slices.any (fun e => e.2.txns.any fun t => t.writer.any p)

/-- Writes that have not reached the point of R243. -/
def anyOut (s : State) (p : Requester → Bool) : Bool := anyUnissued s p || s.hif.d2h.any fun r => p r.who

/-- Writes of a requester that have not reached the point of R243. -/
def whoOut (s : State) (w : Requester) : Bool := anyOut s fun x => decide (x = w)

/-- Stores of a core on their way from their homes. -/
def coreOut (s : State) (c : Nat) : Bool := anyOut s fun
  | .core d _ => d = c
  | _ => false

/-- Stores of a launch that are still at core level. -/
def storesHeld (s : State) (id : Nat) : Bool := s.simt.cores.any fun e => e.2.sb.any fun x => x.cmd = id && x.level = .core

/-- Result writes of a command that have not reached the point of R243. -/
def writesOut (s : State) (id : Nat) : Bool := anyOut s (Requester.isFor id) || storesHeld s id

/-- Result writes of a command that have not been issued, or wait for a port's answer (R31, R306). -/
def writesUnissued (s : State) (id : Nat) : Bool := anyUnissued s (Requester.isFor id) || storesHeld s id

/-- Dirty lines tagged with the command. -/
def taggedOut (s : State) (id : Nat) : Bool :=
  s.dc.slices.any (fun e => e.2.lines.any fun l => l.tag = some id)
  || s.simt.cores.any fun e => (e.2.l1 ++ e.2.wb).any fun l => l.tag = some id

/-- The writes of the requesters at which `p` holds go, on their way to their homes or in a transaction that would merge them. -/
def dropMerges (p : Requester → Bool) (s : State) : State :=
  let t (x : Txn) : Txn := if x.writer.any p then { x with kind := .recall } else x
  let f (e : Nat × Slice) : Nat × Slice := (e.1, { e.2 with txns := e.2.txns.map t })
  { s with dc := { s.dc with writes := s.dc.writes.filter (fun w => !p w.who), slices := s.dc.slices.map f } }

/-- The writes of a command that have not left for memory or the host are discarded (R249, R250): those on their way to their homes,
those that a transaction would merge, those held before the link, and the stores at core level. -/
def dropWrites (id : Nat) (s : State) : State :=
  let mine (w : Requester) : Bool := w.isFor id
  let s := dropMerges mine s
  let g (e : Nat × Core) : Nat × Core := (e.1, { e.2 with sb := e.2.sb.filter fun x => !(x.cmd = id && x.level = .core) })
  { s with
    simt := { s.simt with cores := s.simt.cores.map g }
    hif := { s.hif with held := s.hif.held.filter fun r => !mine r.who } }

/-! ## Reads of a row (R94, R159) -/

/-- Forwarding entry of a row in the pool: the copy that gathers read (R159). -/
def Migration.entry (m : Migration) (t side r : Nat) : Option Fwd :=
  m.fwd.find? fun f => f.table = t && f.side = side && f.row = r
def poolBase (regs : FMap W32) (p : Nat) : Nat :=
  pair (fget 0 regs (0x82040 + 16 * p) &&& 0xFFFFF800#32) (fget 0 regs (0x82044 + 16 * p) &&& 0xFFFFF#32)
/-- Device address of the copy of a row that gathers read, and whether it is the pool copy. -/
def rowCopy (s : State) (t : Nat) (d : TblDesc) (side r : Nat) : Nat × Bool :=
  match s.mig.entry t side r with
  | some f =>
    if f.st = .copying then (d.rowAddr side r, false)
    else (poolBase s.regs (shardHome t d.shards r).1 + f.slot * 2048, true)
  | none => (d.rowAddr side r, false)

/-! ## Translations (R312) -/

/-- The entry covers a page. -/
def AtcEnt.covers (e : AtcEnt) (page : Nat) : Bool := e.page ≤ page && page < e.page + 2 ^ e.log2

def Atc.find (a : Atc) (pasid ctx : Nat) (gen : W16) (page : Nat) : Option AtcEnt :=
  a.ents.find? fun e => e.pasid = pasid && e.ctx = ctx && e.gen = gen && e.covers page

/-- Physical address of a virtual one that the entry covers. -/
def AtcEnt.phys (e : AtcEnt) (va : Nat) : Nat := (e.ppn + (va / 4096 - e.page)) * 4096 + va % 4096

/-- What a held entry gives an access of one page: a physical address, a denial by its permissions, or none (R312). -/
inductive XlatNow where
  | pa (a : Nat)
  | denied
  | miss (noWrite : Bool)
deriving DecidableEq, Repr

def xlatP (a : Atc) (pasid ctx : Nat) (gen : W16) (va : Nat) (write : Bool) : XlatNow :=
  match a.find pasid ctx gen (va / 4096) with
  | none => .miss (!write)
  | some e =>
    if write then (if e.w then .pa (e.phys va) else if e.noWrite then .miss false else .denied)
    else if e.r then .pa (e.phys va) else .denied

def pasidOf (s : State) (ctx : Nat) : Nat := fld (fget {} s.fe.ctx ctx).pasid 19 0

/-- Translation in the context's PASID. -/
def xlat (s : State) (ctx : Nat) (gen : W16) (va : Nat) (write : Bool) : XlatNow :=
  xlatP s.atc (pasidOf s ctx) ctx gen va write

/-- Sends a Translation Request unless the same one is outstanding (R312); held while Bus Master Enable is 0 (R372). -/
def askXlatP (pasid ctx : Nat) (gen : W16) (va : Nat) (noWrite : Bool) (who : XlatFor) (pc : Nat) (s : State) : State :=
  if s.atc.reqs.any fun r => r.pasid = pasid && r.ctx = ctx && r.gen = gen && r.page = va / 4096 && decide (r.who = who) then s
  else emitMem (.translationRequest pasid (va / 4096) noWrite)
    { s with atc := { s.atc with
        next := s.atc.next + 1
        reqs := s.atc.reqs ++ [XlatReq.mk s.atc.next pasid ctx gen (va / 4096) noWrite who va pc s.devtime] } }

def askXlat (ctx : Nat) (gen : W16) (va : Nat) (noWrite : Bool) (who : XlatFor) (pc : Nat) (s : State) : State :=
  askXlatP (pasidOf s ctx) ctx gen va noWrite who pc s

/-- HVDM device address of a translated host physical address, when a committed decoder covers it (R313, R377). -/
def hvdmBase (m : MemMap) (k : Nat) : Nat := fld (if k = 0 then m.hvdm0 else m.hvdm1) 26 16 * 2 ^ 28
def hvdmSize (m : MemMap) (k : Nat) : Nat := fld (if k = 0 then m.hvdm0 else m.hvdm1) 9 0 * 2 ^ 28
def hvdmOf (s : State) (pa : Nat) : Option Nat :=
  (List.range 2).findSome? fun k =>
    let h := fget {} s.hif.hdm k
    if h.committed && h.base ≤ pa && pa < h.base + h.size then some (hvdmBase s.mem k + (pa - h.base)) else none

/-- A translated address that lands in HVDM is subject to R267 (R313). -/
def physOk (s : State) (pa n : Nat) : Bool :=
  match hvdmOf s pa with
  | some a => allowed s a n
  | none => true

/-- Writes to a translated address: through the home of the host line, or into HVDM (R313). -/
def writePhys (who : Requester) (tag : Option Nat) (pa : Nat) (b : Bytes) (s : State) : State :=
  match hvdmOf s pa with
  | some a => sendWrite who tag (placed a b) s
  | none => sendWrite who none ((placed pa b).map fun x => (x.1 + hostLine * 128, x.2)) s

end Sys2Proof.Machine
end

