-- ==== Sys2Proof/Machine/Commands.lean ====
section
/-! DEFINITION. Commands in flight: contexts and queues, how a command ends, homes and predictions (R27, R354), completion
records (R351), interrupts (R382), arbiters between contexts (R357), and the sequencers (R360). -/

namespace Sys2Proof.Machine

/-! ## Contexts and queues (R330, R336, R341) -/

def FrontEnd.ctxOf (f : FrontEnd) (c : Nat) : Ctx := fget {} f.ctx c
def FrontEnd.sqOf (f : FrontEnd) (q : Nat) : Sq := fget {} f.sq q
def FrontEnd.cqOf (f : FrontEnd) (q : Nat) : Cq := fget {} f.cq q
def modSq (q : Nat) (g : Sq → Sq) (s : State) : State := { s with fe := { s.fe with sq := fmod {} s.fe.sq q g } }
def modCq (q : Nat) (g : Cq → Cq) (s : State) : State := { s with fe := { s.fe with cq := fmod {} s.fe.cq q g } }
def modCtx (c : Nat) (g : Ctx → Ctx) (s : State) : State := { s with fe := { s.fe with ctx := fmod {} s.fe.ctx c g } }
def Ctx.pred (c : Ctx) : Bool := bit c.cfg 30
def Ctx.late (c : Ctx) : Bool := bit c.cfg 29
def Ctx.pmask (c : Ctx) : Nat := fld c.cfg 23 16
def Ctx.tgroup (c : Ctx) : Nat := fld c.cfg 15 0
def Ctx.weight (c : Ctx) : Nat := fld c.share 15 8
def Ctx.margin (c : Ctx) : Nat := fld c.share 7 0
def Ctx.wdog (c : Ctx) : Nat := fld c.share 31 16
def Sq.en (q : Sq) : Bool := bit q.regs.cfg 31
def Sq.isRing (q : Sq) : Bool := bit q.regs.cfg 30
def Sq.size (q : Sq) : Nat := if q.isRing then 2 ^ fld q.regs.cfg 29 26 else 63
def Sq.lgrp (q : Sq) : Nat := fld q.regs.cfg 9 0
def Sq.cq (q : Sq) : Nat := fld q.regs.aux 27 16
def Sq.ctx (q : Sq) : Nat := fld q.regs.aux 11 0
def Sq.base (q : Sq) : Nat := pair (q.regs.baseLo &&& 0xFFFFF000#32) (q.regs.baseHi &&& 0x1FFFFFF#32)
/-- Pending slots (R340). -/
def Sq.pend (q : Sq) : Nat := (q.tail + q.size - q.head) % q.size
def Cq.en (q : Cq) : Bool := bit q.regs.cfg 31
def Cq.dev (q : Cq) : Bool := bit q.regs.cfg 30
def Cq.ien (q : Cq) : Bool := bit q.regs.cfg 29
def Cq.size (q : Cq) : Nat := 2 ^ fld q.regs.cfg 23 20
def Cq.vec (q : Cq) : Nat := fld q.regs.cfg 11 0
def Cq.base (q : Cq) : Nat := pair (q.regs.baseLo &&& 0xFFFFFFC0#32) (q.regs.baseHi &&& 0x1FFFFFF#32)
def Cq.full (q : Cq) : Bool := (q.tail + 1) % q.size = q.head

/-! ## Interrupts (R382 to R385) -/

def vecMasked (h : Hif) (v : Nat) : Bool := h.funcMask || !fget false h.unmasked v

def assertIntx (s : State) : State :=
  if s.hif.intxPend && !s.hif.msixEn && !s.hif.intxDis && !s.hif.intxAsserted then
    emit .assertInta { s with hif := { s.hif with intxAsserted := true } }
  else s

/-- Deassert_INTA, only if Assert_INTA was the last message sent (R385). -/
def deassertIntx (s : State) : State :=
  if s.hif.intxAsserted then emit .deassertInta { s with hif := { s.hif with intxAsserted := false } } else s

/-- Raising a vector (R383). -/
def raiseVec (v : Nat) (s : State) : State :=
  if !s.hif.msixEn then assertIntx { s with hif := { s.hif with intxPend := true } }
  else if vecMasked s.hif v then { s with hif := { s.hif with pba := fset false s.hif.pba v true } }
  else emitMem (.msix v) s

/-- An interrupt event on a vector (R382). -/
def irqEvent (v : Nat) (s : State) : State :=
  let c := fget {} s.hif.coal v
  let r := rget s (0xE1000 + 4 * v)
  let c' : Coal := { n := c.n + 1, first := if c.n = 0 then s.devtime else c.first }
  if max 1 (fld r 23 16) ≤ c'.n || fld r 15 0 = 0 then
    raiseVec v { s with hif := { s.hif with coal := fset {} s.hif.coal v {} } }
  else { s with hif := { s.hif with coal := fset {} s.hif.coal v c' } }

/-! ## Commands -/

def FrontEnd.cmd (f : FrontEnd) (id : Nat) : Option Cmd := f.cmds.find? fun c => c.id = id
def FrontEnd.modCmd (f : FrontEnd) (id : Nat) (g : Cmd → Cmd) : FrontEnd := { f with cmds := mapWhere (fun c => decide (c.id = id)) g f.cmds }
def modCmd (id : Nat) (g : Cmd → Cmd) (s : State) : State := { s with fe := s.fe.modCmd id g }
/-- An effect of the command with this number, when it is in the phase. -/
def withCmd (id : Nat) (p : Cmd → Bool) (s : State) (f : Cmd → State) : State :=
  match s.fe.cmd id with
  | some c => if p c then f c else s
  | none => s

/-- The command's status is decided; its record is ready to be issued. A record already ready stands; a failure met on the way
is the status unless the end gives another (R121, R224). -/
def Cmd.finish (c : Cmd) (st : Byte) : Cmd :=
  if c.phase = .ready then c else { c with phase := .ready, status := if st = 0 then c.status else st, work := .none }
def readyCmd (id : Nat) (st : Byte) (s : State) : State := modCmd id (fun c => c.finish st) s

/-- A report whose record's SEQ is the DETAIL of the command it ends (R432). -/
def detectFor (id buf : Nat) (r : Report) (s : State) : State :=
  modCmd id (fun c => { c with waitsReport := true, repOf := id }) (detect buf { r with owner := some id } s)

def cmdBuf (c : Cmd) : Nat := c.home.getD 8

/-- Frees the streams of a launch (R194). -/
def freeStreams (l : Nat) (m : FMap Stream) : FMap Stream := m.filter fun e => e.2.launch ≠ some l
/-- Drops a launch's counters, buffered stores and requests from a core, and what was returned to it. -/
def Core.dropLaunch (c : Core) (l : Nat) : Core :=
  { c with
      land := c.land.filter (fun e => e.1 ≠ l), tok := c.tok.filter (fun e => e.1 / 8 ≠ l),
      mc := c.mc.filter (fun e => e.1 / 8 ≠ l), sb := c.sb.filter (fun e => e.launch ≠ l),
      miss := c.miss.filter (fun e => e.launch ≠ l), ret := [] }

/-- Reads on their way for requesters without a copy are no longer waited for; who still needs one asks again. -/
def dropWants (c : Caches) : Caches := { c with want := [], got := [] }

/-- The transfers that name an attached work item write no more once the item has ended; their mover counters advance as if they were
complete (R250; DESIGN CHOICE, log 13). -/
def endTouts (l tag : Nat) (m : Mover) : Mover :=
  let hit (x : Xfer) : Bool := x.tag = some tag && !x.isOver && match x.owner with
    | .simt y _ _ _ _ _ => y = l
    | _ => false
  { m with xfers := mapWhere hit (fun x => { x with isOver := true, rows := [], cursor := tdRows x.desc }) m.xfers }

/-- A launch ends (R224): groups stop, streams and transfers end, allocations are freed; its command and its work items end
with the status, and the writes of theirs that have not left are discarded (R249, R250). -/
def endLaunch (l : Nat) (st : Byte) (s : State) : State :=
  match s.simt.launches.find? fun x => x.id = l with
  | none => s
  | some x =>
    let f (e : Nat × Core) : Option (Nat × Core) := if e.2.dropLaunch l = {} then none else some (e.1, e.2.dropLaunch l)
    let simt := { s.simt with
      launches := s.simt.launches.filter fun y => y.id ≠ l
      streams := freeStreams l s.simt.streams
      cores := s.simt.cores.filterMap f }
    let s := { s with
      simt := simt
      mov := { s.mov with xfers := s.mov.xfers.filter fun t => match t.owner with
        | .simt y _ _ _ _ _ => y ≠ l
        | _ => true }
      dc := dropWants s.dc }
    let s := if st = 0 then s else (x.cmd :: x.items.map Item.cmd).foldl (fun s id => dropWrites id s) s
    let s := x.items.foldl (fun s i => readyCmd i.cmd st s) s
    readyCmd x.cmd st s

def inFlight (f : FrontEnd) (p : Nat) : Nat :=
  (f.cmds.filter fun c => c.home = some p && c.phase ≠ .checked && !(c.phase = .ready && c.status = 1)).length
/-- Home partition of R27, from the context's mask without partitions in reset: fewest commands in flight, lowest number
(DESIGN CHOICE, log 17). -/
def chooseHome (s : State) (mask : Nat) : Option Nat :=
  ((List.range 8).filter fun p => mask.testBit p && !partInReset s p).foldl (fun m p => match m with
    | none => some p
    | some q => if inFlight s.fe p < inFlight s.fe q then some p else some q) none

/-- Release is in force (R243): the flag, or result bytes in a release-through region. -/
def releaseInForce (s : State) (c : Cmd) : Bool :=
  hdrRelease c.bytes || s.dc.slices.any fun e => e.2.lines.any fun l => l.tag = some c.id && policyAt s.rat.com (l.line * 128) = 3

/-- The points that a record waits for, once the release writes have been sent (R243, R31). The record of a command that a reset, the
watchdog or a fault ended waits until every result write has been applied or discarded (R250). DEDUCED, log 19. -/
def recordMayIssue (s : State) (c : Cmd) : Bool :=
  !c.waitsReport && (if releaseInForce s c then !writesOut s c.id && !taggedOut s c.id
    else if c.status = 0x20 || c.status = 0x21 || c.status = 0x22 then !writesOut s c.id else !writesUnissued s c.id)

/-- The command has not ended: it works, or its record is not yet ready to be issued (R359). -/
def unfinished (s : State) (c : Cmd) : Bool := c.phase ≠ .ready || (c.status = 0 && !recordMayIssue s c)

/-- The promotions of a CASTLE's warm phase that are not made yet are made no more once it has ended (R152). -/
def dropWarm (p : Nat → Bool) (m : Migration) : Migration :=
  { m with
    waiting := m.waiting.filter fun x => !x.cmd.any p
    fwd := m.fwd.filter fun f => !(f.st = .copying && f.cmd.any p) }

/-- Ends a command's work and then the command, by reset, watchdog or resignation. A batch that a COMMIT closed still
commits (R141); the tables a CASTLE switched stay switched (R152). A command still waiting at admission gets its home with its record
(R27); with every partition of its mask in reset, the lowest partition of the mask (DESIGN CHOICE, log 17). -/
def endCommand (id : Nat) (st : Byte) (s : State) : State :=
  match s.fe.cmd id with
  | none => s
  | some c =>
    if !unfinished s c then s
    else if c.phase = .ready then modCmd id (fun c => { c with status := st }) (dropWrites id s)
    else
      let s := match c.work with
        | .launch l => endLaunch l (((s.simt.launches.find? fun (x : Launch) => x.id = l).bind Launch.ending).getD st) s
        | .item l tag =>
          let f (x : Launch) : Launch := { x with items := x.items.filter fun i => i.tag ≠ tag }
          { s with simt := { s.simt with launches := mapWhere (fun x => decide (x.id = l)) f s.simt.launches }, mov := endTouts l tag s.mov }
        | .move x => { s with mov := { s.mov with xfers := s.mov.xfers.filter fun t => t.id ≠ x } }
        | .castle _ _ => { s with mig := dropWarm (fun i => i = id) s.mig }
        | _ => s
      let s := dropWrites id { s with dc := dropWants s.dc }
      let home := match c.home with
        | some p => some p
        | none => some ((chooseHome s (s.fe.ctxOf c.ctx).pmask).getD (nthSet (s.fe.ctxOf c.ctx).pmask 0))
      modCmd id (fun c => { c.finish st with home := home, tAdmit := if c.phase = .checked then s.devtime else c.tAdmit }) s

/-- Ends every command at which `p` holds. -/
def endCommands (p : Cmd → Bool) (st : Byte) (s : State) : State :=
  ((s.fe.cmds.filter p).map Cmd.id).foldl (fun s id => endCommand id st s) s

/-- Commands discarded without records (R352). -/
def discardCommands (s : State) : State :=
  { s with
    fe := { s.fe with cmds := [], tags := [], ring := [] }
    simt := { s.simt with
      launches := [], streams := []
      cores := s.simt.cores.filterMap fun e =>
        let c : Core := { e.2 with land := [], tok := [], mc := [], sb := [], miss := [], ret := [] }
        if c = {} then none else some (e.1, c) }
    mov := { s.mov with xfers := [] }
    dc := dropWants s.dc
    mig := dropWarm (fun _ => true) s.mig }

/-! ## Positions of a gather (R95, R102, R105, R107) -/

def Cmd.table (c : Cmd) (t : Nat) : TblDesc := fget {} c.tables t

/-- A context of table group `tgroup` may read a table (R91). -/
def mayRead (tgroup ctx : Nat) (d : TblDesc) : Bool := d.valid && (d.owner = ctx || (d.group ≠ 0 && d.group = tgroup))

/-- The table group of a command's context, as of its admission (R332). -/
def Cmd.tgroup (c : Cmd) : Nat := fld c.cfg 15 0

def mkPos (bag t : Nat) (d : TblDesc) (ix aux : Nat) : Pos :=
  { bag := bag, ix := ix, aux := aux, table := t, part := (shardHome t d.shards ix).1, dflt := d.rows ≤ ix }

/-- Lengths of the bags of an in-line command (R102, R103). -/
def inlineLens (b : Bytes) : List Nat :=
  if hdrSlots b = 1 then List.replicate (gpBags b) 0 else (List.range (gpBags b)).map fun i => num b (0x40 + i) 1

/-- Bag number of each position, from the lengths. -/
def bagOf (lens : List Nat) : List Nat := (lens.zip (List.range lens.length)).flatMap fun (n, i) => List.replicate n i

def inlinePos (c : Cmd) : List Pos :=
  let b := c.bytes
  let lens := inlineLens b
  let bags := bagOf lens
  let n := bags.length
  let w := gpIdxW b
  let i0 := 0x40 + lens.length
  let t := gpTable b
  (bags.zip (List.range n)).map fun (bag, i) =>
    mkPos bag t (c.table t) ((gpSrc b % 2 ^ 40 + num b (i0 + i * w) w) % 2 ^ 40)
      (if gpAux b = 2 then num b (i0 + n * w + 2 * i) 2 else 0)

/-- Where the AUX values of an array at address `a` lie, from its start: at the first 8-B boundary after its indices (R105). -/
def auxOff (a n w : Nat) : Nat := (a + n * w + 7) / 8 * 8 - a

/-- Positions of an index array at address `a` with its AUX values (R105). -/
def arrayPos (b : Bytes) (bag t : Nat) (d : TblDesc) (a n : Nat) (arr : Bytes) : List Pos :=
  let w := gpIdxW b
  let aux := auxOff a n w
  (List.range n).map fun i =>
    mkPos bag t d (num arr (i * w) w) (if gpAux b = 2 then num arr (aux + 2 * i) 2 else 0)

/-- Positions of a SEQ_POOL with RANGE = 1 (R107). -/
def rangePos (b : Bytes) (t : Nat) (d : TblDesc) : List Pos :=
  (List.range (spCount b)).map fun i =>
    mkPos 0 t d ((gpSrc b % 2 ^ 40 + i) % 2 ^ 40) (if gpMode b = 4 then spCount b - 1 - i else 0)

/-! ## Prediction (R354). Needs are held in units of 1/840 so that COUNT / n is exact for n up to 8. -/

def spread (mask total : Nat) : List (Nat × Nat) :=
  ((List.range 8).filter fun p => mask.testBit p).map fun p => (p, 840 * total / popcount8 mask)

/-- Needs of a command: resource (0 to 7 GATH, 8 to 15 COMP, 16 XFER) and amount. -/
def needs (f : FrontEnd) (c : Cmd) (home : Nat) : List (Nat × Nat) :=
  let b := c.bytes
  let q := f.sqOf c.sq
  match c.op with
  | .gatherPool =>
    if hdrForm b then spread (c.table (gpTable b)).shards (if hdrCost b = 0 then q.estGather else hdrCost b)
    else (List.range 8).map fun p => (p, 840 * ((inlinePos c).filter fun x => x.part = p).length)
  | .seqPool => spread (c.table (gpTable b)).shards (spCount b)
  | .launch =>
    let p := if lnCluster b < 64 && !lnAttach b then lnCluster b / 8 else home
    [(8 + p, 840 * (if hdrCost b = 0 then q.estLaunch else 40 * hdrCost b))]
  | .move => [(16, 840 * (if hdrCost b = 0 then q.estMove else 40 * hdrCost b))]
  | _ => []

/-- Positions of a command pooled in partition r. -/
def pooledIn (c : Cmd) (r : Nat) : Nat :=
  match c.work with
  | .gather g => (g.pos.filter fun x => x.done && x.part = r).length
  | _ => 0

/-- Remaining need of a command at a resource. -/
def remaining (f : FrontEnd) (c : Cmd) (r : Nat) : Nat :=
  let n := ((needs f c (c.home.getD 0)).filter fun x => x.1 = r).foldl (fun a x => a + x.2) 0
  n - 840 * pooledIn c r

/-- Remaining needs at r of the admitted, uncompleted commands of a context. What is pooled needs no gather engine any more; a launch or
a move counts until its completion; a resigned command does not (R354, R355). -/
def backlog (f : FrontEnd) (k r : Nat) : Nat :=
  let counts (c : Cmd) : Bool := c.ctx = k && c.nAdmit ≠ 0 && (c.phase ≠ .ready || (8 ≤ r && c.status ≠ 1 && c.status ≠ 2))
  ((f.cmds.filter counts).map fun c => remaining f c r).foldl (· + ·) 0

def capOf (f : FrontEnd) (c : Cmd) (r : Nat) : Nat × Nat :=
  if r < 8 then let g := fget {} f.caps r; (g.num, g.den)
  else if r < 16 then ((if lnCluster c.bytes < 64 && !lnAttach c.bytes then 1 else 8), 1)
  else (1, 1)

/-- Contexts with commands in flight. -/
def activeCtx (f : FrontEnd) : List Nat := (f.cmds.map Cmd.ctx).eraseDups

/-- Prediction P of R354 with A given, `self` the part of the context's own backlog that is the command's. -/
def predict (s : State) (c : Cmd) (ns : List (Nat × Nat)) (self : Nat → Nat) : Nat :=
  let f := s.fe
  let w := (f.ctxOf c.ctx).weight
  let worst := ns.foldl (fun m (r, n) =>
    if n = 0 then m
    else
      let W := (activeCtx f).foldl (fun a k => if k ≠ c.ctx && 0 < backlog f k r then a + (f.ctxOf k).weight else a) w
      let (cn, cd) := capOf f c r
      let den := 840 * cn * w
      max m (((backlog f c.ctx r - self r + n) * W * cd + den - 1) / den)) 0
  s.devtime.toNat + 40 * fld (rget s 0xC3008) 7 0 + worst

/-! ## Completion records (R351, R362) -/

def le64 (v : W64) : Bytes := leBytes 8 v.toNat

/-- FLAGS.LATE (R351). -/
def Cmd.isLate (c : Cmd) (done : W64) : Bool := hdrDeadline c.bytes ≠ 0 && hdrDeadline c.bytes < done.toNat

/-- The 192 bytes of a record. -/
def recordBytes (c : Cmd) (phase : Bool) (done : W64) : Bytes :=
  [c.status, BitVec.ofNat 8 ((if phase then 1 else 0) + (if c.isLate done then 2 else 0)),
   (match c.home with
    | some p => BitVec.ofNat 8 p
    | none => 0x80#8), c.opcode]
  ++ slice c.bytes 4 4 ++ leBytes 2 c.sq ++ leBytes 2 c.sqHead ++ leBytes 2 (min 0xFFFF c.defaults)
  ++ leBytes 2 (min 0xFFFF c.yields) ++ le64 c.tRecv ++ le64 c.tAdmit ++ le64 done ++ le64 c.pred
  ++ leBytes 4 (if c.status = 0x20 || c.status = 0x22 then c.detail.toNat else 0) ++ leBytes 4 (min 0xFFFFFFFF c.rows)
  ++ List.replicate 8 0
  ++ (List.range 40).flatMap (fun i => leBytes 2 (if c.status = 1 || c.status = 2 then 0 else fget 0 c.hist i))
  ++ List.replicate 48 0

/-- Index of the latency histogram (R362). -/
def latIndex (st : Byte) (l : Nat) : Nat :=
  if st = 0 then
    if l < 256 then 0
    else if 2 ^ 31 ≤ l then 47
    else let e := Nat.log2 l; 2 * (e - 8) + l / 2 ^ (e - 1) % 2 + 1
  else if st = 1 then 48 else if st = 2 then 49 else 51

def latCount (f : FMap Nat) (g i : Nat) : FMap Nat := fmod 0 f (64 * g + i) fun n => sat31 n 1

/-- Counts of a completed command: latency set, running estimates (R354), telemetry (R424). -/
def countDone (c : Cmd) (done : W64) (s : State) : State :=
  let q := s.fe.sqOf c.sq
  let lat := latCount s.fe.lat q.lgrp (latIndex c.status (since done c.tRecv))
  let lat := if c.status = 0 && c.isLate done then latCount lat q.lgrp 50 else lat
  let upd (e m : Nat) : Nat := (Int.toNat ((e : Int) + ((m : Int) - e) / 16))
  let dur := since done c.tAdmit
  let q' : Sq := if c.status ≠ 0 || !q.en then q else match c.op with
    | .gatherPool | .seqPool => { q with estGather := upd q.estGather c.rows }
    | .launch => { q with estLaunch := upd q.estLaunch (dur * max 1 c.clusters.length) }
    | .move => { q with estMove := upd q.estMove dur }
    | _ => q
  let t := s.rook.counts
  let t := if c.status = 0 then { t with ok := t.ok + 1 }
    else if c.status.toNat < 0x10 then { t with resigned := t.resigned + 1 } else { t with failed := t.failed + 1 }
  { s with fe := { s.fe with lat := lat, sq := fset {} s.fe.sq c.sq q' }, rook := { s.rook with counts := t } }

/-- The command counts as completed: its record has been issued or discarded (R350). -/
def retire (c : Cmd) (s : State) : State :=
  { countDone c s.devtime s with fe := { (countDone c s.devtime s).fe with
      cmds := (countDone c s.devtime s).fe.cmds.filter fun x => x.id ≠ c.id } }

/-! ## Arbiters between contexts (R357). DESIGN CHOICE, log 17. -/

/-- The arbiters of R357: the front end, the gather engines and the team placement of a partition, the tensor mover of a core, the
rows of the MOVE sequencers of a partition, and the sequencers of a kind. -/
inductive Arb where
  | front
  | gather (part : Nat)
  | team (part : Nat)
  | rows (part : Nat)
  | seq (op : Op) (part : Nat)
  | mover (core : Nat)

def Arb.num : Arb → Nat
  | .front => 0
  | .gather p => 1 + p
  | .team p => 9 + p
  | .rows p => 17 + p
  | .seq op p => 25 + p + 8 * (if op = .castle then 2 else if op = .move then 1 else 0)
  | .mover c => 49 + c

def arbKey (a : Arb) (ctx : Nat) : Nat := 4096 * a.num + ctx

/-- What the arbiter owes a context: the longest shortfall of its grants against its share over any interval that ends now. -/
def FrontEnd.owedAt (f : FrontEnd) (a : Arb) (ctx : Nat) : Nat := fget 0 f.owed (arbKey a ctx)

/-- Contexts of requests (context, SQ), and the sum of their weights. -/
def reqCtxs (reqs : List (Nat × Nat)) : List Nat := (reqs.map Prod.fst).eraseDups
def FrontEnd.weightSum (f : FrontEnd) (reqs : List (Nat × Nat)) : Nat :=
  (reqCtxs reqs).foldl (fun n c => n + (f.ctxOf c).weight) 0

/-- A grant to another would leave the context more than one grant short of its share. -/
def FrontEnd.isDue (f : FrontEnd) (a : Arb) (reqs : List (Nat × Nat)) (ctx : Nat) : Bool :=
  f.weightSum reqs < f.owedAt a ctx + (f.ctxOf ctx).weight

/-- How long an SQ waits for its turn among its context's, counted from the one served last. -/
def FrontEnd.sqDist (f : FrontEnd) (a : Arb) (ctx sq : Nat) : Nat :=
  (sq + 16383 - fget 16383 f.turn (arbKey a ctx)) % 16384

/-- Whether the arbiter may serve the request: no other context is due, or its own is too; and its SQ is the next in turn of those of
its context. -/
def FrontEnd.mayServe (f : FrontEnd) (a : Arb) (reqs : List (Nat × Nat)) (r : Nat × Nat) : Bool :=
  (f.isDue a reqs r.1 || (reqCtxs reqs).all fun c => !f.isDue a reqs c)
    && reqs.all fun x => x.1 ≠ r.1 || f.sqDist a r.1 r.2 ≤ f.sqDist a r.1 x.2

/-- `n` grants to the request: each context with requests is owed its share of them, and the served one has had them. -/
def FrontEnd.serve (f : FrontEnd) (a : Arb) (reqs : List (Nat × Nat)) (r : Nat × Nat) (n : Nat) : FrontEnd :=
  { f with
    owed := (reqCtxs reqs).foldl (fun m c => fset 0 m (arbKey a c)
        (f.owedAt a c + n * (f.ctxOf c).weight - (if c = r.1 then n * f.weightSum reqs else 0)))
      (f.owed.filter fun e => e.1 / 4096 ≠ a.num)
    turn := fset 16383 f.turn (arbKey a r.1) r.2 }

/-! ## Sequencers (R360) -/

/-- Kind of a sequencer and the partition that has it; castling sequencers are the block's. -/
def seqKind (c : Cmd) : Op × Nat := (c.op, if c.op = .castle then 0 else c.home.getD 0)
def seqCount (op : Op) : Nat := if op = .castle then 4 else 2
def seqHeld (f : FrontEnd) (k : Op × Nat) : Nat := (f.cmds.filter fun c => c.phase = .running && seqKind c = k).length
def seqWaiters (f : FrontEnd) (k : Op × Nat) : List Cmd :=
  f.cmds.filter fun c => (c.phase = .waitSeq || c.phase = .yielded) && seqKind c = k

/-- Context a is entitled before b (R357): the arbiter owes it more. -/
def entitled (f : FrontEnd) (k : Op × Nat) (a b : Nat) : Bool :=
  f.owedAt (.seq k.1 k.2) b + (f.ctxOf b).weight < f.owedAt (.seq k.1 k.2) a + (f.ctxOf a).weight

/-- The waiting command that the arbiter serves: of the context that is owed most; of one context the SQ whose turn it is; else the
one that has yielded least, then the oldest, so that commands of one SQ take it in turn (R360). DESIGN CHOICE, log 17. -/
def bestWaiter (f : FrontEnd) (k : Op × Nat) : Option Cmd :=
  (seqWaiters f k).foldl (fun m c => match m with
    | none => some c
    | some d =>
      if entitled f k c.ctx d.ctx then some c
      else if entitled f k d.ctx c.ctx then some d
      else if c.ctx = d.ctx && c.sq ≠ d.sq then
        (if f.sqDist (.seq k.1 k.2) c.ctx c.sq < f.sqDist (.seq k.1 k.2) d.ctx d.sq then some c else some d)
      else if c.yields < d.yields then some c else some d) none

/-- A stride is granted to a command, of those that wait and the one that has run. -/
def grantStride (c : Cmd) (f : FrontEnd) : FrontEnd :=
  f.serve (.seq (seqKind c).1 (seqKind c).2)
    ((f.cmds.filter fun d => (d.phase = .waitSeq || d.phase = .yielded || d.id = c.id) && seqKind d = seqKind c).map fun d => (d.ctx, d.sq))
    (c.ctx, c.sq) 1

end Sys2Proof.Machine
end

