-- ==== Sys2Proof/Machine/Updates.lean ====
section
/-! DEFINITION. Update windows and placement regions (R123 to R146): batches, staging, the commit of a row, digests (R162,
R163), and the commands of these families. -/

namespace Sys2Proof.Machine

def tableOf (s : State) (t : Nat) : TblDesc := fget {} s.tbl.desc t

/-! ## Conditions on a descriptor (R89) -/

/-- The first six conditions of R89. -/
def descBad (rat : FMap RatEnt) (d : TblDesc) : Bool :=
  let n := (d.rows + 1) * d.stride
  !([0, 1, 3, 4, 5].contains d.fmt)
  || 8 < d.escK || (d.escK ≠ 0 && d.fmt ≠ 4)
  || d.dim = 0 || d.stride = 0 || 2048 < d.stride || d.stride < d.size
  || d.rows = 0 || 2 ^ 34 < d.rows
  || d.shards = 0
  || !(rangeInTable rat (d.side 0) n && rangeInTable rat (d.side 1) n)

/-- The apply of a window or region setting is refused (R127). -/
def setBad (s : State) (w : WinSet) : Bool :=
  let d := tableOf s w.table
  w.en && (descBad s.rat.com d || d.rows < w.row || w.sstride = 0 || 2048 < w.sstride
    || (!w.conv && (w.sstride ≠ d.stride || w.sfmt ≠ 0))
    || (w.conv && (!isBinary w.sfmt || w.sstride < d.dim * elemSize w.sfmt || 2048 < d.dim * elemSize w.sfmt)))

/-! ## Digests (R162, R163) -/

def rowHash (t r : Nat) (b : Bytes) : W64 :=
  (List.range ((b.length + 7) / 8)).foldl (fun (h : W64) i =>
    let h := (h ^^^ BitVec.ofNat 64 (num b (8 * i) 8)) * 0x9E3779B97F4A7C15#64
    h ^^^ (h >>> 31)) (0x6A09E667F3BCC908#64 ^^^ BitVec.ofNat 64 (t * 2 ^ 36) ^^^ BitVec.ofNat 64 r)

def digKey (t side : Nat) : Nat := 2 * t + side

/-- Effect of a row's new bytes on its side's digest (R163). -/
def Digest.commit (d : Digest) (t r : Nat) (old new : Bytes) : Digest :=
  if d.st = .ok || (d.st = .scanning && r < d.cursor) then { d with val := d.val + rowHash t r new - rowHash t r old } else d

/-! ## Batches (R133) -/

def UpdateUnit.target (u : UpdateUnit) (t : Nat) : Target := fget {} u.tgt t
def UpdateUnit.set (u : UpdateUnit) (t : Nat) : WinSet :=
  if t < 16 then (fget {} u.win t).com.set else (fget {} u.plc (t - 16)).set

/-- Batches done, advanced over closed batches with no row left (R133). -/
def advanceDone (st : List StagedRow) (t : Nat) : Nat → Target → Target
  | 0, g => g
  | n + 1, g =>
    if g.doneNo < g.openNo && !st.any (fun r => r.tgt = t && r.batch = g.doneNo) then
      advanceDone st t n { g with doneNo := g.doneNo + 1 }
    else g
def UpdateUnit.settle (u : UpdateUnit) (t : Nat) : UpdateUnit :=
  let g := u.target t
  { u with tgt := fset {} u.tgt t (advanceDone u.staging t (g.openNo - g.doneNo) g) }

/-- Hand entries over to the commit port, in staging order (R134, R137). -/
def handOver (p : StagedRow → Bool) (closer : Option Nat) : Nat → List StagedRow → Nat × List StagedRow
  | k, [] => (k, [])
  | k, r :: l =>
    if p r then
      let x := handOver p closer (k + 1) l
      (x.1, { r with ticket := some k, closer := closer } :: x.2)
    else
      let x := handOver p closer k l
      (x.1, r :: x.2)

/-- Every row handed over now begins to wait at its commit port (R38). -/
def UpdateUnit.stamp (u was : UpdateUnit) (now : W64) : UpdateUnit :=
  { u with staging := mapWhere (fun r => decide (was.ticket ≤ r.ticket.getD 0) && r.ticket.isSome) (fun r => { r with at_ := now }) u.staging }

/-- Close the open batch of a target (R133). -/
def UpdateUnit.close (u : UpdateUnit) (t : Nat) (closer : Option Nat) : UpdateUnit :=
  let g := u.target t
  let st := u.staging.map fun r => if r.tgt = t && r.batch = g.openNo then { r with closer := closer } else r
  let h := handOver (fun r => r.tgt = t && r.batch = g.openNo && r.ticket = none) closer u.ticket st
  let g' : Target := { g with openNo := g.openNo + 1, rows := [] }
  ({ u with ticket := h.1, staging := h.2, tgt := fset {} u.tgt t g' } : UpdateUnit).settle t

/-- Commands that wait for the batches of a target (R141) complete once those are done. -/
def settleCommits (s : State) : State :=
  let ready := s.fe.cmds.filter fun c => match c.work with
    | .commit t n => c.phase ≠ .ready && n ≤ (s.upd.target t).doneNo
    | _ => false
  ready.foldl (fun s c => readyCmd c.id 0 s) s

def closeTarget (t : Nat) (closer : Option Nat) (s : State) : State :=
  settleCommits { s with upd := (s.upd.close t closer).stamp s.upd s.devtime }

/-! ## Staging (R132, R134, R146) -/

/-- Replace bytes at their offsets, later ones winning (R132). -/
def overlay (old new : List (Nat × Byte)) : List (Nat × Byte) :=
  (old.filter fun b => !new.any fun c => c.1 = b.1) ++ new

def sliceLoad (u : UpdateUnit) (k : Nat) : Nat := (u.staging.filter fun r => r.slice = k).length

/-- Close a placement row on its own once it is complete (R146). -/
def UpdateUnit.trig (u : UpdateUnit) (t row span : Nat) : UpdateUnit :=
  let g := u.target t
  match u.staging.find? fun r => r.tgt = t && r.batch = g.openNo && r.row = row && r.ticket = none with
  | none => u
  | some r =>
    if (List.range span).all fun i => r.bytes.any fun b => b.1 = i then
      let st := u.staging.map fun x =>
        if x.tgt = t && x.batch = g.openNo then
          (if x.row = row && x.ticket = none then { x with ticket := some u.ticket } else { x with batch := g.openNo + 1 })
        else x
      let g' : Target := { g with openNo := g.openNo + 1, rows := g.rows.filter (· ≠ row) }
      ({ u with staging := st, ticket := u.ticket + 1, tgt := fset {} u.tgt t g' } : UpdateUnit).settle t
    else u

/-- Bytes of a row that the writes of one row may fill: S in raw mode, DIM × ES in convert mode (R128). -/
def rowSpan (d : TblDesc) (w : WinSet) : Nat := if w.conv then d.dim * elemSize w.sfmt else d.size

/-- The result of staging one part: the new unit, whether the part must wait, whether a row was committed early. -/
structure StageOut where
  u : UpdateUnit
  wait : Bool
  early : Bool

/-- Stages a part, with an early commit where its slice has no entry free (R132, R134). A row committed early and staged again in its
batch takes its place among the rows staged first by its new entry (DESIGN CHOICE, log 47). -/
def UpdateUnit.stage (u : UpdateUnit) (d : TblDesc) (w : WinSet) (p : RowPart) : StageOut :=
  let k := (shardHome w.table d.shards p.row).2
  let g := u.target p.tgt
  let u := if g.rows.length = 2048 && !g.rows.contains p.row then u.close p.tgt none else u
  let g := u.target p.tgt
  let isIt (r : StagedRow) : Bool := r.tgt = p.tgt && r.batch = g.openNo && r.row = p.row && r.ticket = none
  if u.staging.any isIt then
    .mk { u with staging := mapWhere isIt (fun r => { r with bytes := overlay r.bytes p.bytes }) u.staging } false false
  else if sliceLoad u k < 128 then
    let r : StagedRow :=
      { tgt := p.tgt, batch := g.openNo, slice := k, table := w.table, side := w.side, row := p.row,
        desc := d, conv := if w.conv then some w.sfmt else none, bytes := p.bytes, ticket := none, closer := none }
    let g' : Target := { g with rows := if g.rows.contains p.row then g.rows else p.row :: g.rows }
    .mk { u with staging := u.staging ++ [r], tgt := fset {} u.tgt p.tgt g' } false false
  else
    match if p.early then none else u.staging.find? fun r => r.slice = k && r.ticket = none with
    | none => .mk u true false
    | some e =>
      .mk { u with
          staging := u.staging.map fun r => if r = e then { r with ticket := some u.ticket } else r
          ticket := u.ticket + 1 } true true

/-- Stage one row's part of a write, or hold it at the flit port before the parts in `behind` (R134). -/
def stagePart (p : RowPart) (behind : List RowPart) (s : State) : State :=
  let w := s.upd.set p.tgt
  let d := tableOf s w.table
  let r := s.upd.stage d w p
  let s := { s with upd := r.u.stamp s.upd s.devtime }
  let s := if r.early then rcount 0x80400 1 s else s
  let s := if r.wait then { s with upd := { s.upd with held := s.upd.held ++ { p with early := p.early || r.early } :: behind } }
    else
      let s := { s with upd := { s.upd with held := s.upd.held ++ behind } }
       if w.trig && 16 ≤ p.tgt then { s with upd := (s.upd.trig p.tgt p.row (rowSpan d w)).stamp s.upd s.devtime } else s
  settleCommits s

/-- Whether a part waits behind parts held for the same row, or needs an entry while parts are held. DESIGN CHOICE, log 43. -/
def mustQueue (s : State) (p : RowPart) : Bool :=
  s.upd.held ≠ [] && (s.upd.held.any (fun h => h.tgt = p.tgt && h.row = p.row)
    || !s.upd.staging.any fun r => r.tgt = p.tgt && r.batch = (s.upd.target p.tgt).openNo && r.row = p.row && r.ticket = none)

/-- The rows that a write of masked bytes at a window or region offset touches, with the bytes of each row (R128, R129);
bytes outside the row span are discarded without count. -/
def writeParts (t : Nat) (w : WinSet) (d : TblDesc) (off : Nat) (data : Masked) : List RowPart :=
  let bs := placedMasked off data
  let rows := (bs.map fun b => w.row + b.1 / w.sstride).eraseDups
  rows.map fun r => { tgt := t, row := r, bytes := (bs.filter fun b => w.row + b.1 / w.sstride = r
    && b.1 % w.sstride < rowSpan d w).map fun b => (b.1 % w.sstride, b.2) }

/-- A part that maps to a row above ROWS is dropped, counted and recorded (R129). -/
def acceptPart (info : Nat → Nat) (p : RowPart) (s : State) : State :=
  let d := tableOf s (s.upd.set p.tgt).table
  if d.rows < p.row then detect 8 (report 0x21 none locFront none (info p.row)) (rcount 0x80408 1 s)
  else if p.bytes = [] then s
  else if mustQueue s p then { s with upd := { s.upd with held := s.upd.held ++ [p] } }
  else stagePart p [] s

/-- A posted write to a window or region that is enabled. -/
def targetWrite (t off : Nat) (data : Masked) (info : Nat → Nat) (s : State) : State :=
  let w := s.upd.set t
  (writeParts t w (tableOf s w.table) off data).foldl (fun s p => acceptPart info p s) s

/-! ## Row commit (R135 to R137) -/

/-- What a commit writes: the image below S, and the sectors that stay poisoned. -/
structure NewRow where
  img : Bytes
  bad : List Nat
  refused : Bool
  partials : Nat
  elems : List Elem
  flags : List Nat

/-- Byte offsets of poisoned sectors of a row as the slice sees it. -/
def rowBad (s : State) (k a n : Nat) : List Nat :=
  (List.range ((n + 31) / 32)).filter fun i => devPoison s k (a + 32 * i) 1

/-- Raw mode: staged bytes replace the current ones; a poisoned sector stays so unless the staged bytes cover it (R135). -/
def rawRow (size : Nat) (cur : Bytes) (bad : List Nat) (bytes : List (Nat × Byte)) : NewRow :=
  let at_ (i : Nat) : Option Byte := (bytes.find? fun b => b.1 = i).map Prod.snd
  { img := (List.range size).map fun i => (at_ i).getD (cur.getD i 0)
    bad := bad.filter fun k => !((List.range 32).all fun i => size ≤ 32 * k + i || (at_ (32 * k + i)).isSome)
    refused := false, partials := 0, elems := [], flags := [] }

/-- Offsets in the row of the bytes that element j's value comes from: header, its delta, its code (R92). An IB2T escape takes
its code from the sidecar byte of its place among the block's escapes (R45). -/
def elemBytes (f k dim j : Nat) (row : Bytes) : List (Nat × Nat) :=
  let nb := (dim + 31) / 32
  let b := j / 32
  let base := 8 + rowX nb
  [(0, 1), (if b < 8 then 4 + b / 2 else 8 + (b - 8) / 2, 1)] ++
  (if f = 5 then [(base + j, 1), (base + 32 * nb + j, 1)]
   else if f = 4 then
    let blk := slice row (base + 8 * b) 8
    let esc (i : Nat) : Bool := rawElem 4 blk i = 2
    (base + j / 4, 1) :: (if esc (j % 32) then [(base + 8 * nb + b * k + ((List.range (j % 32)).filter esc).length, 1)] else [])
   else [(base + b * blockBytes f + j % 32 * fmtBits f / 8, (fmtBits f + 7) / 8)])

/-- Convert mode: the whole row is quantised from the current values with the staged elements in place (R132, R135). -/
def convRow (d : TblDesc) (sfmt : Nat) (cur : Bytes) (bad : List Nat) (bytes : List (Nat × Byte)) : NewRow :=
  let es := elemSize sfmt
  let f := d.fmt
  let at_ (i : Nat) : Option Byte := (bytes.find? fun b => b.1 = i).map Prod.snd
  let nOf (j : Nat) := ((List.range es).filter fun i => (at_ (es * j + i)).isSome).length
  let absent := rowAbsent cur && !bad.contains 0
  let vals := (rowCodes f d.escK d.dim cur).vals d.dim
  let old (j : Nat) : Val :=
    if absent then .zero
    else if (elemBytes f d.escK d.dim j cur).any fun (o, n) => (List.range n).any fun i => bad.contains ((o + i) / 32) then .nan
    else vals.getD j .zero
  let xs := (List.range d.dim).map fun j =>
    if nOf j = es then fpDecode sfmt (leNat ((List.range es).map fun i => (at_ (es * j + i)).getD 0)) else old j
  let c := convert f d.escK xs
  let fl := flagged d.pgThresh c.elems
  { img := rowImage f d.escK d.dim c, bad := [], refused := fl ≠ [] && d.pgAct = 3
    partials := ((List.range d.dim).filter fun j => nOf j ≠ 0 && nOf j ≠ es).length, elems := c.elems, flags := fl }

/-- Write a row image and its zero padding (R93) into the copy at address a through slice k, one line at a time. -/
def writeRow (k a stride : Nat) (img : Bytes) (bad : List Nat) (s : State) : State :=
  let bs := placed a (img ++ List.replicate (stride - img.length) 0)
  ((bs.map fun b => b.1 / 128).eraseDups).foldl (fun s line =>
    let mine := bs.filter fun b => b.1 / 128 = line
    let pz := secMask fun j => bad.any fun i => (a + 32 * i) / 32 = 4 * line + j
    let s := homeMerge k line .none none [] mine s
    if pz = 0 then s else poisonLine k line pz s) s

/-- A gather that has begun to read the row begins again, so that it reads one version whole (R33). -/
def restartReads (t side row : Nat) (f : FrontEnd) : FrontEnd :=
  { f with cmds := f.cmds.map fun c => match c.work with
      | .gather g =>
        let d := c.table t
        if d.cur ≠ side then c
        else { c with work := .gather { g with pos := g.pos.map fun x =>
          if x.table = t && !x.done && (if x.dflt then row = d.rows else x.ix = row) && 32 * x.got.length < d.size
          then { x with got := [], bad := false } else x } }
      | _ => c }

/-- Commit a new image of a row (R137, R159, R163), the bytes of R93 as zero whatever the source holds there. DEDUCED, log 42. -/
def commitImage (t side row : Nat) (d : TblDesc) (img : Bytes) (bad : List Nat) (s : State) : State :=
  let img := rowClean d.fmt d.escK d.dim img
  let k := (shardHome t d.shards row).2
  let s := { s with mig := { s.mig with fwd := s.mig.fwd.filter fun f => !(f.table = t && f.side = side && f.row = row && f.st = .copying) } }
  let (a, pool) := rowCopy s t d side row
  let old := devBytes s k a d.size
  let s := writeRow k a d.stride img bad s
  let mark (f : Fwd) : Fwd := { f with dirty := true }
  { s with
    mig := if pool then { s.mig with fwd := mapWhere (fun f => f.table = t && f.side = side && f.row = row) mark s.mig.fwd } else s.mig
    tbl := { s.tbl with dig := fmod {} s.tbl.dig (digKey t side) fun g => g.commit t row old img }
    fe := restartReads t side row s.fe
    rook := { s.rook with counts := { s.rook.counts with commits := s.rook.counts.commits + 1 } } }

/-- Records and counts of the precision guard (R81). The report names the context of a `MOVE`, no context for a staged row, and enters
the front end's intake buffer (DESIGN CHOICE, log 34). -/
def guardCounts (site t row act : Nat) (ctx : Option Nat) (flags : List Nat) (s : State) : State :=
  if flags = [] || act = 0 then s
  else
    let s := { s with mng := fmod {} s.mng site fun m => if m.freeze then m else { m with pgcnt := sat31 m.pgcnt flags.length } }
    if act = 1 then s
    else flags.foldl (fun s b => detect 8 (report 0x20 ctx (locSite site) none (row + b * 2 ^ 40 + t * 2 ^ 48)) s) s

/-- The row's turn at the commit port comes (R137): lowest ticket of the slice. -/
def nextCommit (u : UpdateUnit) (k : Nat) : Option StagedRow :=
  (u.staging.filter fun r => r.slice = k && r.ticket.isSome).foldl (fun m r => match m with
    | none => some r
    | some q => if r.ticket.getD 0 < q.ticket.getD 0 then some r else some q) none

/-- A row commit waits while the row is returning home (R159). -/
def returning (m : Migration) (t side row : Nat) : Bool :=
  match m.entry t side row with
  | some f => f.st = .returning
  | none => false

/-- Some line of a row's copy waits for a region attribute table (R266). -/
def rowWaits (s : State) (a n : Nat) : Bool := (rangeLines a n).any (ratWait s)

/-! ## Arbitration at a slice (R37 to R39). DESIGN CHOICE, log 46. -/

/-- A request for a line could be taken by its home now. -/
def lineOpen (s : State) (line : Nat) : Bool :=
  let sl := s.dc.slice (lineHome line)
  !ratWait s line && !sl.inTxn line && !sl.filling line
    && !(isHostLine line && (s.hif.d2h ++ s.hif.held).any fun r => r.pa / 128 = line - hostLine)

/-- A foreground request waits at slice k: a write of a requester without a copy, a request of an L1, the oldest store of a core. -/
def fgWaits (s : State) (k : Nat) : Bool :=
  let here (l : Nat) : Bool := lineHome l = k && lineOpen s l
  s.dc.writes.any (fun w => here w.line) || s.simt.cores.any fun e =>
    (e.2.miss.any fun m => here m.line) || (e.2.sb.find? fun x => x.level = .core).any fun x => here x.line && homeCan s x.line

/-- The row whose commit waits at the port of slice k. -/
def commitWaiting (s : State) (k : Nat) : Option StagedRow := (nextCommit s.upd k).filter fun r =>
  !s.flt.safe && !returning s.mig r.table r.side r.row && !rowWaits s (rowCopy s r.table r.desc r.side r.row).1 r.desc.size

/-- A row whose copy or whose return waits at the request pipeline of slice k. -/
def migWaiting (s : State) (k : Nat) : Option Fwd := s.mig.fwd.find? fun f =>
  f.st ≠ .forwarded && !s.flt.safe && (shardHome f.table (tableOf s f.table).shards f.row).2 = k

/-- Background work takes the slot: no foreground request waits, it is owed its share, or it has waited past its deadline. -/
def bgTurn (s : State) (k : Nat) (owed : Bool) (from_ : W64) (deadline : Nat) : Bool :=
  !fgWaits s k || owed || deadline < since s.devtime from_

/-- The next slot of slice k is owed to background work: 1 in 64 to migration, and of those that write 1 in 16 to commits. -/
def slotOwed (s : State) (k : Nat) (write : Bool) : Bool :=
  ((migWaiting s k).isSome && 63 ≤ (s.dc.slice k).gapMig) || (write && (commitWaiting s k).isSome && 15 ≤ (s.dc.slice k).gapCommit)

/-- A foreground request takes a slot of slice k. -/
def takeSlot (k : Nat) (write : Bool) (s : State) : State :=
  let gap (p : Bool) (n : Nat) : Nat := if p then n + 1 else 0
  let m := gap (migWaiting s k).isSome (s.dc.slice k).gapMig
  let c := if write then gap (commitWaiting s k).isSome (s.dc.slice k).gapCommit else (s.dc.slice k).gapCommit
  modSlice k (fun sl => { sl with gapMig := m, gapCommit := c }) s

/-- A foreground request at slice k: it waits while the slot is owed to background work. -/
def foreground (k : Nat) (write : Bool) (f : State → State) (s : State) : State :=
  if slotOwed s k write then s else f (takeSlot k write s)

/-- Some byte of a row's copy lies at an unpopulated address (R295). -/
def rowNowhere (s : State) (a n : Nat) : Bool :=
  (List.range ((a + n - 1) / 128 - a / 128 + 1)).any fun i => s.mem.window ((a / 128 + i) * 128) = .nowhere

/-- Record of a table path that reaches an unpopulated address (R295, R510). -/
def tableNowhere (k a t row : Nat) (s : State) : State :=
  detect (partOfSlice k) (report 0x16 none (locSlice k) (some a) (2 * 2 ^ 62 + row + t * 2 ^ 35)) s

/-- Commit of a staged row (R135, R136), under the threshold and the action that the table has now, at the commit (R81, R147; DESIGN
CHOICE, log 42). At an unpopulated address the current row reads as poison and nothing is written (R295). DESIGN CHOICE, log 16. -/
def commitStaged (k : Nat) (r : StagedRow) (s : State) : State :=
  let d := r.desc
  let (a, _) := rowCopy s r.table d r.side r.row
  let cur := devBytes s k a d.size
  let lost := rowNowhere s a d.size
  let bad := if lost then List.range ((d.size + 31) / 32) else rowBad s k a d.size
  let n := match r.conv with
    | none => rawRow d.size cur bad r.bytes
    | some f => convRow { d with pg := (tableOf s r.table).pg } f cur bad r.bytes
  let isOver := if r.conv.isSome then (rowCodes d.fmt d.escK d.dim cur).isOver else 0
  let s := { s with mng := fmod {} s.mng 9 fun m => m.add n.elems isOver }
  let s := rcount 0x80404 n.partials s
  let s := guardCounts 9 r.table r.row (tableOf s r.table).pgAct none n.flags s
  let s := if lost then tableNowhere k a r.table r.row s
    else if n.refused then rcount 0x8040C 1 s else commitImage r.table r.side r.row d n.img n.bad s
  settleCommits { s with upd := ({ s.upd with staging := dropFirst (fun x => decide (x = r)) s.upd.staging } : UpdateUnit).settle r.tgt }

/-! ## Meanings -/

/-- Fault record information of a write beyond ROWS (R510). -/
def info21 (t : Nat) (reqid : W16) (row : Nat) : Nat :=
  row + (if t < 16 then t * 2 ^ 36 else 2 ^ 35 + (t - 16) * 2 ^ 36) + reqid.toNat * 2 ^ 48

/-- UPAP_WRITE (R128, R129, R131). What lies above the windows discards it (R373). -/
def upapWriteE (off : Nat) (data : Masked) (s : State) : State :=
  let t := off / 2 ^ 20
  if !ctlReach s || s.flt.safe || 16 ≤ t then s
  else if quiesced s then rcount 0x80408 1 s
  else if !(s.upd.set t).en then rcount 0x80408 1 s
  else targetWrite t (off % 2 ^ 20) data (info21 t 0) s
def execUpapWrite (off : Nat) (data : Posted Masked) (s : State) := live .hif s (barWrite data (upapWriteE off))

/-- STAGING_WAIT_END (R134): the write held longest goes on when its slice has an entry free; where its slice never had one for it, a row
is committed early first. -/
def stagingWaitEndE (s : State) : State :=
  match s.upd.held with
  | [] => s
  | p :: rest => stagePart p rest { s with upd := { s.upd with held := [] } }
def execStagingWaitEnd (s : State) := live .hif s stagingWaitEndE

/-- One piece of a UPAP read within one row (R130): bytes [b, b + n) of the slot of row r. In convert mode site 9 counts each element of
which the piece returns a byte, and each block of the row read with too many escapes (R73, R46; DEDUCED, log 42). -/
def upapPiece (w : WinSet) (d : TblDesc) (off r b n : Nat) (s : State) : State :=
  if d.rows < r then emit (.readBytes 4 off (List.replicate n 0) false) s
  else
    let k := (shardHome w.table d.shards r).2
    let a := (rowCopy s w.table d w.side r).1
    let hit := (List.range n).filter fun i => b + i < rowSpan d w
    let row := devBytes s k a d.size
    let need : List (Nat × Nat) := if w.conv then (hit.map fun i => elemBytes d.fmt d.escK d.dim ((b + i) / elemSize w.sfmt) row).flatten
      else hit.map fun i => (b + i, 1)
    let vals := (rowCodes d.fmt d.escK d.dim row).vals d.dim
    let es := (hit.map fun i => (b + i) / elemSize w.sfmt).eraseDups.map fun j => vals.getD j .zero
    let s := if w.conv && hit ≠ [] then
        { s with mng := fmod {} s.mng 9 fun m => m.add (convert w.sfmt 8 es).elems (rowCodes d.fmt d.escK d.dim row).isOver }
      else s
    if need.any fun (o, m) => rowNowhere s (a + o) m then
      emit (.readBytes 4 off [] true) (tableNowhere k a w.table r s)
    else if need.any fun (o, m) => (List.range m).any fun i => devPoison s k (a + o + i) 1 then emit (.readBytes 4 off [] true) s
    else
      let src : Bytes := if w.conv then (vals.map fun v => (binCode w.sfmt v).1).flatMap (leBytes (elemSize w.sfmt)) else row
      emit (.readBytes 4 off ((List.range n).map fun i => if b + i < rowSpan d w then src.getD (b + i) 0 else 0) false) s

/-- UPAP_READ (R130, R131): pieces of up to 64 B, each within one row; a read of bytes whose region is changing
waits (R266). What lies above the windows returns zero (R373). -/
def upapReadE (off n : Nat) (s : State) : State :=
  let t := off / 2 ^ 20
  if !ctlReach s then emit .unsupported s
  else if 16 ≤ t then emit (.readBytes 4 off (List.replicate n 0) false) s
  else
    let w := s.upd.set t
    if !w.en then emit (.readBytes 4 off (List.replicate n 0) false) s
    else
      let d := tableOf s w.table
      let o := off % 2 ^ 20
      let rows := ((List.range n).map fun i => w.row + (o + i) / w.sstride).eraseDups
      if rows.any fun r => decide (r ≤ d.rows) && rowWaits s (rowCopy s w.table d w.side r).1 d.size then
        { s with upd := { s.upd with reads := s.upd.reads ++ [(off, n)] } }
      else
      let cuts := ((List.range n).filter fun i => i = 0 || (o + i) % 64 = 0 || (o + i) % w.sstride = 0)
      (cuts.zip (cuts.drop 1 ++ [n])).foldl (fun s (i, j) =>
        upapPiece w d (off + i) (w.row + (o + i) / w.sstride) ((o + i) % w.sstride) (j - i) s) s
def execUpapRead (off n : Nat) (s : State) := live .hif s (upapReadE off n)

/-- The reads that waited for a region attribute table are answered (R266). -/
def answerReads (s : State) : State :=
  s.upd.reads.foldl (fun s r => upapReadE r.1 r.2 s) { s with upd := { s.upd with reads := [] } }

/-- PLAP_WRITE (R142, R144, R146). -/
def plapWriteE (off : Nat) (reqid : W16) (data : Masked) (s : State) : State :=
  let n := off / 2 ^ 18
  if !ctlReach s || s.flt.safe || 1024 ≤ n then s
  else if quiesced s then rcount 0x80408 1 s
  else
    let r := fget {} s.upd.plc n
    let mask : W16 := (r.key >>> 16).setWidth 16
    let ok := (reqid &&& mask) = ((r.key.setWidth 16) &&& mask)
    if r.set.en && ok then targetWrite (16 + n) (off % 2 ^ 18) data (info21 (16 + n) reqid) s
    else
      let h : TlpHeader := { bar := 4, offset := 0x10000000 + off, reqid := reqid, length := data.length }
      let s := rcount 0x80408 1 (logAer (.unsupportedRequest h) s)
      if r.set.en then detect 8 (report 0x21 none locFront none (info21 (16 + n) reqid (r.set.row + off % 2 ^ 18 / r.set.sstride))) s else s
def execPlapWrite (off : Nat) (reqid : W16) (data : Posted Masked) (s : State) :=
  live .hif s (barWrite data (plapWriteE off reqid))

/-- PLAP_READ (R145). -/
def execPlapRead (_off _n : Nat) (s : State) := live .hif s (emit .unsupported)

/-- UPW_APPLY (R126, R127). -/
def upwApplyE (w : Nat) (v : W32) (s : State) : State :=
  if !bit v 0 || 16 ≤ w then s
  else
    let x := fget {} s.upd.win w
    if setBad s x.staged.set then { s with upd := { s.upd with win := fset {} s.upd.win w { x with result := 2 } } }
    else
      let s := closeTarget w none s
      { s with upd := { s.upd with win := fset {} s.upd.win w { x with com := x.staged, result := 1 } } }
def execUpwApply (w : Nat) (v : W32) (be : BitVec 4) (s : State) := ctlWrite (0x8000C + 0x40 * w) be s (upwApplyE w v)

/-- UPW_CLOSE (R139). -/
def upwCloseE (w : Nat) (v : W32) (s : State) : State := if bit v 0 && w < 16 then closeTarget w none s else s
def execUpwClose (w : Nat) (v : W32) (be : BitVec 4) (s : State) := ctlWrite (0x80010 + 0x40 * w) be s (upwCloseE w v)

/-- PLC_CLOSE (R143). -/
def plcCloseE (v : W32) (s : State) : State :=
  let s := rset 0x81018 (v &&& 0x3FF#32) s
  if bit v 31 then closeTarget (16 + fld v 9 0) none s else s
def execPlcClose (v : W32) (be : BitVec 4) (s : State) := ctlWrite 0x81018 be s (plcCloseE v)

/-- PLC_SEL (R143). -/
def plcSelE (v : W32) (s : State) : State :=
  { s with upd := { s.upd with plcSel := fld v 9 0, plcStaged := fget {} s.upd.plc (fld v 9 0), plcResult := 0 } }
def execPlcSel (v : W32) (be : BitVec 4) (s : State) := ctlWrite 0x81000 be s (plcSelE v)

/-- PLC_CMT (R143, R127). -/
def plcCmtE (v : W32) (s : State) : State :=
  if !bit v 0 then s
  else if setBad s s.upd.plcStaged.set then { s with upd := { s.upd with plcResult := 2 } }
  else
    let s := closeTarget (16 + s.upd.plcSel) none s
    { s with upd := { s.upd with plc := fset {} s.upd.plc s.upd.plcSel s.upd.plcStaged, plcResult := 1 } }
def execPlcCmt (v : W32) (be : BitVec 4) (s : State) := ctlWrite 0x81014 be s (plcCmtE v)

/-- ROW_COMMIT (R135 to R137), at its turn among the requests of the slice (R37); none in the safe state (R444). -/
def rowCommitE (k : Nat) (s : State) : State :=
  match commitWaiting s k with
  | none => s
  | some r =>
    if bgTurn s k (decide (15 ≤ (s.dc.slice k).gapCommit)) r.at_ 50000 then
      commitStaged k r (modSlice k (fun sl => { sl with gapCommit := 0 }) s)
    else s
def execRowCommit (slice : Nat) (s : State) := live (.part (partOfSlice slice)) s (rowCommitE slice)

end Sys2Proof.Machine
end

