-- ==== Sys2Proof/Machine/Launches.lean ====
section
/-! DEFINITION. What the front end does with a LAUNCH at admission: the checks of its press descriptor table (R175 to R178),
the launch it starts (R196), and the work item of an attached LAUNCH (R203). -/

namespace Sys2Proof.Machine

/-! ## Press descriptor tables (R175 to R178) -/

/-- First row of R178: reserved bits and values. -/
def tileBadReserved (d : BitVec 128) : Bool :=
  tileReserved d || !isFmt (tileFmt d) || 8 < tileEsc d || (tileEsc d ≠ 0 && tileFmt d ≠ 4)
    || (isBinary (tileFmt d) && tileHdr d ≠ 0) || (tileRole d && 5 < tileFmt d)

/-- Class 8 of R65: IB8, IB4, IB2T. -/
def isClass8 (f : Nat) : Bool := f = 0 || f = 3 || f = 4

/-- Third row of R178, but for PDT_N. -/
def tileBadGeometry (d : BitVec 128) : Bool :=
  (!tileRole d && 2 < tileKb d) || tilePitch d = 0 || tilePitch d < tileLb d || tileBase d % 32 ≠ 0 || tileHdr d % 4 ≠ 0

/-- Status of the table of PDT_N entries; 0 when it passes (R178). -/
def pdtStatus (common : Bool) (n : Nat) (ds : List (BitVec 128)) : Byte :=
  if ds.any tileBadReserved then 0x11
  else if !common && ds.any (fun d => !tileRole d && !isClass8 (tileFmt d)) then 0x12
  else if 64 < n || ds.any tileBadGeometry then 0x13
  else 0

/-- The entries of a table from its bytes. -/
def pdtEntries (n : Nat) (b : Bytes) : List (BitVec 128) := (List.range n).map fun i => BitVec.ofNat 128 (num b (16 * i) 16)

/-- First byte of a device range that is poisoned. -/
def firstBad (s : State) (a n : Nat) : Nat :=
  match (rangeLines a n).flatMap (fun l => (List.range 4).map fun j => 4 * l + j) |>.find? fun sec =>
      32 * sec < a + n && a < 32 * sec + 32 && secPoison s (homeSlice (32 * sec)) sec with
  | some sec => max a (32 * sec)
  | none => a

/-- A read of device memory for a requester without a copy: its bytes; the fault source and the address that refuse it (R267, R291); or
what it lacks is asked for (R282 ReadCurrent). -/
inductive DevRead where
  | ok (b : Bytes)
  | bad (source addr : Nat)
  | wait

def devRead (s : State) (a n : Nat) : DevRead :=
  if n = 0 then .ok []
  else if !allowed s a n then .bad 0x16 a
  else if !deviceReady s a n then .wait
  else match readDevice s a n with
    | .data x => .ok x
    | _ => .bad 0x15 (firstBad s a n)

/-- The table of a LAUNCH as the front end reads it from device memory (R175). -/
def readPdt (s : State) (b : Bytes) : DevRead := devRead s (lnPdtAddr b) (16 * lnPdtN b)

/-- Operand mode of a context's commands admitted now (R68, R69). -/
def commonNow (s : State) (ctx : Nat) : Bool := bit (rget s (0x61000 + 4 * ctx)) 0

/-- Check of R178 at admission; of a table that cannot be read, PDT_N alone is checked. -/
def launchPdtStatus (s : State) (ctx : Nat) (b : Bytes) : Byte :=
  match readPdt s b with
  | .ok x => pdtStatus (commonNow s ctx) (lnPdtN b) (pdtEntries (lnPdtN b) x)
  | _ => if 64 < lnPdtN b then 0x13 else 0

/-! ## The launch -/

def newLaunch (id : Nat) (c : Cmd) (home : Nat) (pdt : List (BitVec 128)) : Launch :=
  let b := c.bytes
  { id := id, ctx := c.ctx, gen := c.gen, cmd := c.id, cid := num b 4 4, code := lnCode b, arg := BitVec.ofNat 64 (lnArg b),
    split := lnSplit b, regs := 8 * lnRegs b, teamGroups := lnTeamM1 b + 1, nteams := lnTeams b, lsKib := lnLs b,
    cluster := if lnCluster b < 64 then some (lnCluster b) else none, home := home, resident := lnResident b,
    handle := lnHandle b, sq := c.sq, common := c.common, pdt := pdt }

/-- Starts the launch of an admitted LAUNCH without ATTACH; teams are placed later (R198). -/
def startLaunch (c : Cmd) (pdt : List (BitVec 128)) (s : State) : State :=
  let id := s.simt.nextLaunch
  let l := newLaunch id c (c.home.getD 0) pdt
  let s := { s with simt := { s.simt with launches := s.simt.launches ++ [l], nextLaunch := id + 1 } }
  modCmd c.id (fun c => { c with work := .launch id }) s

def modLaunch (l : Nat) (f : Launch → Launch) (s : State) : State :=
  { s with simt := { s.simt with launches := mapWhere (fun x => decide (x.id = l)) f s.simt.launches } }

def findLaunch (s : State) (l : Nat) : Option Launch := s.simt.launches.find? fun x => x.id = l

/-- Every team of the launch has been placed and has exited. -/
def Launch.allExited (l : Launch) : Bool := l.placed = l.nteams && l.teams.all fun t => t.groups.all fun g => g.exited = BitVec.allOnes 32

/-- The resident launch of a context that holds a handle: until every team has exited (R202). -/
def handleOf (s : State) (ctx h : Nat) : Option Launch :=
  s.simt.launches.find? fun l => l.ctx = ctx && l.resident && l.handle = h && !l.allExited

/-- Places the work item of an attached LAUNCH (R203). -/
def attachItem (c : Cmd) (s : State) : State :=
  match handleOf s c.ctx (lnHandle c.bytes) with
  | none => s
  | some l =>
    let i : Item := { tag := l.nextTag, arg := BitVec.ofNat 64 (lnArg c.bytes), cmd := c.id }
    let s := modLaunch l.id (fun x => { x with items := x.items ++ [i], nextTag := x.nextTag + 1 }) s
    modCmd c.id (fun c => { c with work := .item l.id i.tag }) s

end Sys2Proof.Machine
end

