-- ==== Sys2Proof/Machine/FrontEnd.lean ====
section
/-! DEFINITION. The command front end: doorbells and slots (R338 to R340), reading and checking a command (R347, R511), its
admission (R27, R355), ordering points of an SQ (R350), watchdogs (R359), completion records (R343, R351), and the sequencers
(R360). -/

namespace Sys2Proof.Machine

/-! ## Doorbells (R338, R339) -/

/-- Ring positions pending with the tail `t`. -/
def pendSlots (q : Sq) (t : Nat) : List Nat :=
  (List.range ((t + q.size - q.head) % q.size)).map fun j => (q.head + j) % q.size

/-- The queue takes a new TAIL (R339); a slot newly pending is received now (R351). -/
def Sq.setTail (q : Sq) (t : Nat) (now : W64) : Sq :=
  let old := pendSlots q q.tail
  { q with tail := t, recv := (pendSlots q t).foldl (fun m i =>
      fset 0 m i (if old.contains i then fget 0 q.recv i else now.toNat)) [] }

def report28 (sq v : Nat) : Report := report 0x28 none locFront none (v + sq * 2 ^ 32)

/-- The doorbell part of a write: bytes 0x000 to 0x003 of the page. -/
def doorbell (sq : Nat) (d : Masked) (s : State) : State :=
  let q := s.fe.sqOf sq
  let v := leNat (d.map fun b => b.getD 0)
  if !q.en || quiesced s then rcount 0xC3000 1 s
  else if d.any (fun b => b.isNone) || 2 ^ 15 ≤ v || q.size ≤ v || q.err then detect 8 (report28 sq v) (rcount 0xC3000 1 s)
  else modSq sq (fun q => q.setTail v s.devtime) s

/-- A write to a DBAP page: the slot bytes first, then the doorbell (R339). -/
def dbapWrite (sq off : Nat) (data : Masked) (s : State) : State :=
  if !ctlReach s || s.flt.safe || Config.numSq ≤ sq || portHeld s then s
  else
    let slots := (placedMasked off data).filter fun b => 0x40 ≤ b.1 && b.1 < 0x1000
    let s := { s with fe := { s.fe with dbap := memWrite s.fe.dbap (slots.map fun b => (sq * 0x1000 + b.1, b.2)) } }
    let d := (List.range 4).map fun i => if off ≤ i then data.getD (i - off) none else none
    if d.all fun b => b.isNone then s else doorbell sq d s

/-- What a read of DBAP returns (R338): EN and HEAD of the page's SQ in DB_STAT, zero for every other byte. The opcode table has no row
for it; no command of the model answers with it. -/
def dbapRead (s : State) (off n : Nat) : Bytes := (List.range n).map fun i =>
  let a := off + i
  let q := s.fe.sqOf (a / 0x1000)
  if Config.numSq ≤ a / 0x1000 ∨ 4 ≤ a % 0x1000 then 0 else (leBytes 4 (q.head + (if q.en then 2 ^ 15 else 0))).getD (a % 0x1000) 0

/-- TAIL_DOORBELL (R339). -/
def execTailDoorbell (sq : Nat) (data : Posted Masked) (s : State) := live .hif s (barWrite data (dbapWrite sq 0))
/-- DBAP_SLOT_WRITE (R338). -/
def execDbapSlotWrite (sq off : Nat) (data : Posted Masked) (s : State) := live .hif s (barWrite data (dbapWrite sq off))

/-! ## Checks made when a command is read (R347, R511) -/

def anyByte (b : Bytes) (lo hi : Nat) : Bool := num b lo (hi + 1 - lo) ≠ 0

/-- Row 3 of R347: reserved bits of bytes 0x20 to 0x3F. -/
def reservedBits (op : Op) (b : Bytes) : Bool :=
  match op with
  | .nop | .fence => anyByte b 0x20 0x3F
  | .signal => 4 ≤ num b 0x30 1 || anyByte b 0x31 0x3F
  | .timestamp => 4 ≤ num b 0x30 1 || anyByte b 0x31 0x3F || anyByte b 0x28 0x2F
  | .launch => bits (num b 0x20 8) 63 52 ≠ 0 || bits (num b 0x30 8) 55 52 ≠ 0 || bits (num b 0x30 8) 63 63 ≠ 0
      || 512 ≤ num b 0x3A 2 || 128 ≤ num b 0x3E 1
  | .move => 2 ≤ num b 0x28 1 || anyByte b 0x29 0x3F
  | .commit => bits (num b 0x20 2) 14 10 ≠ 0 || anyByte b 0x22 0x3F
  | .castle => 16 ≤ num b 0x20 1 || 2 ≤ num b 0x21 1
      || (List.range 15).any fun i => bits (num b (0x22 + 2 * i) 2) 14 14 ≠ 0
  | .gatherPool => 2 ^ 14 ≤ num b 0x20 2 || 16 ≤ num b 0x22 1 || 128 ≤ num b 0x23 1 || 8 ≤ num b 0x26 1
      || anyByte b 0x31 0x31 || anyByte b 0x36 0x37
      || (!hdrForm b && anyByte b 0x3D 0x3F)
      || (gpSpace b = 1 && 2 ^ 52 ≤ gpOut b) || (gpSpace b = 2 && 2 ^ 24 ≤ gpOut b)
  | .seqPool => 2 ^ 14 ≤ num b 0x20 2 || 16 ≤ num b 0x22 1 || 128 ≤ num b 0x23 1 || anyByte b 0x24 0x25
      || bits (num b 0x26 1) 6 3 ≠ 0 || 2 ^ 23 ≤ num b 0x34 4
      || (gpRange b && anyByte b 0x3D 0x3F)
      || (gpSpace b = 1 && 2 ^ 52 ≤ gpOut b) || (gpSpace b = 2 && 2 ^ 24 ≤ gpOut b)

/-- Reserved values of an opcode's fields: `BAD_RESERVED` (R99, R100, R107, R117, R148, R151, R197, R349). -/
def reservedValues (op : Op) (b : Bytes) : Bool :=
  match op with
  | .gatherPool =>
    5 < gpMode b || (gpMode b ≠ 5 && gpK b ≠ 1) || (gpMode b ≠ 3 && gpWexp b ≠ 0) || (gpMode b ≠ 4 && num b 0x34 2 ≠ 0)
      || 4 < gpIdx b || !isFmt (gpFmt b) || gpSpace b = 3
  | .seqPool =>
    5 < gpMode b || (gpMode b ≠ 5 && gpK b ≠ 1) || (gpMode b ≠ 3 && gpMode b ≠ 4 && gpWexp b ≠ 0)
      || (gpMode b ≠ 4 && num b 0x31 1 ≠ 0) || 4 < gpIdx b || !isFmt (gpFmt b) || gpSpace b = 3
  | .castle => (List.range 15).any fun i => caN b ≤ i && num b (0x22 + 2 * i) 2 ≠ 0
  | .signal | .timestamp => 2 ≤ sgSpace b
  | .launch => 5 ≤ lnSplit b || (lnAttach b &&
      (lnCode b ≠ 0 || lnPdtAddr b ≠ 0 || lnPdtN b ≠ 0 || lnTeams b ≠ 1 || lnLs b ≠ 0 || lnTeamM1 b ≠ 0 || lnSplit b ≠ 0
        || lnRegs b ≠ 0 || lnResident b || lnCluster b ≠ 0))
  | _ => false

/-- Local store of a core with a split, in KiB (R200). -/
def splitLs (sp : Nat) : Nat := if sp = 0 then 384 else if sp = 1 then 320 else if sp = 2 then 256 else if sp = 3 then 128 else 0

/-- Geometry conditions that need nothing but the command (R100, R103, R107, R108, R119, R141, R151, R197, R348, R349). -/
def badGeometry (op : Op) (b : Bytes) : Bool :=
  let outBad : Bool :=
    if isBlockFmt (gpFmt b) then gpOut b % 32 != 0 || 4 * gpStride b % 32 != 0 else gpOut b % 4 != 0
  match op with
  | .gatherPool =>
    let lens := inlineLens b
    let n := lens.foldl (· + ·) 0
    (gpMode b = 4 && gpHalf .gatherPool b = 0) || outBad
      || (!hdrForm b && hdrSlots b ≠ 1 && (60 < n || 64 * (hdrSlots b - 1) < gpBags b + n * (gpIdxW b + gpAux b)))
  | .seqPool => spCount b = 0 || 4194304 < spCount b || (gpRange b && gpMode b = 3)
      || (gpMode b = 4 && gpHalf .seqPool b = 0) || outBad
  | .castle => caN b = 16 || ((caEntries b).map Prod.fst).eraseDups.length ≠ (caEntries b).length
  | .commit => !cmRegion b && 16 ≤ cmIndex b
  | .signal | .timestamp => sgAddr b % 8 ≠ 0
  | .launch => !lnAttach b && (lnRegs b = 0 || 32 < lnRegs b || lnCode b % 8 ≠ 0 || splitLs (lnSplit b) < lnLs b
      || 1536 < (lnTeamM1 b + 1) * (8 * lnRegs b) || (lnPdtN b ≠ 0 && lnPdtAddr b % 16 ≠ 0))
  | _ => false

/-- Status of the first failing check among those made on the bytes read; 0 when they all pass. DEDUCED, log 18. -/
def readStatus (gen : W16) (b : Bytes) : Byte :=
  if hdrGen b ≠ gen.toNat then 0x21
  else match opOf (hdrOpcode b) with
    | none => 0x10
    | some op =>
      if 32 ≤ hdrCtl b || anyByte b 0x16 0x1F || reservedBits op b || (hdrForm b && op ≠ .gatherPool) then 0x11
      else if hdrSlots b ≠ 1 && (op ≠ .gatherPool || hdrForm b) then 0x13
      else if reservedValues op b then 0x11
      else if badGeometry op b then 0x13
      else 0

/-! ## COMMAND_READ (R340, R347) -/

/-- The bytes of the command at HEAD, once they are at hand. -/
def cmdAtHead (f : FrontEnd) (sq : Nat) : Bytes :=
  let q := f.sqOf sq
  if q.isRing then fget [] f.ring sq
  else (List.range (min 4 q.pend)).flatMap fun i =>
    memRead f.dbap (sq * 0x1000 + 0x40 + 0x40 * ((q.head + i) % q.size)) 64

/-- An SQ that the front end may read: enabled, no error, its context enabled, no command of it waiting for admission. -/
def readable (s : State) (sq : Nat) : Bool :=
  let q := s.fe.sqOf sq
  !s.fe.stopped && !s.flt.safe && q.en && !q.err && (s.fe.ctxOf q.ctx).state = 1#2 && 0 < q.pend
    && !s.fe.cmds.any fun c => c.sq = sq && c.phase = .checked

/-- The queue reads nothing more (R340). -/
def ringFailed (sq va : Nat) (s : State) : State :=
  detect 8 (report 0x29 (some (s.fe.sqOf sq).ctx) locFront (some va) sq) (modSq sq (fun q => { q with err := true }) s)

/-- Requests the next slot of the command at HEAD of a ring in host memory; a page that lies in HVDM is read within the block (R313). -/
def readRing (sq : Nat) (s : State) : State :=
  let q := s.fe.sqOf sq
  let here := fget [] s.fe.ring sq
  let va := q.base + 64 * ((q.head + here.length / 64) % q.size)
  let g := (s.fe.ctxOf q.ctx).gen
  match xlat s q.ctx g va false with
  | .pa a => match hvdmOf s a with
    | none => if (s.hif.d2h ++ s.hif.held).any fun r => r.op = .rdCurr && r.pa = a then s
      else d2hSend { tag := 0, op := .rdCurr, pa := a } s
    | some d => match devRead s d 64 with
      | .ok b => doneDevice d 64 { s with fe := { s.fe with ring := fset [] s.fe.ring sq (here ++ b) } }
      | .bad _ _ => ringFailed sq va s
      | .wait => askDevice d 64 s
  | .denied => ringFailed sq va s
  | .miss nw => askXlat q.ctx g va nw (.ring sq) 0 s

/-- The command read from the SQ, checked. -/
def newCmd (s : State) (sq : Nat) (b : Bytes) : Cmd :=
  let q := s.fe.sqOf sq
  let n := hdrSlots b
  let gen := (s.fe.ctxOf q.ctx).gen
  let st := readStatus gen b
  { id := s.fe.nextId, sq := sq, ctx := q.ctx, gen := gen, op := (opOf (hdrOpcode b)).getD .nop,
    opcode := BitVec.ofNat 8 (hdrOpcode b), bytes := b.take (64 * n),
    phase := if st = 0 then .checked else .ready, status := st, sqHead := (q.head + n) % q.size,
    tRecv := BitVec.ofNat 64 (fget 0 q.recv ((q.head + n - 1) % q.size)), tAdmit := if st = 0 then 0 else s.devtime,
    cq := q.cq }

/-- The whole command at HEAD is at hand. -/
def headReady (s : State) (sq : Nat) : Bool :=
  let b := cmdAtHead s.fe sq
  readable s sq && 64 ≤ b.length && hdrSlots b ≤ (s.fe.sqOf sq).pend && 64 * hdrSlots b ≤ b.length

/-- The SQs that the front end can read a command of now, with their contexts (R357). -/
def frontReqs (s : State) : List (Nat × Nat) :=
  (s.fe.sq.filter fun e => headReady s e.1).map fun e => ((s.fe.sqOf e.1).ctx, e.1)

def commandReadE (sq : Nat) (s : State) : State :=
  let q := s.fe.sqOf sq
  if !readable s sq then s
  else
    let b := cmdAtHead s.fe sq
    if b.length < 64 || (hdrSlots b ≤ q.pend && b.length < 64 * hdrSlots b) then (if q.isRing then readRing sq s else s)
    else if q.pend < hdrSlots b || !s.fe.mayServe .front (frontReqs s) (q.ctx, sq) then s
    else
      let c := newCmd s sq b
      let s := { s with fe := s.fe.serve .front (frontReqs s) (q.ctx, sq) 1 }
      let s := modSq sq (fun q => { q with
        head := c.sqHead
        recv := q.recv.filter fun e => !((List.range (hdrSlots b)).map fun i => (q.head + i) % q.size).contains e.1 }) s
      { s with fe := { s.fe with
          cmds := s.fe.cmds ++ [c], nextId := s.fe.nextId + 1, ring := fset [] s.fe.ring sq [] } }
/-- COMMAND_READ (R340, R347, R357). -/
def execCommandRead (sq : Nat) (s : State) := live .fab s (commandReadE sq)

def sqRingReadDoneE (sq : Nat) (r : ReadBack) (s : State) : State :=
  let q := s.fe.sqOf sq
  if !q.en || !q.isRing || q.err then s
  else match r with
    | .data b => { s with fe := { s.fe with ring := fset [] s.fe.ring sq b } }
    | _ => ringFailed sq (q.base + 64 * q.head) s
/-- SQ_RING_READ_DONE (R340). -/
def execSqRingReadDone (sq : Nat) (r : ReadBack) (s : State) := live .fab s (sqRingReadDoneE sq r)

/-! ## Checks made at admission -/

/-- Size of a bag vector of a table's rows, rounded for packing (R118, R119). -/
def bagSize (b : Bytes) (dim : Nat) : Nat :=
  if isBlockFmt (gpFmt b) then (if gpMode b = 5 then gpK b else 1) * vecSize (gpFmt b) dim
  else vecSize (gpFmt b) ((if gpMode b = 5 then gpK b else 1) * dim)
def roundUp (n m : Nat) : Nat := (n + m - 1) / m * m
def bagRound (b : Bytes) (v : Nat) : Nat := roundUp v (if isBlockFmt (gpFmt b) then 32 else 4)

/-- Start and size of each bag vector, relative to OUT_ADDR (R119). -/
def outPlan (b : Bytes) (dims : List Nat) : List (Nat × Nat) :=
  (dims.foldl (fun (acc : Nat × Nat × List (Nat × Nat)) d =>
    let v := bagSize b d
    let i := acc.1
    let start := if gpStride b = 0 then acc.2.1 else i * (4 * gpStride b)
    (i + 1, acc.2.1 + bagRound b v, (start, v) :: acc.2.2)) (0, 0, [])).2.2.reverse

/-- Core and offset of an output in local store (R117). -/
def outCore (b : Bytes) (home : Nat) : Nat := 4 * (8 * home + bits (gpOut b) 23 21) + bits (gpOut b) 20 19
def outLs (b : Bytes) : Nat := bits (gpOut b) 18 0

/-- The resident launch of a context on a core (R202, R205). -/
def residentOn (m : Simt) (ctx core : Nat) : Option Launch :=
  m.launches.find? fun l => l.ctx = ctx && l.resident && l.teams.any fun t => t.core = core

/-- Bytes [a, a + n) of a core's local store lie in allocations of the launch's teams there, whole KiB each. -/
def inTeams (l : Launch) (core a n : Nat) : Bool :=
  (List.range ((a + n - 1) / 1024 - a / 1024 + 1)).all fun i =>
    l.teams.any fun t => t.core = core && t.lsBase ≤ (a / 1024 + i) * 1024 && (a / 1024 + i) * 1024 < t.lsBase + 1024 * l.lsKib

/-- Conditions of R119 that need the table's DIM, the regions or the launches. -/
def outBad (s : State) (ctx : Nat) (b : Bytes) (home : Nat) (dims : List Nat) : Bool :=
  let plan := outPlan b dims
  (gpStride b ≠ 0 && plan.any fun p => 4 * gpStride b < bagRound b p.2)
  || (gpSpace b = 1 && plan.any fun p => p.2 ≠ 0 && rangeMeetsTable s.rat.com (gpOut b + p.1) p.2)
  || (gpSpace b = 2 && match residentOn s.simt ctx (outCore b home) with
      | none => true
      | some l => plan.any fun p => p.2 ≠ 0 && !inTeams l (outCore b home) (outLs b + p.1) p.2)

/-- Launch and teams in whose allocations an output in local store lands, as of the check of R119 (R205, R206). -/
def landTeams (s : State) (ctx : Nat) (b : Bytes) (home : Nat) (dims : List Nat) : List (Nat × Nat) :=
  let core := outCore b home
  match (if gpSpace b = 2 then residentOn s.simt ctx core else none) with
  | none => []
  | some l =>
    let hit (t : Team) : Bool := (outPlan b dims).any fun p =>
      p.2 ≠ 0 && outLs b + p.1 < t.lsBase + 1024 * l.lsKib && t.lsBase < outLs b + p.1 + p.2
    (l.teams.filter fun t => t.core = core && hit t).map fun t => (l.id, t.num)

/-- Checks of R91, R141, R151, R197 and R119 against the state at admission; 0 when they pass. An output in local store is checked once
the home that it lies in can be chosen (R27). -/
def admitStatus (s : State) (c : Cmd) (home : Option Nat) : Byte :=
  let b := c.bytes
  let x := s.fe.ctxOf c.ctx
  let pool (dims : List Nat) : Byte :=
    if (home.isSome || gpSpace b ≠ 2) && outBad s c.ctx b (home.getD 0) dims then 0x13
    else if mayRead x.tgroup c.ctx (tableOf s (gpTable b)) then 0 else 0x14
  match c.op with
  | .gatherPool =>
    if hdrForm b then (if gpSpace b = 2 && home.any fun h => (residentOn s.simt c.ctx (outCore b h)).isNone then 0x13 else 0)
    else pool (List.replicate (gpBags b) (tableOf s (gpTable b)).dim)
  | .seqPool => pool [(tableOf s (gpTable b)).dim]
  | .commit =>
    let w := s.upd.set (cmTarget b)
    if w.en && (tableOf s w.table).owner ≠ c.ctx then 0x14 else 0
  | .castle =>
    if (caEntries b).all fun e => (tableOf s e.1).valid && (tableOf s e.1).owner = c.ctx then 0 else 0x14
  | .launch =>
    let held := (handleOf s c.ctx (lnHandle b)).isSome
    if !lnAttach b && lnCluster b ≠ 0x7F && (64 ≤ lnCluster b || !x.pmask.testBit (lnCluster b / 8)) then 0x13
    else if (lnResident b && held) || (lnAttach b && !held) then 0x13
    else if lnAttach b then 0 else launchPdtStatus s c.ctx b
  | _ => 0

/-! ## Admission (R27, R350, R354, R355) -/

/-- Commands whose descriptor is read at admission, from the operand of their opcode's row. -/
def needsRead (c : Cmd) : Bool := c.op = .move

/-- An admitted command that holds back later ones of its SQ (R350). -/
def Cmd.holds (c : Cmd) : Bool :=
  c.home.isSome && c.phase ≠ .checked && match c.op with
    | .commit | .fence | .signal | .timestamp => true
    | .castle => match c.work with
      | .castle switched _ => !switched
      | _ => c.phase ≠ .ready
    | _ => false

/-- A command whose turn for admission has come: its context and its SQ are enabled (R337), no command before it in its SQ holds it
back, a COMMIT's target has every write received before it (R141), an attached LAUNCH finds room (R203). -/
def admittable (s : State) (c : Cmd) : Bool :=
  c.phase = .checked && !s.fe.stopped && !s.flt.safe && (s.fe.ctxOf c.ctx).state = 1#2 && (s.fe.sqOf c.sq).en
    && (c.op ≠ .commit || !s.upd.held.any fun p => p.tgt = cmTarget c.bytes)
    && !(s.fe.cmds.any fun d => d.sq = c.sq && d.holds)
    && (c.op ≠ .launch || !lnAttach c.bytes ||
        match handleOf s c.ctx (lnHandle c.bytes) with
        | some l => l.items.length < 256
        | none => true)

def resignableOp (op : Op) : Bool := op = .gatherPool || op = .seqPool || op = .launch || op = .move

/-- Closed batches not yet done that write a row of a CASTLE's target sides (R149). -/
def drainOf (u : UpdateUnit) (es : List (Nat × Nat)) : List (Nat × Nat) :=
  ((u.staging.filter fun r => r.batch < (u.target r.tgt).openNo && es.contains (r.table, r.side)).map fun r =>
    (r.tgt, r.batch)).eraseDups

def cidOf (c : Cmd) : Nat := num c.bytes 4 4

/-- A command ends with FAULTED and a record of its own. -/
def faultCmd (c : Cmd) (source : Nat) (addr : Option Nat) (s : State) : State :=
  readyCmd c.id 0x20 (detectFor c.id 8 (report source (some c.ctx) locFront addr (cidOf c)) s)

/-- What an opcode does at the moment of admission: a COMMIT closes its target's batch (R141), a CASTLE notes the batches it
drains (R149), a LAUNCH copies its press table and starts its launch (R175, R196) or places its work item (R203). -/
def atAdmission (c : Cmd) (s : State) : State :=
  match c.op with
  | .commit =>
    let t := cmTarget c.bytes
    let s := if (s.upd.set t).en then closeTarget t (some c.ctx) s else s
    modCmd c.id (fun c => { c with work := .commit t (s.upd.target t).openNo }) s
  | .castle => modCmd c.id (fun c => { c with work := .castle false (drainOf s.upd (caEntries c.bytes)) }) s
  | .launch =>
    if lnAttach c.bytes then attachItem c s
    else match readPdt s c.bytes with
      | .ok x => startLaunch c (pdtEntries (lnPdtN c.bytes) x) (doneDevice (lnPdtAddr c.bytes) (16 * lnPdtN c.bytes) s)
      | .bad src a => faultCmd c src (some a) s
      | .wait => s
  | _ => s

/-- The press table of a LAUNCH that starts teams is still to be read (R175). -/
def pdtWaits (s : State) (c : Cmd) : Bool :=
  c.op = .launch && !lnAttach c.bytes && match readPdt s c.bytes with
    | .wait => true
    | _ => false

/-- Tables of all opcodes' output dimensions that are known at admission. -/
def admitDims (s : State) (b : Bytes) (op : Op) : List Nat :=
  List.replicate (if op = .gatherPool then (if hdrForm b then 0 else gpBags b) else if op = .seqPool then 1 else 0)
    (tableOf s (gpTable b)).dim

/-- Admission of a checked command whose checks on memory gave `extra`; no change while it must wait. -/
def admitNow (id : Nat) (extra : Byte) (s : State) : State :=
  withCmd id (fun c => admittable s c) s fun c =>
    let h := chooseHome s (s.fe.ctxOf c.ctx).pmask
    let st := admitStatus s c h
    let st := if st = 0 then extra else st
    if pdtWaits s c then askDevice (lnPdtAddr c.bytes) (16 * lnPdtN c.bytes) s
    else if st ≠ 0 then modCmd id (fun c => { c.finish st with tAdmit := s.devtime }) s
    else match h with
      | none => s
      | some home =>
        let x := s.fe.ctxOf c.ctx
        let c := { c with home := some home, tAdmit := s.devtime, tables := s.tbl.desc, cfg := x.cfg, share := x.share,
                          common := commonNow s c.ctx, strideStart := s.devtime, nAdmit := s.fe.nextAdmit + 1,
                          landTo := landTeams s c.ctx c.bytes home (admitDims s c.bytes c.op) }
        let s := { s with fe := { s.fe with nextAdmit := s.fe.nextAdmit + 1 } }
        let p := if x.pred && resignableOp c.op then predict s c (needs s.fe c home) (fun _ => 0) else 0
        let dl := hdrDeadline c.bytes
        let c := { c with pred := BitVec.ofNat 64 p }
        if resignableOp c.op && dl ≠ 0 && (dl ≤ s.devtime.toNat || (x.pred && dl < p + 1000 * x.margin)) then
          modCmd id (fun _ => c.finish 1) s
        else atAdmission c (modCmd id (fun _ => { c with phase := .admitted }) s)

def admitE (id : Nat) (s : State) : State :=
  withCmd id (fun c => !needsRead c) s fun _ => admitNow id 0 s
/-- ADMIT (R27, R355). A MOVE is admitted by the row of its opcode, which brings the descriptor read at its admission. -/
def execAdmit (id : Nat) (s : State) := live .fab s (admitE id)

/-- Start of an admitted command of an opcode; it is admitted first when it still waits. -/
def startOp (id : Nat) (op : Op) (s : State) (f : Cmd → State → State) : State :=
  let s := withCmd id (fun c => c.phase = .checked && c.op = op && !needsRead c) s fun _ => admitNow id 0 s
  withCmd id (fun c => c.phase = .admitted && c.op = op) s fun c => f c s

/-- NOP (R349). -/
def execNop (id : Nat) (s : State) := live .fab s fun s => startOp id .nop s fun _ s => readyCmd id 0 s
/-- FENCE (R350). -/
def execFence (id : Nat) (s : State) :=
  live .fab s fun s => startOp id .fence s fun _ s => modCmd id (fun c => { c with phase := .orderWait }) s
/-- SIGNAL (R349, R350). -/
def execSignal (id : Nat) (s : State) :=
  live .fab s fun s => startOp id .signal s fun _ s => modCmd id (fun c => { c with phase := .orderWait }) s
/-- TIMESTAMP (R349, R350). -/
def execTimestamp (id : Nat) (s : State) :=
  live .fab s fun s => startOp id .timestamp s fun _ s => modCmd id (fun c => { c with phase := .orderWait }) s
/-- COMMIT (R141). -/
def execCommit (id : Nat) (s : State) :=
  live .fab s fun s => startOp id .commit s fun _ s => settleCommits (modCmd id (fun c => { c with phase := .running }) s)
/-- CASTLE (R149): it takes a castling sequencer. -/
def execCastle (id : Nat) (s : State) :=
  live .fab s fun s => startOp id .castle s fun _ s => modCmd id (fun c => { c with phase := .waitSeq }) s

/-! ## Ordering points (R350) -/

/-- The 8 bytes that a SIGNAL or TIMESTAMP writes. -/
def sgBytes (c : Cmd) : Bytes := leBytes 8 (if c.op = .signal then sgValue c.bytes else c.strideStart.toNat)

/-- Write of a SIGNAL or TIMESTAMP (R349). -/
def sgWrite (c : Cmd) (s : State) : State :=
  let a := sgAddr c.bytes
  if sgSpace c.bytes = 1 then
    if allowed s a 8 then readyCmd c.id 0 (writeDevice (.cmd c.id) (some c.id) a (sgBytes c) s)
    else faultCmd c 0x16 (some a) s
  else match xlat s c.ctx c.gen a true with
    | .pa p =>
      if physOk s p 8 then readyCmd c.id 0 (writePhys (.cmd c.id) (some c.id) p (sgBytes c) s) else faultCmd c 0x16 (some a) s
    | .denied => faultCmd c 0x15 (some a) s
    | .miss nw => askXlat c.ctx c.gen a nw (.cmd c.id) 0 s

def sqOrderWaitEndE (id : Nat) (s : State) : State :=
  withCmd id (fun c => c.phase = .orderWait) s fun c =>
    if s.fe.cmds.any fun d => d.sq = c.sq && d.id < c.id then s
    else if c.op = .fence then readyCmd id 0 s
    else
      let c := if c.wrote then c else { c with wrote := true, strideStart := s.devtime }
      sgWrite c (modCmd id (fun _ => c) s)
/-- SQ_ORDER_WAIT_END (R349, R350). -/
def execSqOrderWaitEnd (id : Nat) (s : State) := live .fab s (sqOrderWaitEndE id)

/-! ## Resignation in flight (R355, R356) and watchdogs (R359, R449) -/

/-- The command may still resign. -/
def resignable (s : State) (c : Cmd) : Bool :=
  c.home.isSome && c.phase ≠ .checked && c.phase ≠ .ready && match c.op with
    | .gatherPool | .seqPool => !c.wrote
    | .move => c.phase = .yielded
    | .launch => match c.work with
      | .launch l => s.simt.launches.any fun x => x.id = l && x.ending.isNone && (if x.resident then x.placed = 0 else !x.wrote)
      | .item l tag => s.simt.launches.any fun x => x.id = l && x.ending.isNone && x.items.any fun i => i.tag = tag && !i.taken
      | _ => true
    | _ => false

def latePredictionE (id : Nat) (s : State) : State :=
  withCmd id (fun c => resignable s c && bit c.cfg 29 && hdrDeadline c.bytes ≠ 0) s fun c =>
    let dl := hdrDeadline c.bytes
    let ns := (needs s.fe c (c.home.getD 0)).map fun x => (x.1, remaining s.fe c x.1)
    if dl ≤ s.devtime.toNat || dl < predict s c ns.eraseDups (fun r => remaining s.fe c r) + 1000 * fld c.share 7 0 then
      endCommand id 2 s
    else s
/-- LATE_PREDICTION (R355). -/
def execLatePrediction (id : Nat) (s : State) := live .fab s (latePredictionE id)

/-- A fault has already given the launch of a command its status (R223). -/
def launchEnding (s : State) (c : Cmd) : Bool := match c.work with
  | .launch l => s.simt.launches.any fun x => x.id = l && x.ending.isSome
  | .item l _ => s.simt.launches.any fun x => x.id = l && x.ending.isSome
  | _ => false

/-- The watchdog's limit in nanoseconds (R359). -/
def wdogLimit (c : Cmd) : Nat :=
  if hdrWdog c.bytes ≠ 0 then hdrWdog c.bytes * 100000 else if fld c.share 31 16 ≠ 0 then fld c.share 31 16 * 100000 else 10 ^ 9

/-- Cluster of a LAUNCH, when it names one. -/
def namedCluster (l : Launch) : Loc :=
  match l.cluster with
  | some c => locCluster c
  | none => locPart l.home

/-- Rows staged in batches that a COMMIT or CASTLE waits for. -/
def waitedRows (u : UpdateUnit) (c : Cmd) : List StagedRow :=
  match c.work with
  | .commit t n => u.staging.filter fun r => r.tgt = t && r.batch < n
  | .castle false d => u.staging.filter fun r => d.contains (r.tgt, r.batch)
  | _ => []

/-- Command that issued a request: that of the launch for the stores and the transfers of one. -/
def reqOwner (s : State) (who : Requester) : Option Nat := match who with
  | .cmd id => some id
  | .core _ cmd => some cmd
  | .row x _ cmd => match (s.mov.xfers.find? fun y => y.id = x).map Xfer.owner with
    | some (.simt l _ _ _ _ _) => some ((findLaunch s l).elim cmd Launch.cmd)
    | _ => some cmd
  | _ => none

/-- A port that owes the command a response: reads of the rows of its positions, of the lines that its launch misses, or its writes. -/
def waitedPort (s : State) (c : Cmd) : Option Nat :=
  let lines : List Nat := match c.work with
    | .gather g => (g.pos.filter fun x => !x.done).flatMap fun x =>
      let d := c.table x.table
      let a := (rowCopy s x.table d d.cur (if x.dflt then d.rows else x.ix)).1
      (List.range ((a + d.size - 1) / 128 - a / 128 + 1)).map fun i => a / 128 + i
    | .launch l => s.simt.cores.flatMap fun e => (e.2.miss.filter fun m => m.launch = l).map Miss.line
    | _ => []
  (s.ports.find? fun e => (e.2.queue ++ e.2.sent).any fun r =>
    (r.op = .wr && reqOwner s r.who = some c.id) || (r.op = .rd && lines.contains r.dline)).map Prod.fst

/-- A slice whose transaction on a line holds up a write of the command, and the context of that transaction. -/
def waitedTxn (s : State) (c : Cmd) : Option (Nat × Option Nat) :=
  s.dc.slices.findSome? fun e => (e.2.txns.find? fun t => s.dc.writes.any fun w => reqOwner s w.who = some c.id && w.line = t.line).map fun t =>
    (e.1, match t.kind with
      | .merge who _ _ => (reqOwner s who).bind fun j => (s.fe.cmd j).map Cmd.ctx
      | .readShared k _ => (s.simt.launches.find? fun l => l.teams.any fun t => t.core = k).map Launch.ctx
      | .readOwn k _ => (s.simt.launches.find? fun l => l.teams.any fun t => t.core = k).map Launch.ctx
      | _ => none)

/-- The unit that holds a running command (row 0x00 of R449). -/
def runningLoc (s : State) (c : Cmd) : Loc :=
  match c.work with
  | .gather g => match g.subs.find? fun x => x.2 ≠ .combined with
    | some (p, _) => locPart p
    | none => locPart (c.home.getD 0)
  | .launch l => match s.simt.launches.find? fun x => x.id = l with
    | some x => match x.teams.head? with
      | some t => locCluster (t.core / 4)
      | none => namedCluster x
    | none => locFront
  | .item l _ => match s.simt.launches.find? fun x => x.id = l with
    | some x => match x.teams.head? with
      | some t => locCluster (t.core / 4)
      | none => namedCluster x
    | none => locFront
  | .move _ => locPart (c.home.getD 0)
  | _ => locFront

/-- The oldest command by admission. -/
def oldestCmd (l : List Cmd) : Option Cmd :=
  l.foldl (fun (m : Option Cmd) c => match m with
    | some d => some (if c.nAdmit < d.nAdmit then c else d)
    | none => some c) none

/-- WAIT, LOC and BLAME of a watchdog record (R449): the lowest non-zero code that describes the command. A watchdog runs from
admission (R359), so 0x03, a command held at its SQ, describes none (DEDUCED, log 18). -/
def waitOf (s : State) (c : Cmd) : Nat × Loc × Option Nat :=
  let prg : Bool := match c.work with
    | .move x => s.mov.xfers.any fun t => t.id = x && t.prg.isSome
    | .launch l => s.mov.xfers.any fun t => t.prg.isSome && match t.owner with
      | .simt y _ _ _ _ _ => y = l
      | _ => false
    | _ => false
  let placing : Option Launch := match c.work with
    | .launch l => s.simt.launches.find? fun x => x.id = l && x.placed < x.nteams
    | _ => none
  if prg then (1, locHif, none)
  else if c.phase = .waitSeq || c.phase = .yielded then
    (2, if c.op = .castle then locFront else locPart (c.home.getD 0),
      (oldestCmd (s.fe.cmds.filter fun d => d.phase = .running && seqKind d = seqKind c)).map Cmd.ctx)
  else match placing with
    | some x =>
      let near (t : Team) : Bool := match x.cluster with
        | some k => t.core / 4 = k
        | none => t.core / 32 = x.home
      (4, namedCluster x, (s.simt.launches.find? fun y => y.teams.any near).map Launch.ctx)
    | none => match (waitedRows s.upd c).head? with
      | some r => (5, locSlice r.slice, r.closer)
      | none => match waitedPort s c with
        | some p => (6, locPort p, none)
        | none => match waitedTxn s c with
          | some (k, b) => (7, locSlice k, b)
          | none => if c.phase = .orderWait then (8, locFront, none) else (0, runningLoc s c, none)

/-- The record of an expired watchdog (R449, R510). -/
def watchdogReport (s : State) (c : Cmd) : Report :=
  let (w, loc, blame) := waitOf s c
  { report 0x10 (some c.ctx) loc none (cidOf c + c.sq * 2 ^ 32 + w * 2 ^ 48 + c.opcode.toNat * 2 ^ 56) with blame := blame }

def watchdogExpiryE (id : Nat) (s : State) : State :=
  withCmd id (fun c => c.home.isSome && c.phase ≠ .checked && unfinished s c && !launchEnding s c && wdogLimit c ≤ since s.devtime c.tAdmit) s fun c =>
    let r := watchdogReport s c
    endCommand id 0x22 (detectFor id ((locPartOf r.loc).getD 8) r s)
/-- WATCHDOG_EXPIRY (R359, R449). -/
def execWatchdogExpiry (id : Nat) (s : State) := live .fab s (watchdogExpiryE id)

/-! ## Completion records (R343, R351, R243, R244) -/

/-- Tags of a command that needs no release are dropped. -/
def untag (id : Nat) (s : State) : State :=
  let f (e : Nat × Slice) : Nat × Slice :=
    (e.1, { e.2 with lines := mapWhere (fun l => l.tag = some id) (fun l => { l with tag := none }) e.2.lines })
  let g (e : Nat × Core) : Nat × Core :=
    let f (l : List L1Line) : List L1Line := mapWhere (fun l => l.tag = some id) (fun l => { l with tag := none }) l
    (e.1, { e.2 with l1 := f e.2.l1, wb := f e.2.wb })
  { s with dc := { s.dc with slices := s.dc.slices.map f }, simt := { s.simt with cores := s.simt.cores.map g } }

/-- A record write failed (R343). -/
def cqFailed (q : Nat) (addr : Nat) (s : State) : State :=
  detect 8 (report 0x2A none locFront (some addr) (q + 2 * 2 ^ 16)) (modCq q (fun x => { x with err := true }) s)

def cqPasid (q : Cq) : Nat := fld q.regs.aux 19 0

/-- Where the line at a CQ address goes: its physical or device address, refused, or wait. -/
def recordAddr (s : State) (c : Cmd) (q : Cq) (a : Nat) : XlatNow :=
  if q.dev then (if allowed s a 64 then .pa a else .denied)
  else match xlatP s.atc (cqPasid q) c.ctx c.gen a true with
    | .pa p => if physOk s p 64 then .pa p else .denied
    | x => x

def recordWrite (dev : Bool) (who : Requester) (a : Nat) (b : Bytes) (s : State) : State :=
  if dev then writeDevice who none a b s else writePhys who none a b s

/-- TAIL and phase after an entry has been written (R343). -/
def Cq.advance (q : Cq) : Cq :=
  let t := (q.tail + 1) % q.size
  { q with tail := t, phase := if t = 0 then !q.phase else q.phase }

/-- Lines 1 and 2 of the record are issued; line 0 waits for them. -/
def issueRecord (c : Cmd) (a0 a1 a2 : Nat) (s : State) : State :=
  let q := s.fe.cqOf c.cq
  let r := recordBytes c q.phase s.devtime
  let t : TagLine := { id := c.id, cq := c.cq, ctx := c.ctx, dev := q.dev, addr := a0, line0 := r.take 64,
                       vec := if hdrIrq c.bytes && q.ien then some q.vec else none }
  let s := recordWrite q.dev (.record c.id) a2 (slice r 128 64) (recordWrite q.dev (.record c.id) a1 (slice r 64 64) s)
  retire c (modCq c.cq Cq.advance { s with fe := { s.fe with tags := s.fe.tags ++ [t] } })

def completionRecordIssueE (id : Nat) (s : State) : State :=
  withCmd id (fun c => c.phase = .ready) s fun c =>
    if s.flt.safe || c.waitsReport then s
    else
      let s := if releaseInForce s c then releaseAll id s else untag id s
      let q := s.fe.cqOf c.cq
      if !recordMayIssue s c then s
      else if !q.en then
        retire c (detect 8 (report 0x2B (some c.ctx) locFront none (cidOf c + c.cq * 2 ^ 32)) s)
      else if q.err then retire c s
      else if q.full then
        (if c.cqWaited then s
         else modCmd id (fun c => { c with cqWaited := true, cqSince := s.devtime }) (rcount 0xC3004 1 s))
      else if !q.dev && !s.hif.bme then s
      else
        let a := q.base + 192 * q.tail
        let at_ (i : Nat) := recordAddr s c q (a + 64 * i)
        match at_ 0, at_ 1, at_ 2 with
        | .pa a0, .pa a1, .pa a2 => issueRecord c a0 a1 a2 s
        | .denied, _, _ => retire c (cqFailed c.cq a s)
        | _, .denied, _ => retire c (cqFailed c.cq (a + 64) s)
        | _, _, .denied => retire c (cqFailed c.cq (a + 128) s)
        | x0, x1, x2 =>
          let ask (x : XlatNow) (va : Nat) (s : State) : State := match x with
            | .miss nw => askXlatP (cqPasid q) c.ctx c.gen va nw (.cq c.cq) 0 s
            | _ => s
          ask x2 (a + 128) (ask x1 (a + 64) (ask x0 a s))
/-- COMPLETION_RECORD_ISSUE (R343, R351). While Bus Master Enable is 0 the record waits (R372). -/
def execCompletionRecordIssue (id : Nat) (s : State) := live .fab s (completionRecordIssueE id)

/-- Records whose phase-tag line has reached the point of R244: their interrupt events follow (R353, R382). -/
def settleTags (s : State) : State :=
  let done := s.fe.tags.filter fun t => t.sent && !whoOut s (.tagLine t.id)
  let s := { s with fe := { s.fe with tags := s.fe.tags.filter fun t => !(done.any fun d => d.id = t.id) } }
  done.foldl (fun s t =>
    if t.failed then cqFailed t.cq t.addr s
    else match t.vec with
      | some v => irqEvent v s
      | none => s) s

def phaseTagLineIssueE (cq : Nat) (s : State) : State :=
  match s.fe.tags.find? fun t => t.cq = cq && !t.sent && !whoOut s (.record t.id) with
  | none => s
  | some t =>
    if s.flt.safe then s
    else if t.failed then
      cqFailed cq t.addr { s with fe := { s.fe with tags := s.fe.tags.filter fun x => x.id ≠ t.id } }
    else
      let s := { s with fe := { s.fe with tags := mapWhere (fun x => x.id = t.id) (fun x => { x with sent := true }) s.fe.tags } }
      settleTags (recordWrite t.dev (.tagLine t.id) t.addr t.line0 s)
/-- PHASE_TAG_LINE_ISSUE (R244, R353). -/
def execPhaseTagLineIssue (cq : Nat) (s : State) := live .fab s (phaseTagLineIssueE cq)

def cqWaitTimeoutE (id : Nat) (s : State) : State :=
  withCmd id (fun c => c.phase = .ready && c.cqWaited && !c.cqLate && 10000000 < since s.devtime c.cqSince
      && (s.fe.cqOf c.cq).full) s fun c =>
    detect 8 (report 0x2A none locFront none (c.cq + 2 ^ 16)) (modCmd id (fun c => { c with cqLate := true }) s)
/-- CQ_WAIT_TIMEOUT (R343). -/
def execCqWaitTimeout (id : Nat) (s : State) := live .fab s (cqWaitTimeoutE id)

/-- Write of the driver's head (R343). -/
def cqHeadWriteE (q : Nat) (v : W32) (s : State) : State :=
  let x := s.fe.cqOf q
  let h := fld v 14 0
  if Config.numCq ≤ q then s
  else if x.en && x.size ≤ h then detect 8 (report 0x2A none locFront none (q + h * 2 ^ 32)) s
  else modCq q (fun x => { x with head := h }) s
/-- CQ_HEAD_WRITE (R343). -/
def execCqHeadWrite (q : Nat) (v : W32) (be : BitVec 4) (s : State) := ctlWrite (0xC4000 + 4 * q) be s (cqHeadWriteE q v)

def coalesceDelayExpiryE (vec : Nat) (s : State) : State :=
  let c := fget {} s.hif.coal vec
  if 0 < c.n && 1000 * fld (rget s (0xE1000 + 4 * vec)) 15 0 ≤ since s.devtime c.first then
    raiseVec vec { s with hif := { s.hif with coal := fset {} s.hif.coal vec {} } }
  else s
/-- COALESCE_DELAY_EXPIRY (R382). -/
def execCoalesceDelayExpiry (vec : Nat) (s : State) := live .hif s (coalesceDelayExpiryE vec)

/-! ## Sequencers (R360, R361) -/

/-- Positions pooled, rows delivered or promotions made by a routine. -/
def strideUnits (s : State) (c : Cmd) : Nat :=
  match c.work with
  | .move x => match s.mov.xfers.find? fun t => t.id = x with
    | some t => t.cursor
    | none => 0
  | .castle _ _ => c.strideAt
  | _ => c.rows

/-- The routine starts or resumes on its sequencer. -/
def Cmd.run (c : Cmd) (s : State) : Cmd :=
  { c with phase := .running, strideStart := s.devtime, strideAt := if c.op = .castle then 0 else strideUnits s c }

def grant (c : Cmd) (s : State) : State :=
  let s := modCmd c.id (fun c => c.run s) s
  { s with fe := grantStride c s.fe }

/-- No row of the transfer lies partly delivered beyond its cursor (R326). -/
def cleanCursor (s : State) (c : Cmd) : Bool :=
  match c.work with
  | .move x => s.mov.xfers.all fun t => t.id ≠ x || (t.rows = [] && t.high ≤ t.cursor)
  | _ => true

/-- The stride of a running routine has ended: 4,096 units or 2 µs, at a clean cursor. -/
def atBoundary (s : State) (c : Cmd) : Bool :=
  c.phase = .running && (c.op = .seqPool || c.op = .move || c.op = .castle) && cleanCursor s c
    && (2000 ≤ since s.devtime c.strideStart || 4096 ≤ (if c.op = .castle then c.strideAt else strideUnits s c - c.strideAt))

def strideBoundaryE (id : Nat) (s : State) : State :=
  withCmd id (fun c => atBoundary s c) s fun c =>
    match bestWaiter s.fe (seqKind c) with
    | none => grant c s
    | some w =>
      if entitled s.fe (seqKind c) c.ctx w.ctx then grant c s
      else grant w (modCmd id (fun c => { c with phase := .yielded, yields := c.yields + 1 }) s)
/-- STRIDE_BOUNDARY (R360). -/
def execStrideBoundary (id : Nat) (s : State) := live .fab s (strideBoundaryE id)

def sequencerGrantE (id : Nat) (s : State) : State :=
  withCmd id (fun c => (c.phase = .waitSeq || c.phase = .yielded) && seqHeld s.fe (seqKind c) < seqCount c.op
      && (bestWaiter s.fe (seqKind c)).map Cmd.id = some id) s fun c => grant c s
/-- SEQUENCER_GRANT (R360). -/
def execSequencerGrant (id : Nat) (s : State) := live .fab s (sequencerGrantE id)

end Sys2Proof.Machine
end

