-- ==== Sys2Proof/Machine/Migration.lean ====
section
/-! DEFINITION. Castling (R148 to R153), hot-row migration (R154 to R161), digest scans (R163), and the table catalogue (R165 to
R171). -/

namespace Sys2Proof.Machine

/-! ## Promotion pools (R156) -/

def poolSlots (s : State) (p : Nat) : Nat := fld (rget s (0x82048 + 16 * p)) 16 0

/-- BADPOOL: the pool lies outside partition p's near tier or overlaps a table region. -/
def badPool (s : State) (p : Nat) : Bool :=
  let a := poolBase s.regs p
  let n := 2048 * poolSlots s p
  n ≠ 0 && (!(nlBase p ≤ a && a + n ≤ nlBase p + s.mem.nlSize p) || rangeMeetsTable s.rat.com a n)

/-- Partition of a row's shard (R94). -/
def fwdPart (s : State) (t row : Nat) : Nat := (shardHome t (tableOf s t).shards row).1
def fwdSlice (s : State) (t row : Nat) : Nat := (shardHome t (tableOf s t).shards row).2

def Fwd.isForwarded (f : Fwd) : Bool := f.st ≠ .copying

/-- FORWARDED of a partition (R156). -/
def forwardedIn (s : State) (p : Nat) : Nat := (s.mig.fwd.filter fun f => f.isForwarded && fwdPart s f.table f.row = p).length

/-- Lock of the pool registers (R156, R158). -/
def migLock (s : State) : Bool := bit (rget s 0x82020) 31 || s.mig.fwd.any Fwd.isForwarded

def isRow (t side row : Nat) (f : Fwd) : Bool := f.table = t && f.side = side && f.row = row

/-- Removes a forwarding entry. A gather that has read part of the pool copy begins its row again (R33). -/
def dropFwd (f : Fwd) (s : State) : State :=
  let s := if f.isForwarded then { s with fe := restartReads f.table f.side f.row s.fe } else s
  { s with mig := { s.mig with fwd := s.mig.fwd.filter fun g => !isRow f.table f.side f.row g } }

/-- The address of a row's pool slot. -/
def slotAddr (s : State) (f : Fwd) : Nat := poolBase s.regs (fwdPart s f.table f.row) + f.slot * 2048

/-- Migration reads from their ports the sectors of a copy of a row that no slice holds (R38, R159). -/
def readCopy (k a n : Nat) (s : State) : State :=
  (rangeLines a n).foldl (fun s line =>
    let lack := sectorsOf line a n &&& ~~~(s.dc.slice k).holds line
    if lack = 0 then s else portRead .migration line lack s) s

/-- Some sector of the copy is still on its way to migration. -/
def copyPending (s : State) (a n : Nat) : Bool :=
  (rangeLines a n).any fun line => match s.mem.port (line * 128) with
    | some (p, _) => let q := portAt s.ports p
      (q.queue ++ q.sent).any fun r => isRead r && r.who = .migration && r.dline = line
    | none => false

/-- Demotion (R159): a dirty row returns home, a clean one is idle again. -/
def demote (f : Fwd) (s : State) : State :=
  let s : State := if f.st = .forwarded then
    { s with rook := { s.rook with counts := { s.rook.counts with migrations := s.rook.counts.migrations + 1 } } } else s
  if f.st = .forwarded && f.dirty then
    let go (g : Fwd) : Fwd := { g with st := .returning, at_ := s.devtime }
    readCopy (fwdSlice s f.table f.row) (slotAddr s f) (tableOf s f.table).size
      { s with mig := { s.mig with fwd := mapWhere (isRow f.table f.side f.row) go s.mig.fwd } }
  else if f.st = .returning then s
  else dropFwd f s

/-- Lines of a row in its home copy. -/
def rowLines (d : TblDesc) (side row : Nat) : List Nat := rangeLines (d.rowAddr side row) d.stride

/-- A row's lines are marked sticky, at most 4 in a set (R261). -/
def markSticky (t side row count : Nat) (s : State) : State :=
  let d := tableOf s t
  let k := fwdSlice s t row
  let s := { s with mig := { s.mig with sticky := s.mig.sticky ++ [{ table := t, side := side, row := row, count := count }] } }
  (rowLines d side row).foldl (fun s line =>
    match allocLine k line s with
    | (s, none) => s
    | (s, some l) =>
      if 4 ≤ ((s.dc.slice k).lines.filter fun x => x.set = l.set && x.sticky).length then s
      else modSlice k (fun sl => sl.put { l with sticky := true }) s) s

/-- A row's mark goes; a line that another sticky row shares stays marked. -/
def unmarkSticky (x : Sticky) (s : State) : State :=
  let s := { s with mig := { s.mig with sticky := s.mig.sticky.filter fun y => !(y.table = x.table && y.side = x.side && y.row = x.row) } }
  let shared := s.mig.sticky.flatMap fun y => if y.table = x.table && y.side = x.side then rowLines (tableOf s y.table) y.side y.row else []
  let ls := (rowLines (tableOf s x.table) x.side x.row).filter fun l => !shared.contains l
  modSlice (fwdSlice s x.table x.row) (fun sl =>
    { sl with lines := mapWhere (fun l => ls.contains l.line) (fun l => { l with sticky := false }) sl.lines }) s

/-- Lowest free slot of a partition's pool. -/
def freeSlot (s : State) (p : Nat) : Option Nat :=
  let used := (s.mig.fwd.filter fun f => fwdPart s f.table f.row = p).map Fwd.slot
  (List.range (poolSlots s p)).find? fun i => !used.contains i

def entriesOf (s : State) (k : Nat) : Nat := (s.mig.fwd.filter fun f => fwdSlice s f.table f.row = k).length
/-- The slice has its 8,192 forwarding entries (R157). -/
def entriesFull (s : State) (k : Nat) : Bool := 8192 ≤ entriesOf s k

/-- The forwarded row with the lowest count below the demotion threshold whose demotion makes room in slice k of partition p: of the
slice where its entries are full, else of the partition. -/
def coldest (s : State) (p k : Nat) : Option Fwd :=
  let here (f : Fwd) : Bool := if entriesFull s k then fwdSlice s f.table f.row = k else fwdPart s f.table f.row = p
  (s.mig.fwd.filter fun f => here f && f.st = .forwarded && f.count < s.mig.demoteAt).foldl (fun m f => match m with
    | none => some f
    | some g => if f.count < g.count then some f else some g) none

/-- A slot that passes to a row of slice k leaves the other slices, its dirty lines written back, for the slice of the row it holds is
the home of its lines (R267, R254; DESIGN CHOICE, log 23). -/
def takeSlotLines (k a : Nat) (s : State) : State :=
  (s.dc.slices.filter fun e => e.1 ≠ k).foldl (fun s e =>
    (e.2.lines.filter fun l => a / 128 ≤ l.line && l.line < a / 128 + 16).foldl (fun s l => evictLine e.1 l s) s) s

/-- Starts the copy of a far row into a pool slot, when a slot and an entry are free. -/
def startCopy (x : Promotion) (s : State) : State :=
  let t := x.table
  let row := x.row
  let p := fwdPart s t row
  match freeSlot s p with
  | none => s
  | some slot =>
    if entriesFull s (fwdSlice s t row) then s
    else if !allowed s (poolBase s.regs p + slot * 2048) 2048 then
      detect p (report 0x16 none (locPart p) (some (poolBase s.regs p + slot * 2048)) (2 * 2 ^ 62 + row + t * 2 ^ 35)) s
    else
      let f : Fwd :=
        { table := t, side := x.side, row := row, st := .copying, dirty := false, slot := slot, count := x.count, at_ := s.devtime, cmd := x.cmd }
      let k := fwdSlice s t row
      readCopy k ((tableOf s t).rowAddr x.side row) (tableOf s t).size
        (takeSlotLines k (poolBase s.regs p + slot * 2048) { s with mig := { s.mig with fwd := s.mig.fwd ++ [f] } })

/-- The same promotion as the one given. -/
def Promotion.same (x y : Promotion) : Bool := x.table = y.table && x.side = y.side && x.row = y.row

/-- Promotion of a row (R157): to the pool from the far tier, to sticky lines in the near tier. Where a dirty row must first return home
for it, the promotion waits. -/
def promote (x : Promotion) (s : State) : State :=
  let d := tableOf s x.table
  let p := fwdPart s x.table x.row
  let k := fwdSlice s x.table x.row
  if (s.mig.entry x.table x.side x.row).isSome || s.mig.waiting.any x.same
    || rowAbsent (devBytes s k (d.rowAddr x.side x.row) 8) then s
  else if s.mem.window (d.rowAddr x.side x.row) = .fi then
    if badPool s p then s
    else if (freeSlot s p).isSome && !entriesFull s k then startCopy x s
    else match coldest s p k with
      | none => s
      | some f =>
        if f.dirty then demote f { s with mig := { s.mig with waiting := s.mig.waiting ++ [x] } } else startCopy x (demote f s)
  else if s.mig.stickyOn && !(s.mig.sticky.any fun y => y.table = x.table && y.side = x.side && y.row = x.row) then
    markSticky x.table x.side x.row x.count s
  else s

/-- The CASTLE that makes a promotion, if one does, is at work: it makes none while it has yielded (R152). -/
def warmOn (f : FrontEnd) (c : Option Nat) : Bool := match c with
  | none => true
  | some id => f.cmds.any fun c => c.id = id && c.phase = .running

/-- The promotions that wait for a slot begin, in their order, as far as slots and entries are free. -/
def startWaiting (s : State) : State :=
  let ws := s.mig.waiting
  ws.foldl (fun s x =>
    if warmOn s.fe x.cmd && (freeSlot s (fwdPart s x.table x.row)).isSome && !entriesFull s (fwdSlice s x.table x.row) then
      startCopy x { s with mig := { s.mig with waiting := dropFirst (fun y => x.same y) s.mig.waiting } }
    else s) s

/-! ## Epochs (R155, R157, R158) -/

def insertTrack (x : Track) : List Track → List Track
  | [] => [x]
  | y :: l => if y.count < x.count then x :: y :: l else y :: insertTrack x l
/-- The 512 rows of a slice with the highest counts, the one tracked first among equals (DEDUCED, log 23). -/
def topRows (m : Migration) (k : Nat) : List Track :=
  ((m.track.filter fun x => x.slice = k).foldl (fun l x => insertTrack x l) []).take 512

/-- The capacity of R354 after an epoch. -/
def GatherCap.epoch (g : GatherCap) : GatherCap :=
  if g.busyNs = 0 then { g with delivered := 0 }
  else if 4 * g.delivered < g.busyNs then { delivered := 0, busyNs := 0, num := 1, den := 4 }
  else { delivered := 0, busyNs := 0, num := g.delivered, den := g.busyNs }

def halveCounts (m : Migration) : Migration :=
  { m with
    fwd := m.fwd.map fun f => { f with count := f.count / 2 }
    sticky := m.sticky.map fun x => { x with count := x.count / 2 }
    track := (m.track.map fun x => { x with count := x.count / 2 }).filter fun x => x.count ≠ 0 }

/-- Settings of MIG_CTL taken at an epoch boundary (R155); EN only once no row is forwarded after it was cleared (R158). An EN cleared
and set again between two boundaries leaves migration running, for the block acts on EN at a boundary only (DESIGN CHOICE, log 23). -/
def takeSettings (s : State) : State :=
  let r := rget s 0x82020
  let run := bit r 31 && (s.mig.running || !s.mig.fwd.any Fwd.isForwarded)
  { s with mig := { s.mig with
      running := run, stickyOn := bit r 30, promoteAt := 16 * fld r 23 16, demoteAt := 16 * fld r 15 8, epoch := fld r 7 0 } }

/-- Demotion of rows that have gone cold, or that committed with ABSENT = 1 (R157, R160). -/
def demoteCold (s : State) : State :=
  let s := (s.mig.fwd.filter fun f => f.st = .forwarded && (f.count < s.mig.demoteAt ||
      rowAbsent (devBytes s (fwdSlice s f.table f.row) (slotAddr s f) 8))).foldl
    (fun s f => demote f s) s
  (s.mig.sticky.filter fun x => x.count < s.mig.demoteAt).foldl (fun s x => unmarkSticky x s) s

def promoteHot (s : State) : State :=
  ((List.range 64).flatMap fun k => topRows s.mig k).foldl (fun s x =>
    if s.mig.promoteAt ≤ x.count && (tableOf s x.table).valid then
      (let s' := promote { table := x.table, side := x.side, row := x.row, count := x.count } s
       if s'.mig.fwd.any (isRow x.table x.side x.row) || s'.mig.sticky.any (fun y => y.table = x.table && y.side = x.side && y.row = x.row)
       then { s' with mig := { s'.mig with track := s'.mig.track.filter fun y =>
         !(y.table = x.table && y.side = x.side && y.row = x.row) } } else s')
    else s) s

/-- Migration stops (R158): nothing more is promoted, every forwarded row is demoted, every mark removed. -/
def demoteAll (s : State) : State :=
  let s := { s with mig := { s.mig with waiting := [] } }
  let s := s.mig.fwd.foldl (fun s f => demote f s) s
  s.mig.sticky.foldl (fun s x => unmarkSticky x s) s

/-- An epoch has passed since the last boundary (R154, R155). -/
def epochOver (s : State) : Bool := 10000 * s.mig.epoch ≤ since s.devtime s.mig.epochAt

/-- The epoch boundary: none before the epoch has its length. Rows are promoted before rows are demoted (DESIGN CHOICE, log 23). -/
def epochBoundaryE (s : State) : State :=
  if !epochOver s then s
  else
  let s := { s with mig := { s.mig with loadLast := s.mig.load, load := [], epochAt := s.devtime } }
  let s := { s with fe := { s.fe with caps := (List.range 8).foldl (fun m p => fmod {} m p GatherCap.epoch) s.fe.caps } }
  if s.flt.safe then s
  else
    let s := takeSettings s
    let s := if s.mig.running then demoteCold (promoteHot s) else demoteAll s
    { s with mig := halveCounts s.mig }
/-- EPOCH_BOUNDARY (R154, R157, R158, R354). -/
def execEpochBoundary (s : State) := live .fab s epochBoundaryE

/-- Copies one copy of a row over the other, through the row's home slice; poison goes with it. -/
def copyRow (k src dst n : Nat) (s : State) : State :=
  writeRow k dst n (devBytes s k src n) (rowBad s k src n) s

/-- A promotion made counts for the CASTLE whose warm phase makes it (R360). -/
def countWarm (id : Option Nat) (f : FrontEnd) : FrontEnd :=
  let g (c : Cmd) : Cmd := { c with strideAt := c.strideAt + 1 }
  { f with cmds := mapWhere (fun c => some c.id = id) g f.cmds }

/-- The copy of n bytes at address a has been read, and it is migration's turn at slice k (R37, R38). -/
def migTurn (s : State) (f : Fwd) (k a n : Nat) : Bool :=
  !s.flt.safe && !copyPending s a n && bgTurn s k (decide (63 ≤ (s.dc.slice k).gapMig)) f.at_ 1000000

def migrationCopyDoneE (t side row : Nat) (s : State) : State :=
  match s.mig.entry t side row with
  | none => s
  | some f =>
    let d := tableOf s t
    let k := fwdSlice s t row
    if f.st ≠ .copying || !warmOn s.fe f.cmd || !migTurn s f k (d.rowAddr side row) d.size then s
    else
      let s := copyRow k (d.rowAddr side row) (slotAddr s f) d.stride (modSlice k (fun sl => { sl with gapMig := 0 }) s)
      { s with
        mig := { s.mig with fwd := mapWhere (isRow t side row) (fun g => { g with st := .forwarded, cmd := none }) s.mig.fwd }
        fe := countWarm f.cmd (restartReads t side row s.fe)
        rook := { s.rook with counts := { s.rook.counts with migrations := s.rook.counts.migrations + 1 } } }
/-- MIGRATION_COPY_DONE (R159). -/
def execMigrationCopyDone (table side row : Nat) (s : State) := live .fab s (migrationCopyDoneE table side row)

/-- A returning row is written home and its entry removed. -/
def returnHome (f : Fwd) (s : State) : State :=
  let d := tableOf s f.table
  dropFwd f (copyRow (fwdSlice s f.table f.row) (slotAddr s f) (d.rowAddr f.side f.row) d.stride s)

def returnHomeDoneE (t side row : Nat) (s : State) : State :=
  match s.mig.entry t side row with
  | none => s
  | some f =>
    let k := fwdSlice s t row
    if f.st = .returning && migTurn s f k (slotAddr s f) (tableOf s t).size then
      startWaiting (returnHome f (modSlice k (fun sl => { sl with gapMig := 0 }) s))
    else s
/-- RETURN_HOME_DONE (R159). -/
def execReturnHomeDone (table side row : Nat) (s : State) := live .fab s (returnHomeDoneE table side row)

/-- Every command admitted while the side was current has completed (R161). -/
def sideReleased (s : State) (t side : Nat) : Bool :=
  (tableOf s t).cur ≠ side && s.fe.cmds.all fun c => c.home.isNone || c.phase = .checked || (c.table t).cur ≠ side

def forwardingReleaseE (t side : Nat) (s : State) : State :=
  if sideReleased s t side && !s.flt.safe then
    let s := { s with mig := { s.mig with waiting := s.mig.waiting.filter fun x => !(x.table = t && x.side = side) } }
    let s := (s.mig.fwd.filter fun f => f.table = t && f.side = side).foldl (fun s f => demote f s) s
    (s.mig.sticky.filter fun x => x.table = t && x.side = side).foldl (fun s x => unmarkSticky x s) s
  else s
/-- FORWARDING_RELEASE (R161). -/
def execForwardingRelease (table side : Nat) (s : State) := live .fab s (forwardingReleaseE table side)

/-- Write of MIG_CTL (R155). -/
def migCtlWriteE (v : W32) (s : State) : State :=
  let w := v &&& 0xC0FFFFFF#32
  rset 0x82020 (if fld v 7 0 = 0 then setFld w 7 0 (fld (rget s 0x82020) 7 0) else w) s
/-- MIG_CTL_WRITE (R155, R156). -/
def execMigCtlWrite (v : W32) (be : BitVec 4) (s : State) := ctlWrite 0x82020 be s (migCtlWriteE v)

/-! ## Castling (R149 to R153) -/

/-- Admission order of two commands. -/
def admittedBefore (a b : Cmd) : Bool := a.nAdmit < b.nAdmit

def castlesBefore (f : FrontEnd) (c : Cmd) : Bool :=
  f.cmds.any fun d => d.op = .castle && d.home.isSome && d.phase ≠ .checked && d.phase ≠ .ready && admittedBefore d c
    && (match d.work with
      | .castle sw _ => !sw
      | _ => false)
    && (caEntries d.bytes).any fun e => (caEntries c.bytes).any fun g => g.1 = e.1

def drained (u : UpdateUnit) (l : List (Nat × Nat)) : Bool := l.all fun x => x.2 < (u.target x.1).doneNo

/-- CUR of a descriptor becomes the side. -/
def TblDesc.setCur (d : TblDesc) (side : Nat) : TblDesc := { d with cfg := setFld d.cfg 28 28 side }

def switchTables (es : List (Nat × Nat)) (t : TableUnit) : TableUnit :=
  { t with desc := es.foldl (fun m e => fmod {} m e.1 fun d => d.setCur e.2) t.desc }

/-- The warm phase promotes on the new side every row forwarded or sticky on the old one. -/
def warmRows (id : Nat) (s : State) (old : FMap TblDesc) (es : List (Nat × Nat)) : State :=
  es.foldl (fun s e =>
    if (fget {} old e.1).cur = e.2 || !s.mig.running then s
    else
      let rows := ((s.mig.fwd.filter fun f => f.table = e.1 && f.side ≠ e.2 && f.isForwarded).map fun f => (f.row, f.count))
        ++ ((s.mig.sticky.filter fun x => x.table = e.1 && x.side ≠ e.2).map fun x => (x.row, x.count))
      rows.foldl (fun s r => promote { table := e.1, side := e.2, row := r.1, count := r.2, cmd := some id } s) s) s

def castleCommitPointE (id : Nat) (s : State) : State :=
  withCmd id (fun c => c.op = .castle && c.phase = .running) s fun c =>
    match c.work with
    | .castle false drain =>
      let es := caEntries c.bytes
      if !drained s.upd drain || castlesBefore s.fe c then s
      else if !es.all fun e => (tableOf s e.1).valid && (tableOf s e.1).owner = c.ctx then readyCmd id 0x14 s
      else
        let old := s.tbl.desc
        let s := { s with tbl := switchTables es s.tbl }
        if caWarm c.bytes then
          warmRows id (modCmd id (fun c => { c with work := .castle true [] }) s) old es
        else readyCmd id 0 s
    | _ => s
/-- CASTLE_COMMIT_POINT (R149, R150). -/
def execCastleCommitPoint (id : Nat) (s : State) := live .fab s (castleCommitPointE id)

def castleWarmDoneE (id : Nat) (s : State) : State :=
  withCmd id (fun c => c.op = .castle && c.phase = .running) s fun c =>
    match c.work with
    | .castle true _ =>
      let s := startWaiting s
      if (s.mig.fwd.any fun f => f.st = .copying && f.cmd = some id) || s.mig.waiting.any fun x => x.cmd = some id then s
      else readyCmd id 0 s
    | _ => s
/-- CASTLE_WARM_DONE (R149). -/
def execCastleWarmDone (id : Nat) (s : State) := live .fab s (castleWarmDoneE id)

/-! ## Digest scans (R163) -/

/-- Sum of the hashes of rows 0 to ROWS as the block reads them. -/
def sideDigest (s : State) (t side : Nat) : W64 :=
  let d := tableOf s t
  (List.range (d.rows + 1)).foldl (fun (h : W64) r =>
    h + rowHash t r (devBytes s (fwdSlice s t r) (rowCopy s t d side r).1 d.size)) 0

/-- The rows of a side that lie at unpopulated addresses are recorded when a digest is taken over them (R295, R510). -/
def recordNowhere (t : Nat) (d : TblDesc) (side : Nat) (s : State) : State :=
  ((List.range (d.rows + 1)).filter fun r => rowNowhere s (rowCopy s t d side r).1 d.size).foldl (fun s r =>
    tableNowhere (shardHome t d.shards r).2 (rowCopy s t d side r).1 t r s) s

def digestScanDoneE (t side : Nat) (s : State) : State :=
  if (fget {} s.tbl.dig (digKey t side)).st = .scanning && !s.flt.safe then
    let g : Digest := { st := .ok, val := sideDigest s t side, cursor := 0 }
    recordNowhere t (tableOf s t) side { s with tbl := { s.tbl with dig := fset {} s.tbl.dig (digKey t side) g } }
  else s
/-- DIGEST_SCAN_DONE (R163). -/
def execDigestScanDone (table side : Nat) (s : State) := live .fab s (digestScanDoneE table side)

/-! ## The catalogue (R165 to R171) -/

/-- CRC-32C. -/
def crcByte (c : Nat) (b : Byte) : Nat :=
  (List.range 8).foldl (fun c _ => if c % 2 = 1 then c / 2 ^^^ 0x82F63B78 else c / 2) (c ^^^ b.toNat)
def crc32c (b : Bytes) : Nat := (b.foldl crcByte 0xFFFFFFFF) ^^^ 0xFFFFFFFF

def catBase (s : State) : Nat := pair (rget s 0x83004 &&& 0xFFC00000#32) (rget s 0x83008 &&& 0xFFFFF#32)

/-- Device bytes as the homes serve them. -/
def deviceBytes (s : State) (a n : Nat) : Bytes := (List.range n).map fun i => devByte s (homeSlice (a + i)) (a + i)

/-- Writes bytes to device memory at once: to the port, and into a copy that a slice holds. -/
def putBytes (a : Nat) (b : Bytes) (s : State) : State :=
  let bs := placed a b
  ((bs.map fun x => x.1 / 128).eraseDups).foldl (fun s line =>
    let mine := bs.filter fun x => x.1 / 128 = line
    let k := homeSlice (line * 128)
    let s := match (s.dc.slice k).find line with
      | some l => modSlice k (fun sl => sl.put (l.merge mine false)) s
      | none => s
    portWrite .none line mine 0 s) s

/-- A slot's header and entries when it is valid (R168). -/
def slotValid (s : State) (a : Nat) : Option (Bytes × Bytes) :=
  let h := deviceBytes s a 64
  let n := num h 6 2
  let e := deviceBytes s (a + 64) (64 * n)
  if num h 0 4 = 0x43585058 && num h 4 2 = 1 && n ≤ 16384 && num h 0x3C 4 = crc32c (h.take 0x3C) && num h 0x1C 4 = crc32c e
  then some (h, e) else none

/-- An entry of R170; the reserved bits of a register never hold anything but zero (R14). -/
def parseEntry (e : Bytes) : CatEntry :=
  let w (off : Nat) (mask : W32) : W32 := BitVec.ofNat 32 (num e off 4) &&& mask
  { table := num e 0 2 % 2 ^ 14, okA := num e 2 2 % 2 = 1, okB := bits (num e 2 2) 1 1 = 1
    desc := { cfg := w 4 0x90000F1F#32, geom := w 8 0x007FFFFF#32, shard := w 0xC 0xFF#32
              rowsLo := w 0x10 0xFFFFFFFF#32, rowsHi := w 0x14 7#32
              access := w 0x18 0xFFFF0FFF#32, pg := w 0x1C 0x3FFFF#32
              aLo := w 0x20 0xFFFFF000#32, aHi := w 0x24 0xFFFFF#32
              bLo := w 0x28 0xFFFFF000#32, bHi := w 0x2C 0xFFFFF#32 }
    dgA := BitVec.ofNat 64 (num e 0x30 8), dgB := BitVec.ofNat 64 (num e 0x38 8) }

def parseSlot (x : Bytes × Bytes) : Catalogue :=
  { seq := BitVec.ofNat 64 (num x.1 8 8), reason := num x.1 0x18 1, version := BitVec.ofNat 32 (num x.1 0x20 4)
    entries := (List.range (num x.1 6 2)).map fun i => parseEntry (slice x.2 (64 * i) 64) }

/-- The valid slot with the highest SEQ, and its number. -/
def bestSlot (s : State) : Option (Nat × Catalogue) :=
  let c0 := (slotValid s (catBase s)).map parseSlot
  let c1 := (slotValid s (catBase s + 2 ^ 21)).map parseSlot
  match c0, c1 with
  | some a, some b => if a.seq < b.seq then some (1, b) else some (0, a)
  | some a, none => some (0, a)
  | none, some b => some (1, b)
  | none, none => none

/-- Entry of a table (R170). -/
def catEntry (s : State) (t : Nat) : Bytes :=
  let d := tableOf s t
  let g (k : Nat) := fget {} s.tbl.dig (digKey t k)
  let ok (k : Nat) : Nat := if (g k).st = .ok then 1 else 0
  leBytes 2 t ++ leBytes 2 (ok 0 + 2 * ok 1) ++ leBytes 4 d.cfg.toNat ++ leBytes 4 d.geom.toNat ++ leBytes 4 d.shard.toNat
    ++ leBytes 8 d.rows ++ leBytes 4 d.access.toNat ++ leBytes 4 d.pg.toNat ++ leBytes 8 (d.side 0) ++ leBytes 8 (d.side 1)
    ++ le64 (g 0).val ++ le64 (g 1).val

def catHeader (n seq : Nat) (time : W64) (reason : Nat) (entries : Bytes) : Bytes :=
  let h := leBytes 4 0x43585058 ++ leBytes 2 1 ++ leBytes 2 n ++ leBytes 8 seq ++ le64 time ++ leBytes 4 reason
    ++ leBytes 4 (crc32c entries) ++ leBytes 4 Config.idVersion.toNat ++ List.replicate 24 0
  h ++ leBytes 4 (crc32c h)

/-- A catalogue is written with a reason (R165, R168): the entries, then the header. -/
def writeCatalogue (reason : Nat) (time : W64) (s : State) : State :=
  if catBase s = 0 then s
  else
    let ts := (s.tbl.desc.filter fun e => e.2.valid).map Prod.fst
    let es := ts.flatMap (catEntry s)
    let (slot, seq) := match bestSlot s with
      | some (k, c) => (1 - k, c.seq.toNat + 1)
      | none => (0, 1)
    let a := catBase s + slot * 2 ^ 21
    putBytes a (catHeader ts.length seq time reason es) (putBytes (a + 64) es s)

/-- Write of RET_CTL (R167). -/
def retCtlWrite (v : W32) (s : State) : State :=
  let s := if bit v 1 then rset 0x83000 (rget s 0x83000 ||| 2#32) s else s
  if bit v 0 && !s.ret.busy && catBase s ≠ 0 then { s with ret := { s.ret with busy := true, reason := 4, start := s.devtime } } else s
/-- CATALOGUE_WRITE (R165, R167). -/
def execCatalogueWrite (v : W32) (be : BitVec 4) (s : State) := ctlWrite 0x83000 be s (retCtlWrite v)
/-- RET_LOCK (R167). -/
def execRetLock (v : W32) (be : BitVec 4) (s : State) := ctlWrite 0x83000 be s fun s => retCtlWrite v s

def catalogueWriteDoneE (s : State) : State :=
  if s.ret.busy && !s.flt.safe then
    let s := writeCatalogue s.ret.reason s.ret.start s
    { s with ret := { s.ret with busy := false } }
  else s
/-- CATALOGUE_WRITE_DONE (R168). -/
def execCatalogueWriteDone (s : State) := live .fab s catalogueWriteDoneE

def catalogueSelectE (s : State) : State :=
  { s with ret := { s.ret with list := if catBase s ≠ 0 then (bestSlot s).map Prod.snd else none } }
/-- CATALOGUE_SELECT (R171). -/
def execCatalogueSelect (s : State) := live .mgt s catalogueSelectE

/-! ## The steps of retention (R166) -/

/-- Dirty forwarded rows are returned home; every entry and mark is removed. -/
def returnAllHome (s : State) : State :=
  let s := s.mig.fwd.foldl (fun s f => if f.isForwarded && f.dirty then returnHome f s else dropFwd f s) s
  s.mig.sticky.foldl (fun s x => unmarkSticky x s) s

/-- M lines of the L1s go home, then every dirty DC line is written back. -/
def writeBackAll (s : State) : State :=
  let s := returnM (fun _ => true) s
  (List.range 64).foldl (fun s k => (s.dc.slice k).lines.foldl (fun s l => if l.dirty = 0 then s else cleanLine k .none l s) s) s

/-- SRE to every port (R308). -/
def selfRefreshAll (s : State) : State :=
  (s.ports.filter fun e => e.2.ready && !e.2.selfRefresh).foldl (fun s e => portEnqueue e.1 { op := .sre } s) s

end Sys2Proof.Machine
end

