-- ==== Sys2Proof/Machine/Gather.lean ====
section
/-! DEFINITION. Gather and pool (R94 to R122): sub-requests, row sectors, partial pools, output and landings. -/

namespace Sys2Proof.Machine

/-! ## Terms (R110 to R112) -/

/-- DEC of R112. -/
def decTable : List Int :=
  [32768, 31379, 30048, 28774, 27554, 26386, 25268, 24196, 23170, 22188, 21247, 20347, 19484, 18658, 17867, 17109]

/-- The bytes of a position's row. -/
def Pos.row (x : Pos) (n : Nat) : Bytes := (List.range n).flatMap fun i => ((x.got.find? fun g => g.1 = i).map Prod.snd).getD []

/-- The codes of a position's row; none for a row with an uncorrectable error, which is NaN throughout (R121). -/
def posCodes (c : Cmd) (x : Pos) : Option Codes :=
  let d := c.table x.table
  if x.bad then none else some (rowCodes d.fmt d.escK d.dim (x.row ((d.size + 31) / 32)))

/-- Terms of a position (R110), weighted by R111 or R112. -/
def posTerms (c : Cmd) (x : Pos) : List (Cod × Int) :=
  let dim := (c.table x.table).dim
  match posCodes c x with
  | none => List.replicate dim (.nan, 0)
  | some g => (List.range dim).map fun j =>
    let (t, et) := g.term j
    if gpMode c.bytes = 3 then (mulCod t (codOf 1 x.aux), et + gpWexp c.bytes - 127)
    else if gpMode c.bytes = 4 then
      let n := 16 * x.aux / gpHalf c.op c.bytes
      (mulCod t (.int (decTable.getD (n % 16) 0)), et - 15 - (n / 16 : Nat))
    else (t, et)

/-- Exact element values of a position (R115: max, last-k). -/
def posVals (c : Cmd) (x : Pos) : List Val :=
  let dim := (c.table x.table).dim
  match posCodes c x with
  | none => List.replicate dim .nan
  | some g => g.vals dim

/-! ## Partials and results (R113 to R115) -/

/-- Bound of the accumulators (R113). -/
def poolBound : Int := 2 ^ 46

/-- Partial of a partition over the positions of a bag that it holds. -/
def partialOf (c : Cmd) (dim : Nat) (xs : List Pos) : AccRow :=
  xs.foldl (fun a x => accContribution poolBound a (posTerms c x)) (accEmpty dim)

/-- A partial as a contribution at the home. -/
def partialTerms (a : AccRow) : List (Cod × Int) :=
  (a.a.zip a.sp).map fun (v, sp) => match sp with
    | .int _ => (.int (if a.e.isNone then 0 else v), a.e.getD 0)
    | c => (c, 0)

/-- Exact values of a bag's vector or vectors (R115). -/
def bagVals (c : Cmd) (t len : Nat) (xs : List Pos) : List (List Val) :=
  let dim := (c.table t).dim
  let parts := (List.range 8).filter fun p => xs.any fun x => x.part = p
  match gpMode c.bytes with
  | 2 =>
    let m (ys : List Pos) : List Val := match ys with
      | [] => List.replicate dim .zero
      | y :: l => l.foldl (fun v x => (v.zip (posVals c x)).map fun (a, b) => a.max b) (posVals c y)
    [match parts with
      | [] => List.replicate dim .zero
      | p :: l => l.foldl (fun v q => (v.zip (m (xs.filter fun x => x.part = q))).map fun (a, b) => a.max b)
          (m (xs.filter fun x => x.part = p))]
  | 5 =>
    let k := gpK c.bytes
    (List.range k).map fun i => match (xs.drop (len - k))[i]? with
      | some x => posVals c x
      | none => List.replicate dim .zero
  | md =>
    let a := parts.foldl (fun a p => accContribution poolBound a (partialTerms (partialOf c dim (xs.filter fun x => x.part = p))))
      (accEmpty dim)
    [(List.range dim).map fun j => accVal a (if md = 1 then max 1 len else 1) j]

/-- The images and the elements of a bag's output (R116, R118). -/
def bagOut (b : Bytes) (vs : List (List Val)) : Bytes × List Elem :=
  let f := gpFmt b
  if isBlockFmt f then
    let cs := vs.map fun v => (v.length, convert f 8 v)
    (cs.flatMap fun (n, x) => vecImage f n x, cs.flatMap fun (_, x) => x.elems)
  else
    let v := vs.flatten
    let x := convert f 8 v
    (vecImage f v.length x, x.elems)

/-! ## Output (R116 to R120) -/

/-- Pieces of a range within one page. -/
def pagesOf (a n : Nat) : List (Nat × Nat) :=
  if n = 0 then []
  else (List.range ((a + n - 1) / 4096 - a / 4096 + 1)).map fun i =>
    let lo := max a ((a / 4096 + i) * 4096)
    (lo, min (a + n) ((a / 4096 + i + 1) * 4096) - lo)

/-- Translations of a list of host ranges for writing: all held, one denied, refused or in a table region of HVDM, or those to ask
for. -/
inductive Ranges where
  | ok
  | denied (va : Nat)
  | refused (va : Nat)
  | table
  | ask (l : List (Nat × Bool))

/-- The translated range lies in HVDM and meets a table region. -/
def physTable (s : State) (pa n : Nat) : Bool := match hvdmOf s pa with
  | some a => rangeMeetsTable s.rat.com a n
  | none => false

def rangesNow (s : State) (ctx : Nat) (gen : W16) (write : Bool) : List (Nat × Nat) → Ranges
  | [] => .ok
  | (va, n) :: l =>
    match xlat s ctx gen va write, rangesNow s ctx gen write l with
    | .denied, _ => .denied va
    | .pa p, r => if physTable s p n then .table else if physOk s p n then r else .refused va
    | .miss nw, .ask m => .ask ((va, nw) :: m)
    | .miss nw, .ok => .ask [(va, nw)]
    | .miss _, r => r

/-- Writes bytes at a host virtual address whose pages are translated. -/
def writeVirt (c : Cmd) (va : Nat) (b : Bytes) (s : State) : State :=
  (pagesOf va b.length).foldl (fun s (a, n) =>
    match xlat s c.ctx c.gen a true with
    | .pa p => writePhys (.cmd c.id) (some c.id) p (slice b (a - va) n) s
    | _ => s) s

/-- Counters of the home site and the histogram of a written output (R70, R73, R120). -/
def countOut (c : Cmd) (es : List Elem) (s : State) : State :=
  let s := { s with mng := fmod {} s.mng (c.home.getD 0) fun m => m.add es 0 }
  modCmd c.id (fun c => { c with wrote := true, hist := histAdd c.hist (es.map Elem.q) }) s

/-- Output vectors of a gather: offset from OUT_ADDR, image, elements. -/
def gatherOut (c : Cmd) (g : Gather) : List (Nat × Bytes × List Elem) :=
  let plan := outPlan c.bytes (g.bags.map fun x => (c.table x.1).dim)
  (plan.zip (g.bags.zip (List.range g.bags.length))).map fun ((o, _), (t, len), i) =>
    (o, bagOut c.bytes (bagVals c t len (g.pos.filter fun x => x.bag = i)))

/-- The output is converted and written (R116, R117); host pages are translated first, a landing is written by LANDING_COMPLETE. No vector
is written before every bag is pooled and every page translated; then all are, in one step (DESIGN CHOICE, log 13). A byte that
translates into a table region of HVDM ends the command as R119 says. -/
def finishGather (c : Cmd) (g : Gather) (s : State) : State :=
  let outs := gatherOut c g
  let base := gpOut c.bytes
  let es := outs.flatMap fun x => x.2.2
  let setStage (st : GStage) (ph : Phase) (s : State) : State :=
    modCmd c.id (fun c => { c with phase := ph, work := .gather { g with stage := st } }) s
  if gpSpace c.bytes = 2 then setStage .landing c.phase s
  else if gpSpace c.bytes = 1 then
    match outs.find? fun x => x.2.1 ≠ [] && !allowed s (base + x.1) x.2.1.length with
    | some x => faultCmd c 0x16 (some (base + x.1)) s
    | none =>
      let s := outs.foldl (fun s x => writeDevice (.cmd c.id) (some c.id) (base + x.1) x.2.1 s) (countOut c es s)
      readyCmd c.id 0 s
  else
    match rangesNow s c.ctx c.gen true (outs.flatMap fun x => pagesOf (base + x.1) x.2.1.length) with
    | .ok => readyCmd c.id 0 (outs.foldl (fun s x => writeVirt c (base + x.1) x.2.1 s) (countOut c es s))
    | .denied va => faultCmd c 0x15 (some va) s
    | .refused va => faultCmd c 0x16 (some va) s
    | .table => readyCmd c.id 0x13 s
    | .ask l => l.foldl (fun s (va, nw) => askXlat c.ctx c.gen va nw (.cmd c.id) 0 s) (setStage .outXlat .xlat s)

/-! ## Start of a gather -/

/-- Sub-requests to the partitions that hold positions (R114). -/
def startGather (c : Cmd) (ph : Phase) (bags : List (Nat × Nat)) (pos : List Pos) (s : State) : State :=
  let parts := (List.range 8).filter fun p => pos.any fun x => x.part = p
  let g : Gather := { stage := .gather, bags := bags, pos := pos, subs := parts.map fun p => (p, .sent) }
  let c := { c with phase := ph, work := .gather g }
  let s := modCmd c.id (fun _ => c) s
  if parts = [] && ph = .running then finishGather c g s else s

/-- Memory that a command reads: its bytes with the device ranges read, the fault source and the failing address, or the translations
and the device ranges that it waits for. -/
inductive PoolRead where
  | ok (b : Bytes) (devs : List (Nat × Nat))
  | bad (source addr : Nat)
  | wait (asks : List (Nat × Bool)) (devs : List (Nat × Nat))
deriving DecidableEq, Repr

/-- Two reads, one after the other: the first failure stands, else what either waits for is asked for. -/
def PoolRead.then_ : PoolRead → PoolRead → PoolRead
  | .bad s a, _ => .bad s a
  | _, .bad s a => .bad s a
  | .ok b d, .ok c e => .ok (b ++ c) (d ++ e)
  | .ok _ _, .wait l e => .wait l e
  | .wait l e, .ok _ _ => .wait l e
  | .wait l d, .wait m e => .wait (l ++ m) (d ++ e)

/-- A device range, as the homes serve it. -/
def devPiece (s : State) (a n : Nat) : PoolRead := match devRead s a n with
  | .ok b => .ok b [(a, n)]
  | .bad src x => .bad src x
  | .wait => .wait [] [(a, n)]

/-- A range of one page at a host virtual address `va`, of which the host gave `host` (R312 to R314): through the ATC; a page that lies
in HVDM is read within the block, and of host memory the block's own copy stands before the host's (R313, R282). -/
def virtPiece (s : State) (ctx : Nat) (gen : W16) (va n : Nat) (host : ReadBack) : PoolRead :=
  match xlat s ctx gen va false with
  | .miss nw => .wait [(va, nw)] []
  | .denied => .bad 0x15 va
  | .pa p => match hvdmOf s p with
    | some a => match devPiece s a n with
      | .bad src x => .bad src (va + (x - a))
      | r => r
    | none => match host, (List.range n).find? fun i => hostBad s (p + i) with
      | .data b, none => .ok ((List.range n).map fun i => hostByte s (p + i) (b.getD i 0)) []
      | .data _, some i => .bad 0x15 (va + i)
      | _, _ => .bad 0x15 va

/-- A range at a host virtual address. -/
def virtRead (s : State) (ctx : Nat) (gen : W16) (va n : Nat) (host : ReadBack) : PoolRead :=
  (pagesOf va n).foldl (fun r x => r.then_ (virtPiece s ctx gen x.1 x.2 (match host with
    | .data b => .data (slice b (x.1 - va) x.2)
    | h => h))) (.ok [] [])

/-- What a pool reads of its bag list or its arrays: in host memory, of which the operand brings the bytes, or in device memory (R117;
DESIGN CHOICE, log 15). -/
def poolRead (s : State) (c : Cmd) (a n : Nat) (host : ReadBack) : PoolRead :=
  if n = 0 then .ok [] []
  else if gpSpace c.bytes = 0 then virtRead s c.ctx c.gen a n host
  else devPiece s a n

/-- Asks for what a read of the command waits for. -/
def askFor (c : Cmd) (asks : List (Nat × Bool)) (devs : List (Nat × Nat)) (s : State) : State :=
  let s := asks.foldl (fun s x => askXlat c.ctx c.gen x.1 x.2 (.cmd c.id) 0 s) s
  devs.foldl (fun s x => askDevice x.1 x.2 s) s

/-- The device ranges have been read. -/
def doneRanges (devs : List (Nat × Nat)) (s : State) : State := devs.foldl (fun s x => doneDevice x.1 x.2 s) s

/-- Bytes of an index array at address `a` with its AUX values (R105). -/
def arrayLen (b : Bytes) (a n : Nat) : Nat :=
  if gpAux b = 0 then n * gpIdxW b else auxOff a n (gpIdxW b) + 2 * n

def gatherPoolE (c : Cmd) (s : State) : State :=
  if hdrForm c.bytes then modCmd c.id (fun c => { c with phase := .running, work := .gather { stage := .list } }) s
  else startGather c .running ((inlineLens c.bytes).map fun n => (gpTable c.bytes, n)) (inlinePos c) s
/-- GATHER_POOL (R99 to R106). -/
def execGatherPool (id : Nat) (s : State) := live .fab s fun s => startOp id .gatherPool s gatherPoolE

def seqPoolE (arr : ReadBack) (c : Cmd) (s : State) : State :=
  let b := c.bytes
  let t := gpTable b
  let n := spCount b
  let bags := [(t, n)]
  if gpRange b then startGather c .waitSeq bags (rangePos b t (c.table t)) s
  else match poolRead s c (gpSrc b) (arrayLen b (gpSrc b) n) arr with
    | .bad src a => faultCmd c src (some a) s
    | .wait l d => askFor c l d s
    | .ok x d => startGather c .waitSeq bags (arrayPos b 0 t (c.table t) (gpSrc b) n x) (doneRanges d s)
/-- SEQ_POOL (R107 to R109): it takes a pooling sequencer of its home. -/
def execSeqPool (id : Nat) (arr : ReadBack) (s : State) := live .fab s fun s => startOp id .seqPool s (seqPoolE arr)

/-! ## The bag list (R104 to R106, R511) -/

structure BagEnt where
  addr : Nat
  len : Nat
  table : Nat
  reserved : Bool
  own : Bool
deriving DecidableEq, Repr

def bagEnt (b list : Bytes) (i : Nat) : BagEnt :=
  let e := slice list (16 * i) 16
  let bt := num e 12 2
  { addr := num e 0 8, len := num e 8 4 % 2 ^ 23, table := if 2 ^ 15 ≤ bt then bt % 2 ^ 14 else gpTable b,
    reserved := 2 ^ 23 ≤ num e 8 4 || bits bt 14 14 ≠ 0 || num e 14 2 ≠ 0, own := 2 ^ 15 ≤ bt }

/-- Status of the second stage of R511; 0 when it passes. -/
def bagListStatus (s : State) (c : Cmd) (es : List BagEnt) : Byte :=
  if es.any BagEnt.reserved then 0x11
  else if es.any (fun e => 4194304 < e.len) || outBad s c.ctx c.bytes (c.home.getD 0) (es.map fun e => (c.table e.table).dim) then 0x13
  else if es.any fun e => !mayRead c.tgroup c.ctx (c.table e.table) then 0x14
  else 0

/-- The arrays of the bags, read one after another; their bytes are found again by their lengths. -/
def bagArrays (s : State) (c : Cmd) (es : List BagEnt) (arrays : List ReadBack) : PoolRead :=
  (es.zip (List.range es.length)).foldl (fun r (e, i) =>
    r.then_ (poolRead s c e.addr (arrayLen c.bytes e.addr e.len) (arrays.getD i .failed))) (.ok [] [])

/-- Positions of the bags from the bytes of their arrays. -/
def bagsPos (c : Cmd) : List BagEnt → Nat → Bytes → List Pos
  | [], _, _ => []
  | e :: es, i, x =>
    let n := arrayLen c.bytes e.addr e.len
    arrayPos c.bytes i e.table (c.table e.table) e.addr e.len (x.take n) ++ bagsPos c es (i + 1) (x.drop n)

def bagListReadDoneE (id : Nat) (list : ReadBack) (arrays : List ReadBack) (s : State) : State :=
  withCmd id (fun c => c.op = .gatherPool && c.phase = .running) s fun c =>
    match c.work with
    | .gather { stage := .list, .. } =>
      let b := c.bytes
      match poolRead s c (gpSrc b) (16 * gpBags b) list with
      | .bad src a => faultCmd c src (some a) s
      | .wait l d => askFor c l d s
      | .ok x ds =>
        let es := (List.range (gpBags b)).map (bagEnt b x)
        let st := bagListStatus s c es
        if st ≠ 0 then readyCmd id st (doneRanges ds s)
        else match bagArrays s c es arrays with
          | .bad src a => faultCmd c src (some a) (doneRanges ds s)
          | .wait l d => askFor c l d s
          | .ok y d =>
            let land := landTeams s c.ctx b (c.home.getD 0) (es.map fun e => (c.table e.table).dim)
            startGather { c with landTo := land } .running (es.map fun e => (e.table, e.len)) (bagsPos c es 0 y)
              (doneRanges (ds ++ d) s)
    | _ => s
/-- BAG_LIST_READ_DONE (R104 to R106). -/
def execBagListReadDone (id : Nat) (list : ReadBack) (arrays : List ReadBack) (s : State) :=
  live .fab s (bagListReadDoneE id list arrays)

/-! ## Rows (R94 to R97, R121, R257) -/

/-- Row of a position: its own or the default row. -/
def Pos.rowNo (x : Pos) (d : TblDesc) : Nat := if x.dflt then d.rows else x.ix

/-- Home slice and device address of the copy that a position reads. -/
def posAddr (s : State) (c : Cmd) (x : Pos) : Nat × Nat :=
  let d := c.table x.table
  ((shardHome x.table d.shards (x.rowNo d)).2, (rowCopy s x.table d d.cur (x.rowNo d)).1)

/-- Lines of a copy that its slice does not keep are waited for (R268). -/
def wantRow (a n : Nat) (s : State) : State :=
  let ls := (rangeLines a n).filter fun l => 2 ≤ policyAt s.rat.com (l * 128) && !s.dc.want.contains l
  if ls = [] then s else { s with dc := { s.dc with want := s.dc.want ++ ls } }

/-- The row of a position is asked of its home; `first` when the position asks for the first time. -/
def fetchPos (first : Bool) (c : Cmd) (s : State) (x : Pos) : State :=
  let (k, a) := posAddr s c x
  let n := (c.table x.table).size
  if s.mem.window a = .nowhere then s else fetchRange first k a n (wantRow a n s)

/-- The look-ahead of a SEQ_POOL with RANGE = 1: the row of the position after one pooled is prefetched (R271; how far ahead is
DESIGN CHOICE, log 43). -/
def lookAhead (c : Cmd) (g : Gather) (i : Nat) (s : State) : State :=
  if c.op ≠ .seqPool || !gpRange c.bytes then s
  else match g.pos[i + 1]? with
    | none => s
    | some x =>
      let (k, a) := posAddr s c x
      (rangeLines a (c.table x.table).size).foldl (fun s l => prefetch k l s) s

/-- Gathers whose sub-request waits at the engines of a partition (R357). -/
def gatherReqs (s : State) (part : Nat) : List (Nat × Nat) :=
  (s.fe.cmds.filter fun c => c.phase = .running && match c.work with
    | .gather g => g.stage = .gather && g.subs.contains (part, .sent)
    | _ => false).map fun c => (c.ctx, c.sq)

def gatherSubrequestE (id part : Nat) (s : State) : State :=
  withCmd id (fun c => c.phase = .running) s fun c =>
    match c.work with
    | .gather g =>
      let xs := g.pos.filter fun x => x.part = part && !x.done
      if g.stage ≠ .gather || !g.subs.contains (part, .sent) || !s.fe.mayServe (.gather part) (gatherReqs s part) (c.ctx, c.sq) then s
      else
        let s := { s with fe := s.fe.serve (.gather part) (gatherReqs s part) (c.ctx, c.sq) xs.length }
        let s := wakePart part { s with pwr := s.pwr.startClk (64 + part) }
        let s := xs.foldl (fun s x => fetchPos true c s x) s
        modCmd id (fun c => { c with work := .gather { g with subs := g.subs.map fun y => if y.1 = part then (part, .received) else y } }) s
    | _ => s
/-- GATHER_SUBREQUEST (R114, R357): its row fetches are as many grants of the engines. -/
def execGatherSubrequest (id part : Nat) (s : State) :=
  live (.part part) s fun s => if clusterInReset s (64 + part) then s else gatherSubrequestE id part s

/-- A sector as the home slice has it now: with its data, with an error, or still on its way. -/
inductive SectorNow where
  | wait
  | data (b : Bytes) (bad : Bool)

def sectorNow (s : State) (k a : Nat) : SectorNow :=
  let l := a / 128
  let j := a / 32 % 4
  let got := s.dc.got.find? fun r => r.line = l && r.sm.getLsbD j
  if ratWait s l then .wait
  else if ((s.dc.slice k).holds l).getLsbD j then .data (devBytes s k (32 * (a / 32)) 32) (secPoison s k (a / 32))
  else match got with
    | some r => .data (slice r.data (32 * j) 32) (r.poison.getLsbD j)
    | none => if deadAt s a || (s.mem.port a).isNone then .data (List.replicate 32 0) true else .wait

/-- A row read counts at its shard and at its home slice (R154, R157). -/
def countRead (t row : Nat) (d : TblDesc) (a : Nat) (s : State) : State :=
  let (p, k) := shardHome t d.shards row
  let side := d.cur
  let is (f : Fwd) : Bool := isRow t side row f
  let isS (x : Sticky) : Bool := x.table = t && x.side = side && x.row = row
  let isT (x : Track) : Bool := x.slice = k && x.table = t && x.side = side && x.row = row
  let far : Bool := s.mem.window a = .fi
  let m : Migration := s.mig
  let m := { m with load := fmod {} m.load (8 * t + p) fun l =>
    { l with reads := sat31 l.reads 1, far := if far then sat31 l.far 1 else l.far } }
  let m := if m.fwd.any is then { m with fwd := mapWhere is (fun f => { f with count := f.count + 1 }) m.fwd }
    else if m.sticky.any isS then { m with sticky := mapWhere isS (fun x => { x with count := x.count + 1 }) m.sticky }
    else if m.track.any isT then { m with track := mapWhere isT (fun x => { x with count := x.count + 1 }) m.track }
    else { m with track := m.track ++ [Track.mk k t side row 1] }
  { s with mig := m }

/-- A position that read the default row (R97, R154). -/
def countDefault (x : Pos) (d : TblDesc) (s : State) : State :=
  let s := rcount (0x71000 + 16 * x.part + (if d.rows ≤ x.ix then 0 else 4)) 1 s
  { s with
    mig := { s.mig with load := fmod {} s.mig.load (8 * x.table + x.part) fun l => { l with dflt := sat31 l.dflt 1 } }
    rook := { s.rook with counts := { s.rook.counts with defaults := s.rook.counts.defaults + 1 } } }

/-- A position's row is whole and pooled (R97, R121, R354). -/
def poolPos (c : Cmd) (g : Gather) (i : Nat) (x : Pos) (k a : Nat) (s : State) : State :=
  let d := c.table x.table
  let s := countRead x.table (x.rowNo d) d a s
  let s := if x.dflt then countDefault x d s else s
  let isOver := match posCodes c x with
    | some codes => codes.isOver
    | none => 0
  let s := { s with
    mng := fmod {} s.mng (c.home.getD 0) fun m => m.add [] isOver
    rook := { s.rook with counts := { s.rook.counts with rows := s.rook.counts.rows + 1 } }
    fe := { s.fe with caps := fmod {} s.fe.caps x.part fun q => { q with delivered := q.delivered + 1 } } }
  let s := if x.bad then
    detectFor c.id x.part (report 0x18 (some c.ctx) (locSlice k) (some a) (x.rowNo d + x.table * 2 ^ 35)) s else s
  let s := lookAhead c g i (doneDevice a d.size s)
  modCmd c.id (fun c => { c with
    work := .gather { g with pos := g.pos.set i { x with done := true } }
    rows := c.rows + 1
    defaults := c.defaults + (if x.dflt then 1 else 0)
    status := if x.bad then 0x20 else c.status }) s

/-- A table path that reaches an unpopulated address (R295). -/
def unpopulated (c : Cmd) (x : Pos) (k a : Nat) (s : State) : State :=
  if s.mem.window a = .nowhere then
    detectFor c.id x.part (report 0x16 (some c.ctx) (locSlice k) (some a)
      (2 * 2 ^ 62 + x.rowNo (c.table x.table) + x.table * 2 ^ 35)) s
  else s

/-- One sector of a position's row arrives. A row found ABSENT gives way to the default row (R96). -/
def sectorArrives (c : Cmd) (g : Gather) (i : Nat) (x : Pos) (sec k a : Nat) (b : Bytes) (bad : Bool) (s : State) : State :=
  let d := c.table x.table
  let s := useSide k ((a + 32 * sec) / 128) (if sec = 0 then unpopulated c x k a s else s)
  if sec = 0 && !bad && !x.dflt && rowAbsent b then
    let y : Pos := { x with dflt := true, got := [], bad := false }
    let s := countRead x.table x.ix d a (doneDevice a d.size s)
    fetchPos true c (modCmd c.id (fun c => { c with work := .gather { g with pos := g.pos.set i y } }) s) y
  else
    let y : Pos := { x with got := (sec, b) :: x.got, bad := x.bad || bad }
    if (List.range ((d.size + 31) / 32)).all fun j => y.got.any fun e => e.1 = j then
      poolPos c { g with pos := g.pos.set i y } i y k a s
    else modCmd c.id (fun c => { c with work := .gather { g with pos := g.pos.set i y } }) s

def rowSectorArrivalE (id part pos sec : Nat) (s : State) : State :=
  withCmd id (fun c => c.phase = .running) s fun c =>
    match c.work with
    | .gather g =>
      match g.pos[pos]? with
      | none => s
      | some x =>
        if x.part ≠ part || x.done || !g.subs.contains (part, .received) || ((c.table x.table).size + 31) / 32 ≤ sec
            || x.got.any (fun e => e.1 = sec) || (sec ≠ 0 && !x.got.any fun e => e.1 = 0) then s
        else
          let (k, a) := posAddr s c x
          match sectorNow s k (a + 32 * sec) with
          | .wait => fetchPos false c s x
          | .data b bad => sectorArrives c g pos x sec k a b bad s
    | _ => s
/-- ROW_SECTOR_ARRIVAL (R257, R96, R121). -/
def execRowSectorArrival (id part pos sector : Nat) (s : State) :=
  live (.part part) s fun s => if clusterInReset s (64 + part) then s else rowSectorArrivalE id part pos sector s

/-! ## Partial pools and landings -/

def partialPoolArrivalE (id part : Nat) (s : State) : State :=
  withCmd id (fun c => c.phase = .running) s fun c =>
    match c.work with
    | .gather g =>
      if g.stage ≠ .gather || !g.subs.contains (part, .received) || !(g.pos.all fun x => x.part ≠ part || x.done) then s
      else
        let g := { g with subs := g.subs.map fun y => if y.1 = part then (part, .combined) else y }
        if g.subs.all fun y => y.2 = .combined then finishGather c g s
        else modCmd id (fun c => { c with work := .gather g }) s
    | _ => s
/-- PARTIAL_POOL_ARRIVAL (R114 to R119). -/
def execPartialPoolArrival (id part : Nat) (s : State) := live .fab s (partialPoolArrivalE id part)

/-- Writes bytes of a core's local store. -/
def writeLs (core a : Nat) (b : Bytes) (s : State) : State :=
  { s with simt := { s.simt with cores := fmod {} s.simt.cores core fun k =>
    { k with ls := memWrite k.ls (placed a b), lsBad := k.lsBad.filter fun e => !(a ≤ e.1 && e.1 < a + b.length) } } }

/-- The allocation of a team on the core has not been freed (R206). -/
def teamHeld (s : State) (core l t : Nat) : Bool :=
  s.simt.launches.any fun x => x.id = l && x.teams.any fun y => y.num = t && y.core = core

def landingCompleteE (id : Nat) (s : State) : State :=
  withCmd id (fun c => c.phase = .running) s fun c =>
    match c.work with
    | .gather g =>
      if g.stage ≠ .landing then s
      else
        let core := outCore c.bytes (c.home.getD 0)
        let outs := gatherOut c g
        let a := outLs c.bytes
        match c.landTo with
        | [] => readyCmd id 0x20 (detectFor id (partOfCore core) (report 0x17 (some c.ctx) (locCore core) none (cidOf c)) s)
        | (l, _) :: _ =>
          if c.landTo.all fun x => teamHeld s core x.1 x.2 then
            let s := countOut c (outs.flatMap fun x => x.2.2) s
            let s := outs.foldl (fun s x => writeLs core (a + x.1) x.2.1 s) s
            let s := { s with simt := { s.simt with cores := fmod {} s.simt.cores core fun k =>
              { k with land := fmod 0 k.land l (· + 1) } } }
            readyCmd id 0 s
          else readyCmd id 0x20 (detectFor id (partOfCore core) (report 0x17 (some c.ctx) (locCore core) none (cidOf c)) s)
    | _ => s
/-- LANDING_COMPLETE (R205, R206). -/
def execLandingComplete (id : Nat) (s : State) := live .fab s (landingCompleteE id)

end Sys2Proof.Machine
end

