-- ==== Sys2Proof/Machine/Tables.lean ====
section
/-! DEFINITION. The commit windows (R15, R16, R503 to R505): table descriptors (R83 to R89), contexts (R329 to R332), queues
(R335 to R342), atomic grants (R315), the region attribute table (R263 to R266) and their staged members; way roles (R273,
R274), L1 enables (R278, R279) and partition power control (R475). -/

namespace Sys2Proof.Machine

/-! ## Table descriptors (R84, R89, R163) -/

def tblSelE (v : W32) (s : State) : State :=
  let t := fld v 13 0
  { s with tbl := { s.tbl with sel := t, staged := tableOf s t, result := 0 } }
/-- TBL_SEL (R84). -/
def execTblSel (v : W32) (be : BitVec 4) (s : State) := ctlWrite 0x70000 be s (tblSelE v)

/-- Fields that a commit must not change while the committed VALID is 1 (R89). -/
def descDiffers (a b : TblDesc) : Bool :=
  !(a.fmt = b.fmt && a.escK = b.escK && a.geom = b.geom && a.rowsLo = b.rowsLo && a.rowsHi = b.rowsHi && a.shard = b.shard
    && a.aLo = b.aLo && a.aHi = b.aHi && a.bLo = b.bLo && a.bHi = b.bHi)

def commitRefused (rat : FMap RatEnt) (old new : TblDesc) : Bool :=
  (new.valid && descBad rat new) || (old.valid && descDiffers old new)

/-- Digest states after a commit (R163). -/
def digAfter (t : Nat) (was is : Bool) (m : FMap Digest) : FMap Digest :=
  let set (d : Digest) := fset {} (fset {} m (digKey t 0) d) (digKey t 1) d
  if !was && is then set { st := .scanning, val := 0, cursor := 0 } else if was && !is then set {} else m

/-- An applied commit of a descriptor: the staged CUR only when VALID becomes 1 (R85, R89). -/
def TableUnit.apply (u : TableUnit) (t : Nat) (new : TblDesc) : TableUnit :=
  let old := fget {} u.desc t
  let new := if !old.valid && new.valid then new else new.setCur old.cur
  { u with desc := fset {} u.desc t new, dig := digAfter t old.valid new.valid u.dig }

def tblCmtE (v : W32) (s : State) : State :=
  if !bit v 0 then s
  else if commitRefused s.rat.com (tableOf s s.tbl.sel) s.tbl.staged then { s with tbl := { s.tbl with result := 2 } }
  else { s with tbl := { s.tbl.apply s.tbl.sel s.tbl.staged with result := 1 } }
/-- TBL_CMT (R88, R89). -/
def execTblCmt (v : W32) (be : BitVec 4) (s : State) := ctlWrite 0x70030 be s (tblCmtE v)

/-! ## Contexts (R329 to R332) -/

def ctxSelE (v : W32) (s : State) : State :=
  let c := s.fe.ctxOf (fld v 11 0)
  { s with fe := { s.fe with ctxSel := fld v 11 0, ctxStaged := { cfg := c.cfg, pasid := c.pasid, share := c.share }, ctxResult := 0 } }
/-- CTX_SEL (R329). -/
def execCtxSel (v : W32) (be : BitVec 4) (s : State) := ctlWrite 0xC0000 be s (ctxSelE v)

/-- The commit of a context is refused (R331). -/
def ctxRefused (f : FrontEnd) (k : Nat) (r : CtxRegs) : Bool :=
  let c := f.ctxOf k
  let en := bit r.cfg 31
  (en && (fld r.cfg 23 16 = 0 || fld r.share 15 8 = 0))
  || (bit c.cfg 31 && en && r.pasid ≠ c.pasid)
  || (bit c.cfg 31 && !en && (f.sq.any (fun e => e.2.en && e.2.ctx = k) || f.cmds.any fun x => x.ctx = k))
  || c.state = 2#2

/-- An applied commit; enabling increments GEN (R332). -/
def Ctx.apply (c : Ctx) (r : CtxRegs) : Ctx :=
  { cfg := r.cfg, pasid := r.pasid, share := r.share, state := if bit r.cfg 31 then 1 else 0
    gen := if bit r.cfg 31 && !bit c.cfg 31 then c.gen + 1 else c.gen }

def ctxCmtE (v : W32) (s : State) : State :=
  if !bit v 0 then s
  else if ctxRefused s.fe s.fe.ctxSel s.fe.ctxStaged then { s with fe := { s.fe with ctxResult := 2 } }
  else modCtx s.fe.ctxSel (fun c => c.apply s.fe.ctxStaged) { s with fe := { s.fe with ctxResult := 1 } }
/-- CTX_CMT (R331, R332). -/
def execCtxCmt (v : W32) (be : BitVec 4) (s : State) := ctlWrite 0xC0010 be s (ctxCmtE v)

/-! ## Submission queues (R335 to R337) -/

def qctlSqSelE (v : W32) (s : State) : State :=
  { s with fe := { s.fe with sqSel := fld v 13 0, sqStaged := (s.fe.sqOf (fld v 13 0)).regs, sqResult := 0 } }
/-- QCTL_SQ_SEL (R335). -/
def execQctlSqSel (v : W32) (be : BitVec 4) (s : State) := ctlWrite 0xC1000 be s (qctlSqSelE v)

/-- The commit of an SQ is refused (R337). -/
def sqRefused (f : FrontEnd) (old new : QRegs) : Bool :=
  let log := fld new.cfg 29 26
  let ring := bit new.cfg 30
  bit new.cfg 31 && ((ring && !(6 ≤ log && log ≤ 15))
    || (!ring && (log ≠ 0 || fld new.baseLo 31 12 ≠ 0 || fld new.baseHi 24 0 ≠ 0))
    || !bit (f.ctxOf (fld new.aux 11 0)).cfg 31 || !(f.cqOf (fld new.aux 27 16)).en
    || (bit old.cfg 31 && !(setFld old.cfg 9 0 0 = setFld new.cfg 9 0 0 && old.aux = new.aux && old.baseLo = new.baseLo
        && old.baseHi = new.baseHi)))

/-- An applied commit of an SQ: enabling starts it afresh, disabling discards what has not been read (R337, R354). -/
def Sq.apply (q : Sq) (r : QRegs) : Sq :=
  if bit r.cfg 31 && !q.en then { regs := r }
  else if q.en && !bit r.cfg 31 then { q with regs := r, recv := [] }
  else { q with regs := r }

def qctlSqCmtE (v : W32) (s : State) : State :=
  let q := s.fe.sqSel
  if !bit v 0 then s
  else if sqRefused s.fe (s.fe.sqOf q).regs s.fe.sqStaged then { s with fe := { s.fe with sqResult := 2 } }
  else
    let off : Bool := !(s.fe.sqOf q).en || !bit s.fe.sqStaged.cfg 31
    modSq q (fun x => x.apply s.fe.sqStaged)
      { s with fe := { s.fe with sqResult := 1, ring := if off then fset [] s.fe.ring q [] else s.fe.ring } }
/-- QCTL_SQ_CMT (R337). -/
def execQctlSqCmt (v : W32) (be : BitVec 4) (s : State) := ctlWrite 0xC1014 be s (qctlSqCmtE v)

/-! ## Completion queues (R341, R342) -/

def qctlCqSelE (v : W32) (s : State) : State :=
  { s with fe := { s.fe with cqSel := fld v 11 0, cqStaged := (s.fe.cqOf (fld v 11 0)).regs, cqResult := 0 } }
/-- QCTL_CQ_SEL (R341). -/
def execQctlCqSel (v : W32) (be : BitVec 4) (s : State) := ctlWrite 0xC2000 be s (qctlCqSelE v)

/-- The commit of a CQ is refused (R342). -/
def cqRefused (f : FrontEnd) (k : Nat) (old new : QRegs) : Bool :=
  let en := bit new.cfg 31
  (en && !(4 ≤ fld new.cfg 23 20 && fld new.cfg 23 20 ≤ 15))
  || (en && bit new.cfg 30 && fld new.baseHi 24 20 ≠ 0)
  || (bit old.cfg 31 && en && new ≠ old)
  || (bit old.cfg 31 && !en && f.sq.any fun e => e.2.en && e.2.cq = k)

def Cq.apply (q : Cq) (r : QRegs) : Cq := if bit r.cfg 31 && !q.en then { regs := r } else { q with regs := r }

def qctlCqCmtE (v : W32) (s : State) : State :=
  let q := s.fe.cqSel
  if !bit v 0 then s
  else if cqRefused s.fe q (s.fe.cqOf q).regs s.fe.cqStaged then { s with fe := { s.fe with cqResult := 2 } }
  else modCq q (fun x => x.apply s.fe.cqStaged) { s with fe := { s.fe with cqResult := 1 } }
/-- QCTL_CQ_CMT (R342). -/
def execQctlCqCmt (v : W32) (be : BitVec 4) (s : State) := ctlWrite 0xC2014 be s (qctlCqCmtE v)

/-! ## Atomic grants (R315). Entry e of context c has key 8 × c + e. -/

def atgKey (v : W32) : Nat := 8 * fld v 11 0 + fld v 14 12
def Grant.base (g : Grant) : Nat := pair (g.lo &&& 0xFFFFF000#32) (g.hi &&& 0x1FFFFFF#32)
def Grant.log2 (g : Grant) : Nat := fld g.lo 5 0
def Grant.en (g : Grant) : Bool := bit g.hi 31

def atgSelE (v : W32) (s : State) : State :=
  { s with fe := { s.fe with atgSel := atgKey v, atgStaged := fget {} s.fe.atg (atgKey v), atgResult := 0 } }
/-- ATG_SEL (R315). -/
def execAtgSel (v : W32) (be : BitVec 4) (s : State) := ctlWrite 0xB1000 be s (atgSelE v)

def Grant.bad (g : Grant) : Bool := !(12 ≤ g.log2 && g.log2 ≤ 47) || g.base % 2 ^ g.log2 ≠ 0

def atgCmtE (v : W32) (s : State) : State :=
  if !bit v 0 then s
  else if s.fe.atgStaged.bad then { s with fe := { s.fe with atgResult := 2 } }
  else { s with fe := { s.fe with atg := fset {} s.fe.atg s.fe.atgSel s.fe.atgStaged, atgResult := 1 } }
/-- ATG_CMT (R315). -/
def execAtgCmt (v : W32) (be : BitVec 4) (s : State) := ctlWrite 0xB100C be s (atgCmtE v)

/-! ## The region attribute table (R264 to R266) -/

/-- Enabled entries with their indices. -/
def ratEnabled (t : FMap RatEnt) : List (Nat × RatEnt) := t.filter fun e => e.2.en

/-- The commit of the region attribute table is refused (R265). -/
def ratRefused (s : State) (t : FMap RatEnt) : Bool :=
  let es := ratEnabled t
  (es.any fun a => es.any fun b => a.1 ≠ b.1 && a.2.base < b.2.limit && b.2.base < a.2.limit)
  || (es.any fun e => e.2.limit ≤ e.2.base)
  || (es.any fun e => e.2.table && 2 ≤ e.2.policy)
  || (es.any fun e => e.2.base < scrBase + 2 ^ 26 && scrBase < e.2.limit)
  || (s.tbl.desc.any fun d => d.2.valid &&
      !(rangeInTable t (d.2.side 0) ((d.2.rows + 1) * d.2.stride) && rangeInTable t (d.2.side 1) ((d.2.rows + 1) * d.2.stride)))
  || (migLock s && (List.range 8).any fun p => poolSlots s p ≠ 0 && rangeMeetsTable t (poolBase s.regs p) (2048 * poolSlots s p))

def ratCmtE (v : W32) (s : State) : State :=
  if !bit v 0 || s.rat.busy then s
  else if ratRefused s s.rat.staged then { s with rat := { s.rat with result := 2 } }
  else { s with rat := { s.rat with result := 0, busy := true, applying := s.rat.staged } }
/-- RAT_CMT (R264, R265). -/
def execRatCmt (v : W32) (be : BitVec 4) (s : State) := ctlWrite 0xA1000 be s (ratCmtE v)

/-- Writes back and drops the affected copies, then applies the entries. The contents of a disabled L1 stay (R279). -/
def ratApply (s : State) : State :=
  let hit (l : Nat) : Bool := ratAffected s.rat.com s.rat.applying l
  let s := returnM (fun l => hit l.line) s
  let s := (List.range 64).foldl (fun s k => (s.dc.slice k).lines.foldl (fun s l => if hit l.line then evictLine k l s else s) s) s
  let s := (s.dc.slices.flatMap fun e => ((e.2.fills ++ e.2.pfills).filter hit).map fun l => (e.1, l)).foldl (fun s x =>
    orphanFill x.1 x.2 s) s
  let f (e : Nat × Slice) : Nat × Slice :=
    (e.1, { e.2 with side := e.2.side.filter (fun x => !hit x.line), dir := e.2.dir.filter (fun x => !hit x.line) })
  let g (e : Nat × Core) : Nat × Core :=
    (e.1, { e.2 with l1 := e.2.l1.filter (fun l => !(hit l.line && l1On s e.1)), ret := e.2.ret.filter fun r => !hit r.line })
  let dc : Caches := { s.dc with slices := s.dc.slices.map f, got := s.dc.got.filter fun r => !hit r.line }
  { s with
    dc := dc
    simt := { s.simt with cores := s.simt.cores.map g }
    rat := { s.rat with com := s.rat.applying, applying := [], result := 1, busy := false } }

/-- A transaction is in progress on an affected line; it ends before the entries are applied. -/
def ratBusy (s : State) : Bool :=
  s.dc.slices.any fun e => e.2.txns.any fun t => ratAffected s.rat.com s.rat.applying t.line

def ratApplyDoneE (s : State) : State := if s.rat.busy && !ratBusy s then answerReads (ratApply s) else s
/-- RAT_APPLY_DONE (R266). -/
def execRatApplyDone (s : State) := live .fab s ratApplyDoneE

/-! ## Staged members (R15, R503) -/

/-- Write of a member of the descriptor group; offset from the window's base. -/
def TblDesc.member (d : TblDesc) (o : Nat) (v : W32) : Option TblDesc :=
  match o with
  | 0x04 => some { d with cfg := v &&& 0x90000F1F#32 }
  | 0x08 => some { d with geom := v &&& 0x007FFFFF#32 }
  | 0x0C => some { d with rowsLo := v }
  | 0x10 => some { d with rowsHi := v &&& 7#32 }
  | 0x14 => some { d with shard := v &&& 0xFF#32 }
  | 0x18 => some { d with access := v &&& 0xFFFF0FFF#32 }
  | 0x1C => some { d with aLo := v &&& 0xFFFFF000#32 }
  | 0x20 => some { d with aHi := v &&& 0xFFFFF#32 }
  | 0x24 => some { d with bLo := v &&& 0xFFFFF000#32 }
  | 0x28 => some { d with bHi := v &&& 0xFFFFF#32 }
  | 0x2C => some { d with pg := v &&& 0x3FFFF#32 }
  | _ => none

def WinRegs.member (d : WinRegs) (o : Nat) (v : W32) : Option WinRegs :=
  match o with
  | 0 => some { d with ctl := v &&& 0xFF7F3FFF#32 }
  | 4 => some { d with rowLo := v }
  | 8 => some { d with rowHi := v &&& 7#32 }
  | _ => none

def PlcRegs.member (d : PlcRegs) (o : Nat) (v : W32) : Option PlcRegs :=
  match o with
  | 0x04 => some { d with cfg := v &&& 0xFF7FBFFF#32 }
  | 0x08 => some { d with rowLo := v }
  | 0x0C => some { d with rowHi := v &&& 7#32 }
  | 0x10 => some { d with key := v }
  | _ => none

def RatEnt.member (d : RatEnt) (o : Nat) (v : W32) : Option RatEnt :=
  match o with
  | 0x00 => some { d with baseLo := v &&& 0xFFE00000#32 }
  | 0x04 => some { d with baseHi := v &&& 0xFFFFF#32 }
  | 0x08 => some { d with limLo := v &&& 0xFFE00000#32 }
  | 0x0C => some { d with limHi := v &&& 0xFFFFF#32 }
  | 0x10 => some { d with attr := v &&& 0x80010003#32 }
  | _ => none

def Grant.member (d : Grant) (o : Nat) (v : W32) : Option Grant :=
  match o with
  | 4 => some { d with lo := v &&& 0xFFFFF03F#32 }
  | 8 => some { d with hi := v &&& 0x81FFFFFF#32 }
  | _ => none

def CtxRegs.member (d : CtxRegs) (o : Nat) (v : W32) : Option CtxRegs :=
  match o with
  | 0x04 => some { d with cfg := v &&& 0xE0FFFFFF#32 }
  | 0x08 => some { d with pasid := v &&& 0xFFFFF#32 }
  | 0x0C => some { d with share := v }
  | _ => none

/-- Members of an SQ (`aux` is BIND) and of a CQ (`aux` is PASID). -/
def QRegs.memberSq (d : QRegs) (o : Nat) (v : W32) : Option QRegs :=
  match o with
  | 0x04 => some { d with cfg := v &&& 0xFC0003FF#32 }
  | 0x08 => some { d with aux := v &&& 0x0FFF0FFF#32 }
  | 0x0C => some { d with baseLo := v &&& 0xFFFFF000#32 }
  | 0x10 => some { d with baseHi := v &&& 0x1FFFFFF#32 }
  | _ => none
def QRegs.memberCq (d : QRegs) (o : Nat) (v : W32) : Option QRegs :=
  match o with
  | 0x04 => some { d with cfg := v &&& 0xE0F00FFF#32 }
  | 0x08 => some { d with aux := v &&& 0xFFFFF#32 }
  | 0x0C => some { d with baseLo := v &&& 0xFFFFFFC0#32 }
  | 0x10 => some { d with baseHi := v &&& 0x1FFFFFF#32 }
  | _ => none

/-- A staged write, when the offset is a member's own or its staged view (R503); none when it is no member. -/
def stageWrite (off : Nat) (v : W32) (s : State) : Option State :=
  let o := off % 0x800
  if 0x70000 ≤ off && off < 0x71000 then
    (s.tbl.staged.member o v).map fun d => { s with tbl := { s.tbl with staged := d } }
  else if 0x80000 ≤ off && off < 0x81000 && o < 0x400 then
    let x := fget {} s.upd.win (o / 0x40)
    (x.staged.member (o % 0x40) v).map fun d =>
      { s with upd := { s.upd with win := fset {} s.upd.win (o / 0x40) { x with staged := d } } }
  else if 0x81000 ≤ off && off < 0x82000 then
    (s.upd.plcStaged.member o v).map fun d => { s with upd := { s.upd with plcStaged := d } }
  else if 0xA0000 ≤ off && off < 0xA1000 then
    ((fget {} s.rat.staged (o / 0x20)).member (o % 0x20) v).map fun d =>
      { s with rat := { s.rat with staged := fset {} s.rat.staged (o / 0x20) d } }
  else if 0xB1000 ≤ off && off < 0xB2000 then
    (s.fe.atgStaged.member o v).map fun d => { s with fe := { s.fe with atgStaged := d } }
  else if 0xC0000 ≤ off && off < 0xC1000 then
    (s.fe.ctxStaged.member o v).map fun d => { s with fe := { s.fe with ctxStaged := d } }
  else if 0xC1000 ≤ off && off < 0xC2000 then
    (s.fe.sqStaged.memberSq o v).map fun d => { s with fe := { s.fe with sqStaged := d } }
  else if 0xC2000 ≤ off && off < 0xC3000 then
    (s.fe.cqStaged.memberCq o v).map fun d => { s with fe := { s.fe with cqStaged := d } }
  else none

def stagedMemberWriteE (off : Nat) (v : W32) (s : State) : State := (stageWrite off v s).getD s
/-- STAGED_MEMBER_WRITE (R15, R503). -/
def execStagedMemberWrite (off : Nat) (v : W32) (be : BitVec 4) (s : State) := ctlWrite off be s (stagedMemberWriteE off v)

/-! ## Way roles (R273, R274) -/

def dcWaysWriteE (k : Nat) (v : W32) (s : State) : State :=
  let scr := fld v 11 8
  let off := fld v 3 0
  let sl := s.dc.slice k
  if sl.busy then s
  else if 8 < scr || 10 < scr + off then modSlice k (fun sl => { sl with result := 2 }) s
  else
    let keep := min sl.scr scr * 0x20000
    let s := { s with dc := { s.dc with
      scratch := s.dc.scratch.filter fun b => b.1 / 0x100000 ≠ k || b.1 % 0x100000 < keep
      scratchBad := s.dc.scratchBad.filter fun b => 8 * b.1 / 0x100000 ≠ k || 8 * b.1 % 0x100000 < keep } }
    modSlice k (fun sl => { sl with scr := scr, off := off, busy := true }) s
/-- DC_WAYS_WRITE (R274). -/
def execDcWaysWrite (slice : Nat) (v : W32) (be : BitVec 4) (s : State) := ctlWrite (0xA2000 + 16 * slice) be s (dcWaysWriteE slice v)

/-- Lines of the ways that are no cache ways any more are cleaned and leave (R274). -/
def cleanWays (k : Nat) (s : State) : State :=
  let w := (s.dc.slice k).cacheWays
  (s.dc.slice k).lines.foldl (fun s l => if w ≤ l.way then evictLine k l s else s) s

def waysChangeDoneE (k : Nat) (s : State) : State :=
  let sl := s.dc.slice k
  if sl.busy && !(sl.lines.any fun l => sl.cacheWays ≤ l.way && sl.inTxn l.line) then
    modSlice k (fun sl => { sl with busy := false, result := 1 }) (cleanWays k s)
  else s
/-- WAYS_CHANGE_DONE (R274). -/
def execWaysChangeDone (slice : Nat) (s : State) := live (.part (partOfSlice slice)) s (waysChangeDoneE slice)

/-! ## L1 enables (R278, R279) and partition power control (R475) -/

/-- Writes back the M lines of a core's L1 to their homes; they stay as clean copies. -/
def writeBackL1 (core : Nat) (s : State) : State :=
  returnM (fun l => (coreAt s core).l1.any fun m => m.line = l.line && m.st = .M) s

def l1ctlWriteE (c : Nat) (v : W32) (s : State) : State :=
  let old := rget s (0xA3000 + 4 * c)
  let s := (List.range 4).foldl (fun s k => if bit old k && !bit v k then writeBackL1 (4 * c + k) s else s) s
  if c < 64 then rset (0xA3000 + 4 * c) (v &&& 0xF#32) s else s
/-- L1CTL_WRITE (R278, R279). -/
def execL1ctlWrite (cluster : Nat) (v : W32) (be : BitVec 4) (s : State) :=
  ctlWrite (0xA3000 + 4 * cluster) be s (l1ctlWriteE cluster v)

/-- PLL_IDLE takes 10 for a write of 1 to 9 and keeps its value for a write of 0 (R475). -/
def partPwrctlWriteE (p : Nat) (v : W32) (s : State) : State :=
  let i := fld v 15 0
  let old := rget s (0x120100 + 4 * p)
  let idle := if i = 0 then fld old 15 0 else if i < 10 then 10 else i
  let s := if bit v 30 then s else wakePart p s
  if p < 8 then rset (0x120100 + 4 * p) (setFld (v &&& 0x40000000#32) 15 0 idle) s else s
/-- PART_PWRCTL_WRITE (R475). -/
def execPartPwrctlWrite (part : Nat) (v : W32) (be : BitVec 4) (s : State) :=
  ctlWrite (0x120100 + 4 * part) be s (partPwrctlWriteE part v)

/-! ## Mangle counters (R76) and latency sets (R363) -/

/-- Write of MNG[s]_CTL: CLEAR zeroes the counters and the latches, FREEZE is taken as written. -/
def mngCtlWrite (k : Nat) (v : W32) (s : State) : State :=
  if 10 ≤ k then s
  else
    let s := { s with mng := fmod {} s.mng k fun m => if bit v 0 then { freeze := bit v 1 } else { m with freeze := bit v 1 } }
    if bit v 0 then
      { s with latch := fset 0 (fset 0 s.latch (0x60008 + 0x40 * k) 0) (0x60010 + 0x40 * k) 0 }
    else s
/-- MNG_CLEAR (R76, R78). -/
def execMngClear (site : Nat) (v : W32) (be : BitVec 4) (s : State) := ctlWrite (0x60000 + 0x40 * site) be s (mngCtlWrite site v)
/-- MNG_FREEZE (R76). -/
def execMngFreeze (site : Nat) (v : W32) (be : BitVec 4) (s : State) :=
  ctlWrite (0x60000 + 0x40 * site) be s fun s => mngCtlWrite site v s

def latSelE (v : W32) (s : State) : State :=
  let g := fld v 9 0
  let s := (List.range 52).foldl (fun s k => rset (0xD0100 + 4 * k) (BitVec.ofNat 32 (fget 0 s.fe.lat (64 * g + k))) s) s
  let s := { s with fe := { s.fe with lat := (List.range 52).foldl (fun m k => fset 0 m (64 * g + k) 0) s.fe.lat } }
  rset 0xD0000 (v &&& 0x3FF#32) s
/-- LAT_SEL (R363, R364). -/
def execLatSel (v : W32) (be : BitVec 4) (s : State) := ctlWrite 0xD0000 be s (latSelE v)

end Sys2Proof.Machine
end

