-- ==== Sys2Proof/Machine/Coherence.lean ====
section
/-! DEFINITION. The coherence protocol (R280 to R286): requests of the L1s and of the requesters that keep no copy, the
directory, snoops, transactions, NAKs, lost L1s (R285, R292), side buffers (R271) and reservations (R236). -/

namespace Sys2Proof.Machine

/-! ## L1s and directory (R276, R279, R281) -/

def l1Ways (split : Nat) : Nat := if split = 1 then 4 else if split = 2 then 8 else if split = 3 then 16 else if split = 4 then 24 else 0
def Core.line (k : Core) (line : Nat) : Option L1Line := k.l1.find? fun l => l.line = line
def Core.putLine (k : Core) (l : L1Line) : Core := { k with l1 := k.l1.map fun x => if x.line = l.line then l else x }
def Core.dropLine (k : Core) (line : Nat) : Core := { k with l1 := k.l1.filter fun l => l.line ≠ line }

def dirOf (s : State) (line : Nat) : Option DirEnt := (s.dc.slice (lineHome line)).dir.find? fun e => e.line = line

def DirEnt.empty (e : DirEnt) : Bool := e.owner = none && e.sharers = 0
def clusterBit (c : Nat) : BitVec 64 := BitVec.ofNat 64 (2 ^ (c / 4))

/-- Cores that the entry names: the owner, and the four cores of each cluster of the mask. -/
def DirEnt.cores (e : DirEnt) : List Nat :=
  ((match e.owner with
    | some (c, _) => [c]
    | none => []) ++ (List.range 256).filter fun c => e.sharers.getLsbD (c / 4)).eraseDups

/-- A cluster's bit is cleared when none of its cores holds the line (R281). -/
def DirEnt.remove (e : DirEnt) (holds : Nat → Bool) (c : Nat) : DirEnt :=
  let e : DirEnt := match e.owner with
    | some (o, _) => if o = c then { e with owner := none } else e
    | none => e
  if (List.range 4).any fun i => 4 * (c / 4) + i ≠ c && holds (4 * (c / 4) + i) then e
  else { e with sharers := e.sharers &&& ~~~(clusterBit c) }

def putDir (e : DirEnt) (s : State) : State :=
  modSlice (lineHome e.line) (fun sl =>
    { sl with dir := if e.empty then sl.dir.filter (fun x => x.line ≠ e.line)
                     else if sl.dir.any (fun x => x.line = e.line) then sl.dir.map (fun x => if x.line = e.line then e else x)
                     else sl.dir ++ [e] }) s

/-- Whether another core holds a line that counts as S there; a disabled L1 answers as holding nothing (R279). -/
def holdsS (s : State) (line c : Nat) : Bool := l1On s c && ((coreAt s c).line line).isSome && match dirOf s line with
  | some e => match e.owner with
    | some (o, _) => o ≠ c
    | none => true
  | none => false

/-- The core no longer holds the line. -/
def dirRemove (c line : Nat) (s : State) : State :=
  match dirOf s line with
  | none => s
  | some e => putDir (e.remove (holdsS s line) c) s

/-- The core holds the line in the state; in S beside others, else as the one owner. -/
def dirAdd (c line : Nat) (st : L1State) (s : State) : State :=
  let e := (dirOf s line).getD { line := line, owner := none, sharers := 0 }
  if st = .S then putDir { e with sharers := e.sharers ||| clusterBit c } s
  else putDir { e with owner := some (c, st) } s

/-- Cores other than `c` that may hold a copy. -/
def others (s : State) (line c : Nat) : List Nat :=
  match dirOf s line with
  | some e => e.cores.filter (· ≠ c)
  | none => []

/-- A way of the L1 for a line: the lowest free one of its set, else the LFSR's choice among the lines that no thread is within 32
instructions of having reserved (R276, R260, R237). None while there is no candidate, or the write-back buffer is full. DESIGN CHOICE,
log 21. -/
def l1Victim (s : State) (c line : Nat) : Option (Nat × Option L1Line) :=
  let k := coreAt s c
  let inSet := k.l1.filter fun l => l.set = (Config.l1Set line).val
  let ws := List.range (l1Ways k.split)
  match ws.find? fun w => !inSet.any fun l => l.way = w with
  | some w => some (w, none)
  | none =>
    let cand := ws.filterMap fun w => inSet.find? fun l => l.way = w && !resvHeld s l.line
    match cand[k.lfsr.toNat * cand.length / 65536]? with
    | some l => if l.st = .M && 16 ≤ k.wb.length then none else some (l.way, some l)
    | none => none

/-- The core keeps copies of the line: it has an L1 that is enabled, and the region's policy lets an L1 hold it (R253, R268, R279). -/
def keepsLine (s : State) (c line : Nat) : Bool := l1On s c && (isHostLine line || policyAt s.rat.com (line * 128) < 2)

/-- The core keeps no copy of the line, holds it, or has a way for it. -/
def l1Room (s : State) (c line : Nat) : Bool :=
  !keepsLine s c line || ((coreAt s c).line line).isSome || (l1Victim s c line).isSome

/-- A victim leaves the L1: M by a write-back, else by an eviction notice (R280). -/
def Core.evict (k : Core) (l : L1Line) : Core :=
  let k := k.dropLine l.line
  if l.st = .M then { k with wb := k.wb ++ [l] } else { k with notices := k.notices ++ [l.line] }

/-- Sectors of a line with their data, as a home or a holder supplies them; `hd` are the host halves that an atomic has changed. -/
structure LineGrant where
  data : Bytes
  valid : BitVec 4
  poison : BitVec 4
  hd : BitVec 2 := 0
  tag : Option Nat := none
deriving DecidableEq, Repr

/-- Sectors of a copy with those of a grant in their place. -/
def L1Line.take (l : L1Line) (g : LineGrant) : L1Line :=
  { l with
    data := (List.range 128).map fun i => if g.valid.getLsbD (i / 32) then g.data.getD i 0 else l.data.getD i 0
    valid := l.valid ||| g.valid
    poison := (l.poison &&& ~~~g.valid) ||| (g.poison &&& g.valid)
    hd := l.hd ||| g.hd
    tag := if g.tag.isSome then g.tag else l.tag }

/-- Requests of a core that the sectors it now has of a line satisfy go. -/
def meetMisses (c line : Nat) (have_ : BitVec 4) (own : Bool) (s : State) : State :=
  modCore c (fun k => { k with miss := k.miss.filter fun m => !(m.line = line && (own || !m.own) && m.sm &&& ~~~have_ = 0) }) s

/-- Sectors granted to a core: into its L1, or returned to it when it keeps no copy. A line that it holds keeps its state on a read of
more of its sectors (R257, R276). -/
def giveLine (c line : Nat) (st : L1State) (g : LineGrant) (s : State) : State :=
  if !keepsLine s c line then
    let s := modCore c (fun k => { k with ret := addGot { line := line, sm := g.valid, data := g.data, poison := g.poison } k.ret }) s
    meetMisses c line (((coreAt s c).ret.find? fun r => r.line = line).elim 0 Got.sm) (decide (st = .M)) s
  else match (coreAt s c).line line with
    | some l =>
      let l' := { l.take g with st := if st = .M then .M else l.st }
      meetMisses c line l'.valid (decide (st = .M)) (modCore c (fun k => k.putLine l') (if st = .M then dirAdd c line st s else s))
    | none => match l1Victim s c line with
      | none => s
      | some (w, old) =>
        let s := match old with
          | some o => modCore c (fun k => k.evict o) s
          | none => s
        let l : L1Line := { line := line, set := (Config.l1Set line).val, way := w, st := st, data := g.data, poison := g.poison &&& g.valid
                            valid := g.valid, hd := g.hd, tag := g.tag }
        meetMisses c line g.valid (decide (st = .M)) (modCore c (fun k => { k with l1 := k.l1 ++ [l] }) (dirAdd c line st s))

/-! ## Data at the home -/

/-- The sectors of a line that its home can give, when they are all that is needed: from the DC, the side buffer, or as poison from a
tier that serves nothing (R306). An L1 holds a host line whole. -/
def homeLine (s : State) (k line : Nat) (need : BitVec 4) : Option LineGrant :=
  let dead : Bool := !isHostLine line && (deadAt s (line * 128) || (s.mem.port (line * 128)).isNone)
  match (s.dc.slice k).find line with
  | some l =>
    if isHostLine line then (if l.h0 = .I || l.h1 = .I then none else some { data := l.data, valid := 0xF, poison := l.poison })
    else if need &&& ~~~l.validMask = 0 then some { data := l.data, valid := l.validMask, poison := l.poison }
    else if dead then some { data := l.data, valid := 0xF, poison := l.poison ||| ~~~l.validMask } else none
  | none =>
    if dead then some { data := List.replicate 128 0, valid := 0xF, poison := 0xF }
    else ((s.dc.slice k).side.find? fun e => e.line = line && (!isHostLine line || e.halves = 3)).map fun e =>
      { data := e.data, valid := 0xF, poison := 0 }

/-- Halves of a host line whose state does not satisfy `p`. -/
def lackHalves (s : State) (k line : Nat) (p : HostState → Bool) : List Nat :=
  match (s.dc.slice k).find line with
  | some l => (if p l.h0 then [] else [0]) ++ (if p l.h1 then [] else [1])
  | none => [0, 1]

/-- The home fetches what it lacks of a line (R282): from its port, or from the host by the request of R379. -/
def fetchLine (op : D2hOp) (k line : Nat) (need : BitVec 4) (s : State) : State :=
  if isHostLine line then askHost op line (lackHalves s k line (· ≠ .I)) s else fetchSectors k line need s

/-- No half of a host line is granted more weakly than E (R289). -/
def hostOwns (s : State) (k line : Nat) : Bool := !isHostLine line || (lackHalves s k line fun h => h = .E || h = .M) = []

/-! ## Transactions (R284) -/

/-- A transaction begins. The write that it will merge has its way in the slice from now on (R260). -/
def startTxn (line : Nat) (kind : TxnKind) (inval : Bool) (snoops : List Nat) (s : State) : State :=
  let k := lineHome line
  let s := match kind with
    | .merge _ _ _ => if isHostLine line || policyAt s.rat.com (line * 128) = 2 then s else (allocLine k line s).1
    | _ => s
  let t : Txn := { line := line, kind := kind, inval := inval, snoops := snoops, answers := [], data := none, kept := false,
                   since := s.devtime }
  modSlice k (fun sl => { sl with txns := sl.txns ++ [t] }) s

def txnOn (s : State) (line : Nat) : Option Txn := (s.dc.slice (lineHome line)).txns.find? fun t => t.line = line

/-- Answer to a host snoop (R380): M data, or current data for SnpCur, with its poison (R291), and the half's new state. An invalidation
ends the reservations on the line, for the host writes it (R236), and takes what was prefetched or returned of it (R272). -/
def answerHost (op : Snp) (pa : Nat) (s : State) : State :=
  let line := hostLine + pa / 128
  let k := lineHome line
  let h := pa / 64 % 2
  let s := if op = .inv then dropRet line (dropSide k line (endLineResv line s)) else s
  match (s.dc.slice k).find line with
  | none => emit (.h2dData pa none false) s
  | some l =>
    let st := if h = 0 then l.h0 else l.h1
    let st' : HostState := if op = .inv || st = .I then .I else if op = .cur then st else .S
    let l' : DcLine := if h = 0 then { l with h0 := st' } else { l with h1 := st' }
    let l' : DcLine := if op = .inv then { l' with bv := l'.bv &&& ~~~(halfMask h), poison := l'.poison &&& ~~~(if h = 0 then 3 else 12) }
      else l'
    let s := modSlice k (fun sl => if l'.h0 = .I && l'.h1 = .I then sl.drop line else sl.put l') s
    let out : Bool := st = .M || (op = .cur && st ≠ .I)
    emit (.h2dData pa (if out then some (slice l.data (64 * h) 64) else none) (out && l.halfBad h)) s

/-- Stores of a core whose writes all have their answers are at system level and held no longer (R232, R270). -/
def settleCore (c : Nat) (s : State) : State :=
  if coreOut s c then s else modCore c (fun k => { k with sb := k.sb.filter fun e => e.level = .core }) s

/-- The oldest store of a core that is at core level. -/
def oldestStore (k : Core) : Option StoreEnt := k.sb.find? fun e => e.level = .core

/-- First store of the line at core level becomes a store at device level. -/
def raiseStore (line : Nat) : List StoreEnt → List StoreEnt
  | [] => []
  | e :: l => if e.level = .core && e.line = line then { e with level := .device } :: l else e :: raiseStore line l

/-- The threads of a store. -/
def StoreEnt.threads (e : StoreEnt) : List (Nat × Nat × Nat × Nat) := e.lanes.map fun i => (e.launch, e.team, e.group, i)

/-- A core's own copy takes the bytes of a store (R277). -/
def L1Line.store (l : L1Line) (bytes : List (Nat × Byte)) : L1Line :=
  let at_ (i : Nat) : Option Byte := (bytes.reverse.find? fun b => b.1 % 128 = i).map Prod.snd
  let cov (k : Nat) := ((List.range 32).filter fun i => (at_ (32 * k + i)).isSome).length
  { l with
    data := (List.range 128).map fun i => (at_ i).getD (l.data.getD i 0)
    poison := (List.range 4).foldl (fun m k => if cov k = 32 then m &&& ~~~(BitVec.ofNat 4 (2 ^ k)) else m) l.poison }

/-- The copy of the core whose store has been merged takes its bytes, and is in E unless it is in M (R282 WriteThrough). It has them no
earlier than the home, so that no other core sees them through it before every one does (R234; DEDUCED, log 11). -/
def ownCopy (c line : Nat) (bytes : List (Nat × Byte)) (s : State) : State :=
  match if l1On s c then (coreAt s c).line line else none with
  | none => s
  | some l =>
    let s := modCore c (fun k => k.putLine { l.store bytes with st := if l.st = .M then .M else .E }) s
    if l.st = .M then s else putDir { line := line, owner := some (c, .E), sharers := 0 } s

/-- A write that has no other copy in its way is merged at the home; the core that wrote it keeps its line alone (R282). Its bytes reach
device level with it; the reservations of the threads that wrote it ended at its issue (R236). -/
def mergeNow (line : Nat) (who : Requester) (bytes : List (Nat × Byte)) (tag : Option Nat) (s : State) : State :=
  match who with
  | .core c _ =>
    let keep := ((coreAt s c).sb.find? fun e => e.level = .core && e.line = line).elim [] StoreEnt.threads
    let s := homeMerge (lineHome line) line who tag keep bytes s
    settleCore c (ownCopy c line bytes (modCore c (fun k => { k with sb := raiseStore line k.sb }) s))
  | _ => settleTags (homeMerge (lineHome line) line who tag [] bytes s)

/-- Sectors that a holder supplies. -/
def L1Line.grant (m : L1Line) : LineGrant := { data := m.data, valid := m.valid, poison := m.poison, hd := m.hd, tag := m.tag }

/-- Clean data of a holder reaches the home too (R282 ReadShared): into the line of the slice, allocated where a way can take it. -/
def homeClean (k : Nat) (m : L1Line) (s : State) : State :=
  if isHostLine m.line then s
  else match allocLine k m.line s with
    | (s, none) => s
    | (s, some l) => modSlice k (fun sl => sl.put (l.fill m.valid m.data m.poison)) s

/-- End of a transaction: what its request gets (R282). Where a holder lacked a sector that is needed, the home fetches it, and the
request is made again. -/
def endTxn (t : Txn) (s : State) : State :=
  let k := lineHome t.line
  let s := modSlice k (fun sl => { sl with txns := sl.txns.filter fun x => x.line ≠ t.line }) s
  let home (s : State) : State := match t.data with
    | some m => if m.st = .M then homeData k m s else homeClean k m s
    | none => s
  match t.kind with
  | .readShared c sm =>
    let s := home s
    let got : Option LineGrant := match t.data with
      | some m => if sm &&& ~~~m.valid = 0 then some { m.grant with hd := 0, tag := none } else homeLine s k t.line sm
      | none => homeLine s k t.line sm
    match got with
    | none => fetchLine .rdShared k t.line sm s
    | some g => giveLine c t.line (if t.kept || (others s t.line c) ≠ [] || !hostOwns s k t.line then .S else .E) g s
  | .readOwn c sm =>
    match t.data with
    | some m => if hostOwns s k t.line && sm &&& ~~~m.valid = 0 && l1Room s c t.line then giveLine c t.line .M m.grant s else home s
    | none => s
  | .merge who bytes tag => mergeNow t.line who bytes tag (home s)
  | .hostSnoop op pa => answerHost op pa (home s)
  | .recall => home s

/-- Ends the transaction on a line once every answer has been received. -/
def closeTxn (line : Nat) (s : State) : State :=
  match txnOn s line with
  | some t => if t.snoops = [] && t.answers = [] then endTxn t s else s
  | none => s

/-! ## Requests (R282, R284) -/

/-- Entries that the directory set of a line has, or will have for the reads in progress (R281). -/
def dirLoad (s : State) (line : Nat) : Nat :=
  let sl := s.dc.slice (lineHome line)
  let here (l : Nat) : Bool := (Config.dirSet l).val = (Config.dirSet line).val
  (sl.dir.filter fun e => here e.line).length
    + (sl.txns.filter fun t => here t.line && !sl.dir.any (fun e => e.line = t.line) && match t.kind with
      | .readShared _ _ => true
      | .readOwn _ _ => true
      | _ => false).length

/-- Room for a line in its directory set: it has an entry, or one is free; else the entry that the LFSR chooses among those that no
transaction and no thread's reservation holds is to be recalled; none of them is, and the request waits (R281, R237). -/
inductive DirRoom where
  | room
  | recall (e : DirEnt)
  | full
deriving DecidableEq, Repr

def dirRoom (s : State) (line : Nat) : DirRoom :=
  let sl := s.dc.slice (lineHome line)
  if sl.dir.any (fun e => e.line = line) || dirLoad s line < 16 then .room
  else
    let cand := sl.dir.filter fun e => (Config.dirSet e.line).val = (Config.dirSet line).val && !sl.inTxn e.line && !resvHeld s e.line
    match cand[sl.lfsr.toNat * cand.length / 65536]? with
    | some e => .recall e
    | none => .full

/-- A write-back of the core's own that has left its L1 reaches the home before its next request for the line (R286). -/
def absorbOwn (c line : Nat) (s : State) : State :=
  match (coreAt s c).wb.find? fun m => m.line = line with
  | none => s
  | some m =>
    homeData (lineHome line) m (dirRemove c line (modCore c (fun k => { k with wb := k.wb.filter fun x => x.line ≠ line }) s))

/-- Current data of a line for a requester that keeps no copy: an M holder's, or the home's. -/
def currentLine (s : State) (line : Nat) (need : BitVec 4) : Option LineGrant :=
  match (dirtyL1 s.simt.cores line).filter fun m => need &&& ~~~m.valid = 0 with
  | some m => some { m.grant with hd := 0, tag := none }
  | none => homeLine s (lineHome line) line need

def readShared (c line : Nat) (sm : BitVec 4) (s : State) : State :=
  let k := lineHome line
  let grant (g : LineGrant) : State :=
    giveLine c line (if (others s line c) ≠ [] || !hostOwns s k line then .S else .E) g (useSide k line s)
  if !keepsLine s c line then
    (match currentLine s line sm with
     | some g => giveLine c line .S g (useSide k line s)
     | none => fetchLine .rdShared k line sm s)
  else match (dirOf s line).bind DirEnt.owner with
    | some (o, st) =>
      if o ≠ c && (st = .E || st = .M) then startTxn line (.readShared c sm) false [o] s
      else match homeLine s k line sm with
        | some g => grant g
        | none => if o ≠ c && st = .F && !(s.dc.slice k).filling line then startTxn line (.readShared c sm) false [o] s
                  else fetchLine .rdShared k line sm s
    | none => match homeLine s k line sm with
      | some g => grant g
      | none => fetchLine .rdShared k line sm s

def readOwn (c line : Nat) (sm : BitVec 4) (s : State) : State :=
  let k := lineHome line
  let os := others s line c
  if os ≠ [] then startTxn line (.readOwn c sm) true os s
  else if !hostOwns s k line then askHost .rdOwn line (lackHalves s k line fun h => h = .E || h = .M) s
  else match homeLine s k line sm with
    | some g => giveLine c line .M g (useSide k line s)
    | none => fetchLine .rdOwn k line sm s

def reqKind (own : Bool) : ReqKind := if own then .readOwn else .readShared

/-- The sectors that a core's requests of a line need. -/
def missMask (s : State) (c line : Nat) (own : Bool) : BitVec 4 :=
  ((coreAt s c).miss.filter fun m => m.line = line && m.own = own).foldl (fun a m => a ||| m.sm) 0

/-- A request of an L1 at the home of the line. -/
def request (c line : Nat) (own : Bool) (s : State) : State :=
  if ratWait s line || !l1Room s c line then s
  else if refused s c line (reqKind own) then refuse c line (reqKind own) s
  else
    let s := absorbOwn c line (clearNak c line (reqKind own) s)
    let go (s : State) : State := if own then readOwn c line (missMask s c line own) s else readShared c line (missMask s c line own) s
    if !keepsLine s c line then go s
    else match dirRoom s line with
      | .recall v => startTxn v.line .recall true v.cores s
      | .full => s
      | .room => go s

/-- A request of the core for the line is to be made, and none has been refused that waits to be made again. -/
def asks (s : State) (c line : Nat) (own : Bool) : Bool :=
  (coreAt s c).miss.any (fun m => m.line = line && m.own = own) && !(s.dc.slice (lineHome line)).naks.any (isNak c line (reqKind own))

def requestRow (c line : Nat) (own : Bool) (s : State) : State :=
  if asks s c line own && !clusterInReset s (c / 4) then foreground (lineHome line) false (request c line own) s else s
/-- READ_SHARED (R282): an L1 asks the home for a line on an LD or LDR miss. -/
def execReadShared (core line : Nat) (s : State) := live (.part (partOfSlice (lineHome line))) s (requestRow core line false)
/-- READ_OWN (R282): an L1 asks for a line in M. -/
def execReadOwn (core line : Nat) (s : State) := live (.part (partOfSlice (lineHome line))) s (requestRow core line true)

/-- Release tag of a launch's store (R269): its command's number. Of a resident launch only where a release can be in force for it, or
where the region writes through, whose M lines a fence of system scope sends (R270). -/
def storeTag (s : State) (l line : Nat) : Option Nat :=
  match findLaunch s l with
  | some x =>
    let asked : Bool := (s.fe.cmd x.cmd).any fun c => hdrRelease c.bytes
    if isHostLine line || (x.resident && !asked && policyAt s.rat.com (line * 128) = 0) then none else some x.cmd
  | none => none

/-- A store of the core, at its home: refused while the line is busy, merged, or begun as a transaction. -/
def storeGo (c : Nat) (e : StoreEnt) (s : State) : State :=
  if refused s c e.line .writeThrough then refuse c e.line .writeThrough s
  else
    let s := absorbOwn c e.line (clearNak c e.line .writeThrough s)
    let os := others s e.line c
    let tag := storeTag s e.launch e.line
    if os = [] then mergeNow e.line (.core c e.cmd) e.bytes tag s else startTxn e.line (.merge (.core c e.cmd) e.bytes tag) true os s

def writeThroughE (c : Nat) (s : State) : State :=
  match oldestStore (coreAt s c) with
  | none => s
  | some e =>
    if ratWait s e.line || !mayRetry s c e.line .writeThrough || !homeCan s e.line then s
    else foreground (lineHome e.line) true (storeGo c e) s
/-- WRITE_THROUGH (R282, R277): the oldest store of the core goes to its home. -/
def execWriteThrough (core : Nat) (s : State) :=
  live (.part (partOfCore core)) s fun s => if clusterInReset s (core / 4) then s else writeThroughE core s

/-- The oldest write of a requester that keeps no copy that its home can take now. -/
def nextWrite (s : State) : Option PendWrite := s.dc.writes.find? fun w =>
  !ratWait s w.line && mayRetry s noCopy w.line .write && homeCan s w.line && !slotOwed s (lineHome w.line) true

def writeGo (w : PendWrite) (s : State) : State :=
  if refused s noCopy w.line .write then refuse noCopy w.line .write s
  else
    let s := clearNak noCopy w.line .write { s with dc := { s.dc with writes := dropFirst (fun x => decide (x = w)) s.dc.writes } }
    let os := others s w.line noCopy
    if os = [] then mergeNow w.line w.who w.bytes w.tag s else startTxn w.line (.merge w.who w.bytes w.tag) true os s

def writeE (s : State) : State :=
  match nextWrite s with
  | none => s
  | some w => foreground (lineHome w.line) true (writeGo w) s
/-- WRITE (R282): the oldest write of a requester that keeps no copy reaches its home. -/
def execWrite (s : State) := live .fab s writeE

/-- READ_CURRENT (R282): what the home lacks of the line is read from its port; a holder in M or E supplies its data and keeps
its state. -/
def readCurrentE (line : Nat) (s : State) : State :=
  if isHostLine line || ratWait s line then s else foreground (lineHome line) false (askLine line 0xF) s
def execReadCurrent (line : Nat) (s : State) := live (.part (partOfSlice (lineHome line))) s (readCurrentE line)

/-- A refused request is made again once its time has passed (R284); one that is wanted no more goes. An atomic is made again by its
group. -/
def nakRetryE (c line : Nat) (s : State) : State :=
  match (s.dc.slice (lineHome line)).naks.find? fun n => n.core = c && n.line = line with
  | none => s
  | some n =>
    if !n.wanted s then clearNak c line n.kind s
    else if !mayRetry s c line n.kind then s
    else match n.kind with
      | .readShared => foreground (lineHome line) false (request c line false) s
      | .readOwn => foreground (lineHome line) false (request c line true) s
      | .writeThrough => writeThroughE c s
      | .write => writeE s
      | .readCurrent => readCurrentE line s
      | .atom => s
/-- NAK_RETRY (R284). -/
def execNakRetry (core line : Nat) (s : State) := live (.part (partOfSlice (lineHome line))) s (nakRetryE core line)

def writeBackE (c : Nat) (s : State) : State :=
  match (coreAt s c).wb with
  | [] => s
  | m :: rest =>
    if (txnOn s m.line).isSome || ratWait s m.line then s
    else homeData (lineHome m.line) m (dirRemove c m.line (modCore c (fun k => { k with wb := rest }) s))
/-- WRITE_BACK (R282, R286). -/
def execWriteBack (core : Nat) (s : State) := live (.part (partOfCore core)) s (writeBackE core)

def evictNoticeE (c line : Nat) (s : State) : State :=
  if !(coreAt s c).notices.contains line || (txnOn s line).isSome then s
  else
    let s := modCore c (fun k => { k with notices := dropFirst (fun x => decide (x = line)) k.notices }) s
    if ((coreAt s c).line line).isSome then s else dirRemove c line s
/-- EVICT_NOTICE (R282). -/
def execEvictNotice (core line : Nat) (s : State) := live (.part (partOfCore core)) s (evictNoticeE core line)

/-! ## Snoops (R280, R285, R286) -/

/-- What an L1 answers and what it does: the data it supplies and whether it keeps the line. -/
structure Answer where
  core : Core
  data : Option L1Line
  kept : Bool

def snoopL1 (on inval : Bool) (line : Nat) (k : Core) : Answer :=
  match k.wb.find? fun m => m.line = line with
  | some m =>
    { core := { k with wb := k.wb.filter (fun x => x.line ≠ line), notices := k.notices ++ [line] }, data := some m, kept := false }
  | none =>
    if !on then { core := k, data := none, kept := false }
    else match k.line line with
      | none => { core := k, data := none, kept := false }
      | some l =>
        if inval then
          { core := k.dropLine line, data := if l.st = .S || l.st = .F then none else some l, kept := false }
        else if l.st = .S then { core := k, data := none, kept := true }
        else { core := k.putLine { l with st := .F, hd := 0, tag := none }, data := some l, kept := true }

def snoopE (c line : Nat) (s : State) : State :=
  match txnOn s line with
  | none => s
  | some t =>
    if !t.snoops.contains c || clusterInReset s (c / 4) then s
    else
      let a := snoopL1 (l1On s c) t.inval line (coreAt s c)
      let core : Core := if t.inval then { a.core with ret := a.core.ret.filter fun r => r.line ≠ line } else a.core
      let s := modCore c (fun _ => core) { s with pwr := s.pwr.startClk (c / 4) }
      let s := if a.kept then (if a.data.isSome then dirAdd c line .F s else s) else dirRemove c line s
      let t' : Txn := { t with
        snoops := t.snoops.filter (· ≠ c)
        answers := t.answers ++ [c]
        data := if a.data.isSome then a.data else t.data
        kept := t.kept || a.kept }
      modSlice (lineHome line) (fun sl => { sl with txns := sl.txns.map fun x => if x.line = line then t' else x }) s
/-- SNOOP (R285): the L1 answers, waking its cluster (R473). -/
def execSnoop (core line : Nat) (s : State) := live (.part (partOfCore core)) s (snoopE core line)

def snoopResponseE (c line : Nat) (s : State) : State :=
  match txnOn s line with
  | none => s
  | some t =>
    if !t.answers.contains c then s
    else
      let f (x : Txn) : Txn := if x.line = line then { x with answers := x.answers.filter (· ≠ c) } else x
      closeTxn line (modSlice (lineHome line) (fun sl => { sl with txns := sl.txns.map f }) s)
/-- SNOOP_RESPONSE (R282, R284): the home ends the transaction once it has every answer. -/
def execSnoopResponse (core line : Nat) (s : State) :=
  live (.part (partOfSlice (lineHome line))) s (snoopResponseE core line)

/-! ## Lost L1s (R285, R292, R293) -/

/-- The lines of a lost L1 are reclaimed: copies leave the directory, M data is poisoned at the home, every reservation on them ends
(R292, R293). -/
def reclaimL1 (c : Nat) (s : State) : State :=
  let k := coreAt s c
  let ms := (k.l1.filter fun l => l.st = .M) ++ k.wb
  let ls := ((k.l1 ++ k.wb).map L1Line.line) ++ k.notices
  let s := modCore c (fun k => { k with l1 := [], wb := [], notices := [], miss := [], ret := [] }) s
  let s := ls.foldl (fun s l => endLineResv l (dirRemove c l s)) s
  ms.foldl (fun s m => homeData (lineHome m.line) { m with valid := 0xF, poison := 0xF, hd := 3 } s) s

/-- No answer of the core is awaited any longer. -/
def excuse (c : Nat) (s : State) : State :=
  let lines := s.dc.slices.flatMap fun e => (e.2.txns.filter fun t => t.snoops.contains c || t.answers.contains c).map Txn.line
  lines.foldl (fun s line =>
    let f (x : Txn) : Txn :=
      if x.line = line then { x with snoops := x.snoops.filter (· ≠ c), answers := x.answers.filter (· ≠ c) } else x
    closeTxn line (modSlice (lineHome line) (fun sl => { sl with txns := sl.txns.map f }) s)) s

def l1LostE (c line : Nat) (s : State) : State :=
  match txnOn s line with
  | none => s
  | some t =>
    if t.snoops.contains c && 10000 ≤ since s.devtime t.since then
      let a := if isHostLine line then (line - hostLine) * 128 else line * 128
      excuse c (reclaimL1 c (detect (partOfSlice (lineHome line)) (report 0x33 none (locCore c) (some a) 0) s))
    else s
/-- L1_LOST (R285). -/
def execL1Lost (core line : Nat) (s : State) := live (.part (partOfSlice (lineHome line))) s (l1LostE core line)

/-! ## Side buffers and reservations -/

def sideBufferExpiryE (k line : Nat) (s : State) : State :=
  modSlice k (fun sl => { sl with side := sl.side.filter fun e => !(e.line = line && 50000 ≤ since s.devtime e.placed) }) s
/-- SIDE_BUFFER_EXPIRY (R271). -/
def execSideBufferExpiry (slice line : Nat) (s : State) := live (.part (partOfSlice slice)) s (sideBufferExpiryE slice line)

/-- FCUR of a cluster: the lower of FMAX and the controller's step (R471; DEDUCED, log 35). -/
def fcur (s : State) (c : Nat) : Nat := min (fld (rget s (0x120200 + 4 * c)) 3 0) s.pwr.step

/-- A reservation is 4,096 CCLK cycles of its core's cluster old, of 1,000 / (600 + 100 n) ns at step n, and its thread is past the 32
instructions of R237 (R236, R471). -/
def resvOld (s : State) (core : Nat) (r : Resv) : Bool :=
  4096000 ≤ (600 + 100 * fcur s (core / 4)) * since s.devtime r.at_ && decide (32 < r.n)

def reservationExpiryE (l t g lane : Nat) (s : State) : State :=
  let fg (core : Nat) (x : Group) : Group :=
    if x.num = g then { x with resv := x.resv.filter fun r => !(r.lane = lane && resvOld s core r) } else x
  let ft (x : Team) : Team := if x.num = t then { x with groups := x.groups.map (fg x.core) } else x
  modLaunch l (fun x => { x with teams := x.teams.map ft }) s
/-- RESERVATION_EXPIRY (R236). -/
def execReservationExpiry (launch team group lane : Nat) (s : State) :=
  live .fab s (reservationExpiryE launch team group lane)

end Sys2Proof.Machine
end

