-- ==== Sys2Proof/Machine/SimtWord.lean ====
section
/-! DEFINITION. Which SIMT and press words are undefined encodings (R179, R214, R215, R216, R217, R220, R228, R230, R323), in
the register roles and codes of log 8 (PRESUMED). -/

namespace Sys2Proof.Machine

/-- Major opcodes that R219 defines. -/
def opcDefined (o : Nat) : Bool :=
  o ≤ 0x09 || (0x10 ≤ o && o ≤ 0x1D) || (0x20 ≤ o && o ≤ 0x2D) || (0x30 ≤ o && o ≤ 0x35) || (0x40 ≤ o && o ≤ 0x44)
    || (0x50 ≤ o && o ≤ 0x59) || o = 0x60 || (0x70 ≤ o && o ≤ 0x74) || (0x80 ≤ o && o ≤ 0x82) || (0x90 ≤ o && o ≤ 0x92)
    || (0xA0 ≤ o && o ≤ 0xA3) || (0xB0 ≤ o && o ≤ 0xB4) || (0xC0 ≤ o && o ≤ 0xC2) || (0xE0 ≤ o && o ≤ 0xE3)

def isPress (o : Nat) : Bool := 0xE0 ≤ o && o ≤ 0xE3

/-- Opcodes that accept Format I (R214): ADD, SUB, MUL, MIN, MAX, MINU, MAXU, AND, OR, XOR, SHL, SHR, SAR, ROT, PCMP, SEL, MOV. -/
def takesImm (o : Nat) : Bool :=
  [0x10, 0x11, 0x12, 0x16, 0x17, 0x1A, 0x1B, 0x20, 0x21, 0x22, 0x24, 0x25, 0x26, 0x27, 0x30, 0x31, 0x35].contains o

/-- Reserved bits of the format are zero (R214, R179). -/
def formatOk (w : Nat) : Bool :=
  let o := w % 256
  if o = 0xE0 then bits w 15 12 = 0 && bits w 63 30 = 0
  else if o = 0xE1 then bits w 15 12 = 0 && bits w 63 39 = 0
  else if o = 0xE2 then bits w 15 12 = 0 && bits w 63 49 = 0
  else if o = 0xE3 then bits w 8 8 = 0 && bits w 15 12 = 0 && bits w 63 22 = 0
  else if o = 1 || o = 3 then bits w 59 56 = 0
  else if wFi w then takesImm o
  else bits w 58 48 = 0

/-- Bytes of an access whose size code is `m` (R230 MOD[3:0]). -/
def accBytes (m : Nat) : Nat := 2 ^ (m % 16)
/-- Registers that hold an access of `n` bytes. -/
def regsFor (n : Nat) : Nat := (n + 3) / 4
/-- Bytes of an atomic: MOD[3] = 0 is 4 B, 1 is 8 B. -/
def atomSize (m : Nat) : Nat := if bits m 3 3 = 1 then 8 else 4
def isCas (m : Nat) : Bool := m % 8 = 7

/-- Registers that a word names: first and number. -/
def regsNamed (w : Nat) : List (Nat × Nat) :=
  let o := w % 256
  let d := (wRd w, 1); let a := (wRa w, 1); let b := (wRb w, 1); let c := (wRc w, 1)
  let bI := if wFi w then [] else [b]
  let ad := (wRa w, 2)
  let n := regsFor (accBytes (wMod w))
  let na := regsFor (atomSize (wMod w))
  if o = 0x02 then [ad]
  else if o = 0x09 then [c]
  else if o ≤ 0x09 then []
  else if [0x15, 0x2B, 0x2D, 0x41, 0x52, 0x53, 0x70].contains o then [d, a, b, c]
  else if [0x18, 0x19, 0x23, 0x28, 0x29, 0x2C, 0x43, 0x44].contains o then [d, a]
  else if o = 0x30 then a :: bI
  else if o = 0x32 then []
  else if o = 0x33 || o = 0xB1 then [d]
  else if o = 0x34 || o = 0xB2 || o = 0xB4 || o = 0xC0 || o = 0xC2 then [a]
  else if o = 0x35 then d :: bI
  else if o = 0x71 then [d, c]
  else if o = 0x72 || o = 0x73 || o = 0x74 then [d, a, c]
  else if o = 0x80 then [(wRd w, n), ad]
  else if o = 0x81 then [(wRb w, n), ad]
  else if o = 0x82 then [ad]
  else if o = 0x90 then [(wRd w, n), a]
  else if o = 0x91 then [(wRb w, n), a]
  else if o = 0x92 then [(wRd w, na), a, (wRb w, na)] ++ (if isCas (wMod w) then [(wRc w, na)] else [])
  else if o = 0xA0 then [(wRd w, na), ad, (wRb w, na)] ++ (if isCas (wMod w) then [(wRc w, na)] else [])
  else if o = 0xA1 then [ad, (wRb w, na)]
  else if o = 0xA2 then [(wRd w, n), ad]
  else if o = 0xA3 then [d, (wRb w, n), ad]
  else if o = 0xB0 then []
  else if o = 0xB3 then [(wRd w, 4)]
  else if o = 0xC1 then [a, b]
  else if o = 0xE0 || o = 0xE1 then [(wAdj w, 1)]
  else if o = 0xE2 then [(wAdj w, 1), (wHreg w, 1)]
  else if o = 0xE3 then []
  else d :: a :: bI

/-- An ordering attribute is allowed (R230): bit i of `allowed` for ORD = i. -/
def ordOk (allowed m : Nat) : Bool := allowed.testBit (m / 64) && (m / 64 ≠ 0 || bits m 5 4 = 0)

/-- MOD or MODI holds an assigned value (R215, R216, R217, R228, R230, R323). -/
def modOk (w : Nat) : Bool :=
  let o := w % 256
  let m := wMod w
  if isPress o || o = 1 || o = 3 then true
  else if wFi w then (if o = 0x30 then wModi w < 6 else if o = 0x31 then true else wModi w = 0)
  else if o = 0x2A then m < 64
  else if o = 0x2B then m < 32
  else if o = 0x30 then m < 16 && m % 8 < 6
  else if o = 0x31 then m < 8
  else if o = 0x32 then m < 16
  else if o = 0x72 || o = 0x74 then m < 6
  else if [0x40, 0x41, 0x42, 0x43].contains o then bits m 6 6 = 0
  else if o = 0x44 then 2 ≤ m && m ≤ 31
  else if o = 0x50 then [0, 1, 3, 4].contains m
  else if o = 0x51 then m < 2
  else if o = 0x52 then m < 4
  else if o = 0x53 then m < 3
  else if o = 0x57 then m < 64
  else if o = 0x80 then m % 16 ≤ 4 && ordOk 3 m
  else if o = 0x81 then m % 16 ≤ 4 && ordOk 5 m
  else if o = 0x90 || o = 0x91 then m ≤ 4
  else if o = 0x92 then m < 16
  else if o = 0xA0 then ordOk 15 m
  else if o = 0xA1 then m % 8 < 6 && ordOk 5 m
  else if o = 0xA2 then (m % 16 = 2 || m % 16 = 3) && ordOk 3 m
  else if o = 0xA3 then (m % 16 = 2 || m % 16 = 3) && ordOk 5 m
  else if o = 0xB0 then m < 16 && m / 4 ≠ 3
  else if o = 0xC0 || o = 0xC1 || o = 0xC2 then m < 8
  else m = 0

/-- Fields that an instruction fixes are as it says: predicate fields (R215), registers that must be zero (R228, R323), the
special register of S2V. -/
def fieldsOk (w : Nat) : Bool :=
  let o := w % 256
  if o = 0x30 then 1 ≤ wRd w && wRd w ≤ 7
  else if o = 0x32 then 1 ≤ wRd w && wRd w ≤ 7 && wRa w ≤ 7 && wRb w ≤ 7
  else if o = 0x71 then wRa w ≤ 7
  else if o = 0xB0 then wRd w = 0 && wRa w = 0 && wRb w = 0 && wRc w = 0
  else if o = 0xB1 then wRa w < 10
  else if o = 0xC0 then wRd w = 0 && wRb w = 0 && wRc w = 0
  else if o = 0xC1 || o = 0xC2 then wRd w = 0 && wRc w = 0
  else true

/-- The word is no undefined encoding in a launch with `regs` registers a thread (R220). -/
def wordOk (regs w : Nat) : Bool :=
  opcDefined (w % 256) && formatOk w && modOk w && fieldsOk w && (regsNamed w).all fun r => r.1 + r.2 ≤ regs

end Sys2Proof.Machine
end

