-- ==== Sys2Proof/Machine/Simt.lean ====
section
/-! DEFINITION. SIMT cores (R196 to R224): how a path of a group issues, control instructions, group waits, the placement of
teams and the end of a launch. -/

namespace Sys2Proof.Machine

/-! ## Groups -/

def Group.pc (g : Group) (i : Nat) : Nat := fget g.pc0 g.pcs i
def Group.reg (g : Group) (i n : Nat) : W32 := fget 0 g.regs (256 * i + n)
def Group.setReg (g : Group) (i n : Nat) (v : W32) : Group := { g with regs := fset 0 g.regs (256 * i + n) v }
/-- A predicate; 0 reads as true (R215). -/
def Group.pred (g : Group) (i p : Nat) : Bool := p = 0 || fget false g.preds (8 * i + p)
def Group.setPred (g : Group) (i p : Nat) (v : Bool) : Group := { g with preds := fset false g.preds (8 * i + p) v }
def Group.goto (g : Group) (lanes : List Nat) (pc : Nat) : Group :=
  { g with pcs := lanes.foldl (fun m i => fset g.pc0 m i pc) g.pcs }
def Group.isExited (g : Group) (i : Nat) : Bool := g.exited.getLsbD i
/-- The thread waits at BAR or GSYNC. -/
def Group.waits (g : Group) (i : Nat) : Bool := g.arrived.getLsbD i || g.gs.any fun x => x.1 = i
/-- Reservations of these threads end. -/
def Group.endResv (g : Group) (lanes : List Nat) : Group := { g with resv := g.resv.filter fun r => !lanes.contains r.lane }
/-- Two consecutive registers, the lower one first. -/
def Group.reg64 (g : Group) (i n : Nat) : Nat := pair (g.reg i n) (g.reg i (n + 1))

/-- The value of `n` registers from `r` on. -/
def Group.regBytes (g : Group) (i r n : Nat) : Bytes := ((List.range (regsFor n)).flatMap fun k => leBytes 4 (g.reg i (r + k)).toNat).take n
/-- Writes `b` to registers from `r` on; bits above a value narrower than a register are `hi`'s (DESIGN CHOICE, log 3). -/
def Group.putBytes (g : Group) (i r : Nat) (b : Bytes) (hi : W32) : Group :=
  (List.range (regsFor b.length)).foldl (fun g k =>
    let p := (b.drop (4 * k)).take 4
    let v := BitVec.ofNat 32 (leNat p)
    g.setReg i (r + k) (if p.length = 4 then v else v ||| (hi &&& maskOf 31 (8 * p.length)))) g

def modGroup (l t g : Nat) (f : Group → Group) (s : State) : State :=
  let ft (x : Team) : Team := if x.num = t then { x with groups := mapWhere (fun y => decide (y.num = g)) f x.groups } else x
  modLaunch l (fun x => { x with teams := x.teams.map ft }) s

/-! ## Issue (R207) -/

/-- A path about to execute a word: its launch, team and group, its program counter, its threads, those whose guard is true. -/
structure Path where
  l : Launch
  t : Team
  g : Group
  pc : Nat
  lanes : List Nat
  act : List Nat
  w : Nat

def Path.a (p : Path) (i : Nat) : W32 := p.g.reg i (wRa p.w)
def Path.b (p : Path) (i : Nat) : W32 := if wFi p.w then BitVec.ofNat 32 (wImm p.w) else p.g.reg i (wRb p.w)
def Path.c (p : Path) (i : Nat) : W32 := p.g.reg i (wRc p.w)
def Path.m (p : Path) : Nat := if wFi p.w then wModi p.w else wMod p.w

def guardOf (g : Group) (w i : Nat) : Bool := isPress (w % 256) || (g.pred i (wPg w) != wPn w)

/-- The thread belongs to a path that may issue. -/
def Group.live (g : Group) (i : Nat) : Bool := !g.isExited i && !g.waits i

/-- Paths other than that of the lanes that have let at least `m` instructions of their group go by. -/
def Group.behind (g : Group) (lanes : List Nat) (m : Nat) : Nat :=
  (((List.range 32).filter fun i => g.live i && !lanes.contains i && m ≤ fget 0 g.skips i).map g.pc).eraseDups.length

/-- If the path of the lanes issued now, not every other path could issue once in 64 consecutive instructions (R210). -/
def Group.overdue (g : Group) (lanes : List Nat) : Bool := (List.range 64).any fun m => 63 - m < g.behind lanes m

/-- The path of the lanes issues: the instructions that each other path has let go by (R210). -/
def Group.noteSkips (g : Group) (lanes : List Nat) : Group :=
  { g with skips := (List.range 32).foldl (fun m i => if g.live i && !lanes.contains i then fmod 0 m i (· + 1) else fset 0 m i 0) g.skips }

/-- A memory access or a wait, in the terms of R237; its local-store accesses and its tensor-mover and press words count among them
(DEDUCED, log 11). -/
def isBusyWord (o : Nat) : Bool := o = 0x06 || o = 0x09 || o = 0x60 || (0x80 ≤ o && o ≠ 0xB1)

/-- The instructions that a thread has executed since its LDR (R237). -/
def Group.noteResv (g : Group) (lanes act : List Nat) (busy : Bool) : Group :=
  let f (r : Resv) : Resv :=
    if !lanes.contains r.lane then r else { r with n := if busy && act.contains r.lane then 33 else r.n + 1 }
  { g with resv := g.resv.map f }

/-- The path that issues: the threads at the program counter of the named one, in a group that is not stalled and of which no other path
must go first (R210), of a launch that has not ended, on a core that is not in reset. DEDUCED, log 10. -/
def pathOf (s : State) (opc : Nat) (x : Issue) : Option Path :=
  match findLaunch s x.launch with
  | none => none
  | some l =>
    match l.teams.find? fun t => t.num = x.team with
    | none => none
    | some t =>
      match t.groups.find? fun g => g.num = x.group with
      | none => none
      | some g =>
        if l.ending.isSome || s.flt.safe || g.wait = .event || clusterInReset s (t.core / 4) || 32 ≤ x.lane
            || g.isExited x.lane || g.waits x.lane then none
        else
          let pc := g.pc x.lane
          let lanes := (List.range 32).filter fun i => !g.isExited i && !g.waits i && g.pc i = pc
          let w := word opc x
          if g.overdue lanes then none
          else some { l := l, t := t, g := g, pc := pc, lanes := lanes, act := lanes.filter (guardOf g w), w := w }

/-- The launch of a path has a fault: it ends with FAULTED (R223); the record's SEQ is the DETAIL of its command and of its
work items. -/
def launchFault (l : Launch) (core source : Nat) (addr : Option Nat) (info : Nat) (s : State) : State :=
  let items := l.items.map Item.cmd
  let f (c : Cmd) : Cmd := { c with waitsReport := true, repOf := l.cmd }
  let s := { s with fe := { s.fe with cmds := mapWhere (fun c => c.id = l.cmd || items.contains c.id) f s.fe.cmds } }
  let s := modLaunch l.id (fun x => { x with ending := some 0x20 }) s
  detect (partOfCore core) { report source (some l.ctx) (locCore core) addr info with owner := some l.cmd } s

def pathFault (p : Path) (source : Nat) (addr : Option Nat) (info : Nat) (s : State) : State :=
  launchFault p.l p.t.core source addr info s

/-- R221. -/
def undefinedWord (p : Path) (s : State) : State := pathFault p 0x01 (some p.pc) p.w s

/-- The path's threads go on behind the word. -/
def Group.next (g : Group) (p : Path) : Group := { g.goto p.lanes ((p.pc + 8) % 2 ^ 52) with wait := .none }
def onGroup (p : Path) (f : Group → Group) (s : State) : State := modGroup p.l.id p.t.num p.g.num f s
def stall (p : Path) (w : Wait) (s : State) : State := onGroup p (fun g => { g with wait := w }) s

/-- The group of a path as the path issues: STC is the end of the sequence of R237. -/
def Path.issued (p : Path) : Group :=
  let o := p.w % 256
  let g := p.g.noteSkips p.lanes
  { g with resv := if o = 0xA3 then g.resv else (g.noteResv p.lanes p.act (isBusyWord o)).resv }

/-- The path with its group as it issues. -/
def Path.issue (p : Path) : Path := { p with g := p.issued }

/-- The path issues (R210, R237), its cluster clocked (R473). -/
def issuePath (p : Path) (s : State) : State :=
  onGroup p (fun _ => p.issued) { s with pwr := s.pwr.startClk (p.t.core / 4) }

/-- One word reached by a path: fetched (R223), checked (R221), and executed for the threads whose guard is true. -/
def runWord (opc : Nat) (x : Issue) (f : Path → State → State) (s : State) : State :=
  match pathOf s opc x with
  | none => s
  | some p =>
    let s := issuePath p s
    let p := p.issue
    if !allowed s p.pc 8 then pathFault p 0x04 (some p.pc) 0 s
    else if !wordOk p.l.regs p.w then undefinedWord p s
    else if p.act = [] then onGroup p (fun g => g.next p) s
    else f p s

/-- Domain of the core that a group is on. -/
def simtDom (s : State) (launch team : Nat) : Dom :=
  match findLaunch s launch with
  | some l => match l.teams.find? fun t => t.num = team with
    | some t => .part (partOfCore t.core)
    | none => .fab
  | none => .fab

/-- A SIMT or press row. -/
def simt (opc : Nat) (x : Issue) (s : State) (f : Path → State → State) : Host.Outcome State Fault Refusal :=
  live (simtDom s x.launch x.team) s (runWord opc x f)

/-- UNDEFINED_ENCODING (R220, R221): a word that is no defined instruction. -/
def execUndefinedEncoding (x : Issue) (opc : Byte) (s : State) : Host.Outcome State Fault Refusal :=
  live (simtDom s x.launch x.team) s fun s =>
    match pathOf s opc.toNat x with
    | none => s
    | some p =>
      if !allowed s p.pc 8 then pathFault p 0x04 (some p.pc) 0 s
      else if wordOk p.l.regs p.w then s else undefinedWord p s

/-- A register of each executing thread gets a value. -/
def writeRd (p : Path) (f : Nat → W32) (s : State) : State :=
  onGroup p (fun g => (p.act.foldl (fun g i => g.setReg i (wRd p.w) (f i)) g).next p) s

/-- A predicate of each executing thread gets a value. -/
def writePd (p : Path) (f : Nat → Bool) (s : State) : State :=
  onGroup p (fun g => (p.act.foldl (fun g i => g.setPred i (wRd p.w) (f i)) g).next p) s

/-! ## Control (rows 0x0 of R219) -/

/-- NOP_INSTR (R219). -/
def execNopInstr (x : Issue) (s : State) := simt 0x00 x s fun p s => onGroup p (fun g => g.next p) s

/-- Target of BRA and CALL: the word's address plus the signed offset in words (DEDUCED, log 12). -/
def braTarget (p : Path) : Nat := toBits 52 ((p.pc : Int) + 8 * signed 32 (wImm p.w))

/-- BRA (R214). -/
def execBra (x : Issue) (s : State) := simt 0x01 x s fun p s => onGroup p (fun g => (g.next p).goto p.act (braTarget p)) s

/-- BRX (R219): to the address in a pair of registers. -/
def execBrx (x : Issue) (s : State) := simt 0x02 x s fun p s =>
  onGroup p (fun g => p.act.foldl (fun g i => g.goto [i] (p.g.reg64 i (wRa p.w) % 2 ^ 52)) (g.next p)) s

/-- CALL (R214, R223). -/
def execCall (x : Issue) (s : State) := simt 0x03 x s fun p s =>
  if p.act.any fun i => 16 ≤ (fget [] p.g.callStacks i).length then pathFault p 0x06 (some p.pc) 0 s
  else onGroup p (fun g =>
    let g := (g.next p).goto p.act (braTarget p)
    { g with callStacks := p.act.foldl (fun m i => fset [] m i (((p.pc + 8) % 2 ^ 52) :: fget [] m i)) g.callStacks }) s

/-- RET (R223). -/
def execRet (x : Issue) (s : State) := simt 0x04 x s fun p s =>
  if p.act.any fun i => (fget [] p.g.callStacks i) = [] then pathFault p 0x06 (some p.pc) 0 s
  else onGroup p (fun g =>
    let g := p.act.foldl (fun g i => g.goto [i] ((fget [] p.g.callStacks i).headD 0)) (g.next p)
    { g with callStacks := p.act.foldl (fun m i => fset [] m i (fget [] m i).tail) g.callStacks }) s

def laneMask (l : List Nat) : BitVec 32 := BitVec.ofNat 32 (l.foldl (fun a i => a + 2 ^ i) 0)

/-- Threads that wait at GSYNC go on once no named thread is to come (R210). -/
def Group.releaseGs (g : Group) : Group :=
  let free := (g.gs.filter fun x => x.2 &&& ~~~g.exited = 0).map Prod.fst
  { free.foldl (fun g i => g.goto [i] ((g.pc i + 8) % 2 ^ 52)) g with gs := g.gs.filter fun x => !free.contains x.1 }

/-- The group waits in BAR once every thread of it that has not exited does (R209). -/
def Group.settleWait (g : Group) : Group :=
  if g.arrived ≠ 0 && g.arrived ||| g.exited = BitVec.allOnes 32 then { g with wait := .bar } else g

/-- Threads that wait at BAR go on once every thread of the team has arrived or exited (R211). -/
def Team.releaseBar (t : Team) : Team :=
  if t.groups.all fun g => g.arrived ||| g.exited = BitVec.allOnes 32 then
    let f (g : Group) : Group :=
      let l := (List.range 32).filter fun i => g.arrived.getLsbD i
      { l.foldl (fun g i => g.goto [i] ((g.pc i + 8) % 2 ^ 52)) g with
          arrived := 0, wait := if g.wait = .bar then .none else g.wait }
    { t with groups := t.groups.map f }
  else t

/-- The work items of a resident launch whose teams have all exited end with FAULTED (R202). -/
def endHandle (l : Nat) (s : State) : State :=
  match findLaunch s l with
  | none => s
  | some x => if x.resident && x.allExited then (x.items.map Item.cmd).foldl (fun s id => endCommand id 0x20 s) s else s

/-- A team whose threads have all exited leaves, and its allocation is free (R206). -/
def settleTeam (l t : Nat) (s : State) : State :=
  let f (x : Launch) : Launch := { x with teams := (x.teams.map fun y => if y.num = t then y.releaseBar else y).filter fun y =>
    !(y.num = t && y.groups.all fun g => g.exited = BitVec.allOnes 32) }
  endHandle l (modLaunch l f s)

/-- EXIT (R233, R201, R202). -/
def execExit (x : Issue) (s : State) := simt 0x05 x s fun p s =>
  let f (g : Group) : Group :=
    (({ (g.next p).endResv p.act with exited := g.exited ||| laneMask p.act }).releaseGs).settleWait
  settleTeam p.l.id p.t.num (onGroup p f s)

/-- BAR (R211, R231, R236): stores are at core level at once, so its fences never wait. -/
def execBar (x : Issue) (s : State) := simt 0x06 x s fun p s =>
  let f (g : Group) : Group :=
    let h := (g.next p).goto p.act p.pc
    ({ h.endResv p.act with arrived := g.arrived ||| laneMask p.act }).settleWait
  settleTeam p.l.id p.t.num (onGroup p f s)

/-- YIELD (R236). -/
def execYield (x : Issue) (s : State) := simt 0x07 x s fun p s => onGroup p (fun g => (g.next p).endResv p.act) s

/-- Code of a TRAP: bits [39:24] (PRESUMED, log 8). -/
def trapCode (w : Nat) : Nat := bits w 39 24

/-- TRAP (R223). -/
def execTrap (x : Issue) (s : State) := simt 0x08 x s fun p s => pathFault p 0x07 (some p.pc) (trapCode p.w) s

/-- GSYNC (R210): a thread that its mask names waits for the threads named. -/
def execGsync (x : Issue) (s : State) := simt 0x09 x s fun p s =>
  onGroup p (fun g =>
    let came := laneMask p.act
    let wait := p.act.filter fun i => (p.c i).getLsbD i
    let here := laneMask (g.gs.map Prod.fst)
    let gs := g.gs.map (fun y => (y.1, y.2 &&& ~~~came)) ++ wait.map fun i => (i, p.c i &&& ~~~(here ||| came))
    ({ (g.next p).goto wait p.pc with gs := gs }).releaseGs) s

/-! ## Waits (R209) -/

def groupWakeE (l t g : Nat) (s : State) : State :=
  match findLaunch s l with
  | none => s
  | some x => match x.teams.find? fun y => y.num = t with
    | none => s
    | some y =>
      modGroup l t g (fun g => if g.wait = .event then { g with wait := .none } else g)
        { s with pwr := s.pwr.startClk (y.core / 4) }
/-- GROUP_WAKE (R209): a stalled group resumes at the word that it waits in. -/
def execGroupWake (launch team group : Nat) (s : State) : Host.Outcome State Fault Refusal :=
  live (simtDom s launch team) s (groupWakeE launch team group)

/-! ## Placement (R198 to R200, R173) -/

/-- Teams resident on a core, with their launches. -/
def teamsOn (s : State) (c : Nat) : List (Launch × Team) :=
  s.simt.launches.flatMap fun l => (l.teams.filter fun t => t.core = c).map fun t => (l, t)

/-- First KiB of a free range of `n` KiB in a local store of `size` KiB. -/
def freeRange (used : List (Nat × Nat)) (size n : Nat) : Option Nat :=
  (List.range (size + 1 - n)).find? fun a => used.all fun u => a + n ≤ u.1 || u.1 + u.2 ≤ a

/-- The core belongs to the launch's cluster or home partition (R198). -/
def coreFor (l : Launch) (c : Nat) : Bool :=
  c < 256 && match l.cluster with
    | some k => c / 4 = k
    | none => c / 32 = l.home

def sumOf (l : List Nat) : Nat := l.foldl (· + ·) 0

/-- First KiB of the team's local store and its group slots, when the core meets R199 with the team added. -/
def fits (s : State) (l : Launch) (c : Nat) : Option (Nat × List Nat) :=
  let rs := teamsOn s c
  let used := rs.flatMap fun r => r.2.groups.map Group.slot
  let slots := ((List.range 48).filter fun i => !used.contains i).take l.teamGroups
  let regs := sumOf (rs.map fun r => r.1.regs * r.1.teamGroups)
  let ls := sumOf (rs.map fun r => r.1.lsKib)
  let streamsFree (i : Nat) : Bool := match (fget {} s.simt.streams (2 * c + i)).launch with
    | some x => x = l.id
    | none => true
  if slots.length < l.teamGroups || 1536 < regs + l.regs * l.teamGroups || splitLs l.split < ls + l.lsKib || 32 ≤ rs.length
      || (rs ≠ [] && (coreAt s c).split ≠ l.split)
      || (l.pdt ≠ [] && (rs.any (fun r => r.1.id ≠ l.id && r.1.pdt ≠ []) || !streamsFree 0 || !streamsFree 1))
      || (l.resident && rs.any fun r => r.1.id ≠ l.id && r.1.resident && r.1.ctx = l.ctx) then none
  else (freeRange (rs.map fun r => (r.2.lsBase / 1024, r.1.lsKib)) (splitLs l.split) l.lsKib).map fun a => (a, slots)

/-- A core that holds no launch takes the launch's split: its L1 is written back and invalidated (R200, R277). DESIGN CHOICE, log 20. -/
def takeSplit (c sp : Nat) (s : State) : State :=
  if (coreAt s c).split = sp then s
  else
    let s := writeBackL1 c s
    let ls := (coreAt s c).l1.map L1Line.line
    let s := modCore c (fun k => { k with split := sp, l1 := [] }) s
    ls.foldl (fun s l => dirRemove c l s) s

/-- Press of the cluster that serves a stream (R172, R173): the one with fewer streams bound, press 0 when both have as many (DESIGN
CHOICE, log 17). -/
def pressFor (s : State) (c : Nat) : Nat :=
  let n (p : Nat) : Nat := (s.simt.streams.filter fun e => e.1 / 8 = c / 4 && e.2.launch.isSome && e.2.press = p).length
  if n 1 < n 0 then 1 else 0

/-- Binds a stream to a launch, emptied (R174). -/
def bindStream (l c i : Nat) (s : State) : State :=
  if (fget {} s.simt.streams (2 * c + i)).launch = some l then s
  else
    { s with simt := { s.simt with streams := fset {} s.simt.streams (2 * c + i) { launch := some l, press := pressFor s c } } }

def newTeam (l : Launch) (c base : Nat) (slots : List Nat) : Team :=
  { num := l.placed, core := c, lsBase := base * 1024,
    groups := (slots.zip (List.range l.teamGroups)).map fun (sl, i) => { num := i, pc0 := l.code, slot := sl } }

/-- The team is placed: zeroed registers, predicates and local store (R198). -/
def placeTeam (l : Launch) (c base : Nat) (slots : List Nat) (s : State) : State :=
  let s := if teamsOn s c = [] then takeSplit c l.split s else s
  let hit (a : Nat) : Bool := base * 1024 ≤ a && a < (base + l.lsKib) * 1024
  let s := modCore c (fun k => { k with ls := k.ls.filter (fun b => !hit b.1), lsBad := k.lsBad.filter (fun b => !hit b.1) }) s
  let s := if l.pdt = [] then s else bindStream l.id c 1 (bindStream l.id c 0 s)
  let t := newTeam l c base slots
  let s := modLaunch l.id (fun x => { x with placed := x.placed + 1, teams := x.teams ++ [t] }) s
  let s := modCmd l.cmd (fun x => { x with clusters := if x.clusters.contains (c / 4) then x.clusters else x.clusters ++ [c / 4] }) s
  let s := { s with pwr := s.pwr.startClk (c / 4) }
  if l.resident && l.placed + 1 = l.nteams then readyCmd l.cmd 0 s else s

/-- Launches with a team that a core of the partition fits (R357). -/
def teamReqs (s : State) (part : Nat) : List (Nat × Nat) :=
  (s.simt.launches.filter fun l => l.ending.isNone && l.placed < l.nteams && (List.range 32).any fun i =>
    coreFor l (32 * part + i) && !clusterInReset s ((32 * part + i) / 4) && (fits s l (32 * part + i)).isSome).map fun l => (l.ctx, l.sq)

def teamPlaceE (launch core : Nat) (s : State) : State :=
  match findLaunch s launch with
  | none => s
  | some l =>
    if l.ending.isSome || l.nteams ≤ l.placed || !coreFor l core || clusterInReset s (core / 4) || s.flt.safe then s
    else match fits s l core with
      | some (base, slots) =>
        if !s.fe.mayServe (.team (partOfCore core)) (teamReqs s (partOfCore core)) (l.ctx, l.sq) then s
        else placeTeam l core base slots
          { s with fe := s.fe.serve (.team (partOfCore core)) (teamReqs s (partOfCore core)) (l.ctx, l.sq) 1 }
      | none => s
/-- TEAM_PLACE (R198, R199, R357): the next team in number on a core that fits it. -/
def execTeamPlace (launch core : Nat) (s : State) := live (.part (partOfCore core)) s (teamPlaceE launch core)

/-! ## The commands (R201 to R203) and the end (R224) -/

/-- LAUNCH (R196, R201): its checks are those of admission, which starts the launch. -/
def execLaunch (id : Nat) (s : State) :=
  live .fab s fun s => startOp id .launch s fun c s =>
    if lnAttach c.bytes then s else modCmd id (fun c => { c with phase := .running }) s
/-- LAUNCH_ATTACH (R203): its item is queued at admission. -/
def execLaunchAttach (id : Nat) (s : State) :=
  live .fab s fun s => startOp id .launch s fun c s =>
    if lnAttach c.bytes then modCmd id (fun c => { c with phase := .running }) s else s

/-- Press instructions and transfers of the launch that have not completed (R201). -/
def pressBusy (s : State) (l : Nat) : Bool :=
  s.simt.streams.any fun e => e.2.launch = some l && (e.2.queue ≠ [] || e.2.running ≠ [])
def moverBusy (s : State) (l : Nat) : Bool :=
  s.mov.xfers.any fun x => match x.owner with
    | .simt y _ _ _ _ _ => y = l
    | _ => false

/-- What the stores of a launch need to reach system level (R270): its lines with a tag in force are released; else the M lines of its
write-through regions are written back. A resident launch whose record is issued has no tag that is not in force. -/
def settleLaunch (x : Launch) (s : State) : State :=
  let inForce : Bool := match s.fe.cmd x.cmd with
    | some c => releaseInForce s c
    | none => true
  if inForce then (if taggedOut s x.cmd then releaseAll x.cmd s else s)
  else returnM (fun l => l.tag = some x.cmd && !isHostLine l.line && policyAt s.rat.com (l.line * 128) = 1) s

/-- Every team of the launch has exited, and its press instructions and transfers have completed (R201). -/
def launchOver (s : State) (x : Launch) : Bool :=
  x.nteams ≤ x.placed && x.teams = [] && !pressBusy s x.id && !moverBusy s x.id

def launchEndE (l : Nat) (s : State) : State :=
  match findLaunch s l with
  | none => s
  | some x =>
    match x.ending with
    | some st => endLaunch l st s
    | none =>
      if !launchOver s x || storesHeld s x.cmd then s
      else
        let s := settleLaunch x s
        if writesOut s x.cmd then s else endLaunch l (if x.resident then 0x20 else 0) s
/-- LAUNCH_END (R201, R202, R224). -/
def execLaunchEnd (launch : Nat) (s : State) := live .fab s (launchEndE launch)

end Sys2Proof.Machine
end

