-- ==== Sys2Proof/Machine/SimtAlu.lean ====
section
/-! DEFINITION. Integer, logic, compare and move, fixed-point, block-scale, table and group instructions (R214 to R218). -/

namespace Sys2Proof.Machine

/-- Result of an instruction of three register operands and MOD, or of an immediate and MODI (R214). -/
def alu (opc : Nat) (x : Issue) (s : State) (f : W32 → W32 → W32 → Nat → W32) : Host.Outcome State Fault Refusal :=
  simt opc x s fun p s => writeRd p (fun i => f (p.a i) (p.b i) (p.c i) p.m) s

def ofInt32 (i : Int) : W32 := BitVec.ofInt 32 i

/-- Clamp to the signed or unsigned 32-bit range. -/
def clampS (i : Int) : W32 := ofInt32 (clampI i (-2147483648) 2147483647)
def clampU (i : Int) : W32 := ofInt32 (clampI i 0 4294967295)

/-! ## Row 0x1: integer -/

/-- ADD (R214). -/
def execAdd (x : Issue) (s : State) := alu 0x10 x s fun a b _ _ => a + b
/-- SUB (R214). -/
def execSub (x : Issue) (s : State) := alu 0x11 x s fun a b _ _ => a - b
/-- MUL (R214): the low 32 bits. -/
def execMul (x : Issue) (s : State) := alu 0x12 x s fun a b _ _ => a * b
/-- MULHI (R219): the high 32 bits of the signed product. -/
def execMulhi (x : Issue) (s : State) := alu 0x13 x s fun a b _ _ => ofInt32 (a.toInt * b.toInt / 2 ^ 32)
/-- MULHU (R219): the high 32 bits of the unsigned product. -/
def execMulhu (x : Issue) (s : State) := alu 0x14 x s fun a b _ _ => BitVec.ofNat 32 (a.toNat * b.toNat / 2 ^ 32)
/-- MAD (R219). -/
def execMad (x : Issue) (s : State) := alu 0x15 x s fun a b c _ => a * b + c
/-- MIN (R214), signed. -/
def execMin (x : Issue) (s : State) := alu 0x16 x s fun a b _ _ => if a.sle b then a else b
/-- MAX (R214), signed. -/
def execMax (x : Issue) (s : State) := alu 0x17 x s fun a b _ _ => if a.sle b then b else a
/-- ABS (R219), wrapping (R214). -/
def execAbs (x : Issue) (s : State) := alu 0x18 x s fun a _ _ _ => if a.slt 0 then -a else a
/-- NEG (R219), wrapping (R214). -/
def execNeg (x : Issue) (s : State) := alu 0x19 x s fun a _ _ _ => -a
/-- MINU (R214). -/
def execMinu (x : Issue) (s : State) := alu 0x1A x s fun a b _ _ => if a ≤ b then a else b
/-- MAXU (R214). -/
def execMaxu (x : Issue) (s : State) := alu 0x1B x s fun a b _ _ => if a ≤ b then b else a
/-- ADDS (R219): signed, saturating. -/
def execAdds (x : Issue) (s : State) := alu 0x1C x s fun a b _ _ => clampS (a.toInt + b.toInt)
/-- SUBS (R219): signed, saturating. -/
def execSubs (x : Issue) (s : State) := alu 0x1D x s fun a b _ _ => clampS (a.toInt - b.toInt)

/-! ## Row 0x2: logic and bits -/

/-- AND (R214). -/
def execAnd (x : Issue) (s : State) := alu 0x20 x s fun a b _ _ => a &&& b
/-- OR (R214). -/
def execOr (x : Issue) (s : State) := alu 0x21 x s fun a b _ _ => a ||| b
/-- XOR (R214). -/
def execXor (x : Issue) (s : State) := alu 0x22 x s fun a b _ _ => a ^^^ b
/-- NOT (R219). -/
def execNot (x : Issue) (s : State) := alu 0x23 x s fun a _ _ _ => ~~~a

/-- Free values for the threads of a group, one each, and the state that has used them (DESIGN CHOICE, log 3). -/
def freeLane (s : State) (i : Nat) : W32 := Config.freeBits 32 (s.freeCtr + i)
def useLanes (s : State) : State := { s with freeCtr := s.freeCtr + 32 }

/-- A shift; an amount of 32 or more has no stated result and gives a free value (DESIGN CHOICE, log 3). -/
def shift (opc : Nat) (x : Issue) (s : State) (f : W32 → Nat → W32) : Host.Outcome State Fault Refusal :=
  simt opc x s fun p s =>
    writeRd p (fun i => if (p.b i).toNat < 32 then f (p.a i) (p.b i).toNat else freeLane s i) (useLanes s)

/-- SHL (R214). -/
def execShl (x : Issue) (s : State) := shift 0x24 x s fun a n => a <<< n
/-- SHR (R214). -/
def execShr (x : Issue) (s : State) := shift 0x25 x s fun a n => a >>> n
/-- SAR (R214). -/
def execSar (x : Issue) (s : State) := shift 0x26 x s fun a n => a.sshiftRight n
/-- ROT (R214): to the left, by the amount modulo 32 (PRESUMED, log 8). -/
def execRot (x : Issue) (s : State) := alu 0x27 x s fun a b _ _ => a.rotateLeft (b.toNat % 32)

/-- Number of 1 bits. -/
def onesOf (a : W32) : Nat := ((List.range 32).filter fun i => a.getLsbD i).length
/-- ONES (R215). -/
def execOnes (x : Issue) (s : State) := alu 0x28 x s fun a _ _ _ => BitVec.ofNat 32 (onesOf a)
/-- LEAD (R215). -/
def execLead (x : Issue) (s : State) := alu 0x29 x s fun a _ _ _ => if a = 0 then 32 else BitVec.ofNat 32 (31 - Nat.log2 a.toNat)

/-- FEXT (R215). -/
def fextOf (a b : W32) (m : Nat) : W32 :=
  let n := m % 32 + 1
  let v := a.toNat / 2 ^ (b.toNat % 32) % 2 ^ n
  if m / 32 = 1 then ofInt32 (signed n v) else BitVec.ofNat 32 v
def execFext (x : Issue) (s : State) := alu 0x2A x s fun a b _ m => fextOf a b m
/-- FINS (R215). -/
def finsOf (a b c : W32) (m : Nat) : W32 :=
  let n := m % 32 + 1
  let mask : W32 := BitVec.ofNat 32 ((2 ^ n - 1) * 2 ^ (b.toNat % 32))
  (c &&& ~~~mask) ||| ((a <<< (b.toNat % 32)) &&& mask)
def execFins (x : Issue) (s : State) := alu 0x2B x s finsOf
/-- RBIT (R215). -/
def execRbit (x : Issue) (s : State) := alu 0x2C x s fun a _ _ _ => a.reverse
/-- BYSEL (R215). -/
def byselOf (a b c : W32) : W32 :=
  let str := a.toNat + 2 ^ 32 * b.toNat
  BitVec.ofNat 32 (leNat ((List.range 4).map fun k =>
    if fld c (4 * k + 3) (4 * k + 3) = 1 then (0 : Byte) else BitVec.ofNat 8 (str / 256 ^ fld c (4 * k + 2) (4 * k))))
def execBysel (x : Issue) (s : State) := alu 0x2D x s fun a b c _ => byselOf a b c

/-! ## Row 0x3: compare and move -/

/-- The comparison that MOD[2:0] selects, unsigned with MOD[3] (R215). -/
def compareOf (m : Nat) (a b : W32) : Bool :=
  let lt := if m / 8 = 1 then decide (a.toNat < b.toNat) else decide (a.toInt < b.toInt)
  match m % 8 with
  | 0 => a = b
  | 1 => a ≠ b
  | 2 => lt
  | 3 => lt || a = b
  | 4 => !(lt || a = b)
  | _ => !lt
/-- PCMP (R215). -/
def execPcmp (x : Issue) (s : State) := simt 0x30 x s fun p s => writePd p (fun i => compareOf p.m (p.a i) (p.b i)) s
/-- SEL (R214): Va where the predicate is true, else the second operand (PRESUMED, log 8). -/
def execSel (x : Issue) (s : State) := simt 0x31 x s fun p s =>
  writeRd p (fun i => if p.g.pred i p.m then p.a i else p.b i) s
/-- PLOG (R215). -/
def execPlog (x : Issue) (s : State) := simt 0x32 x s fun p s =>
  writePd p (fun i => p.m.testBit (2 * (p.g.pred i (wRa p.w)).toNat + (p.g.pred i (wRb p.w)).toNat)) s
/-- P2V (R219): bit k is predicate k (PRESUMED, log 8). -/
def execP2v (x : Issue) (s : State) := simt 0x33 x s fun p s =>
  writeRd p (fun i => BitVec.ofNat 32 (sumOf ((List.range 8).map fun k => if p.g.pred i k then 2 ^ k else 0))) s
/-- V2P (R219): predicate k is bit k, for k = 1 to 7 (PRESUMED, log 8). -/
def execV2p (x : Issue) (s : State) := simt 0x34 x s fun p s =>
  onGroup p (fun g => (p.act.foldl (fun g i =>
    (List.range 7).foldl (fun g k => g.setPred i (k + 1) (bit (p.a i) (k + 1))) g) g).next p) s
/-- MOV (R214): of the operand that Format I replaces. -/
def execMov (x : Issue) (s : State) := alu 0x35 x s fun _ b _ _ => b

/-! ## Row 0x4: fixed point (R216) -/

def fixed (m : Nat) (uns : Bool) (i : Int) : W32 := if m / 128 = 1 then (if uns then clampU i else clampS i) else ofInt32 i
/-- MULSH (R216). -/
def execMulsh (x : Issue) (s : State) := alu 0x40 x s fun a b _ m => fixed m false (rneScale (a.toInt * b.toInt) 1 (-(m % 64 : Nat)))
/-- MADSH (R216): c is added after the shift. -/
def execMadsh (x : Issue) (s : State) :=
  alu 0x41 x s fun a b c m => fixed m false (rneScale (a.toInt * b.toInt) 1 (-(m % 64 : Nat)) + c.toInt)
/-- MULSHU (R216). -/
def execMulshu (x : Issue) (s : State) :=
  alu 0x42 x s fun a b _ m => fixed m true (rneScale ((a.toNat * b.toNat : Nat) : Int) 1 (-(m % 64 : Nat)))
/-- RSHR (R216). -/
def execRshr (x : Issue) (s : State) := alu 0x43 x s fun a _ _ m => fixed m false (rneScale a.toInt 1 (-(m % 64 : Nat)))
/-- SATN (R216). -/
def execSatn (x : Issue) (s : State) :=
  alu 0x44 x s fun a _ _ m => ofInt32 (clampI a.toInt (-(2 ^ (m - 1) : Nat)) ((2 ^ (m - 1) - 1 : Nat)))

/-! ## Row 0x5: block scale (R217) -/

def cod32 (a : W32) : Cod := codOf 2 a.toNat
def w32Of (c : Cod) : W32 := BitVec.ofNat 32 (bitsOfCod 2 c)
/-- A result of IB32: a finite one out of range becomes the infinity of its sign. -/
def ib32 (c : Cod) : W32 := w32Of (match c with
  | .int v => clipCod (fmtLo 2) (fmtHi 2) v (decide (v < 0))
  | c => c)

/-- Elements of a packed word in a format, and the bits of each. -/
def elemBits (m : Nat) : Nat := if m = 4 then 2 else fmtBits m
def packedElem (m : Nat) (a i : Nat) : Nat := a / 2 ^ (elemBits m * i) % 2 ^ elemBits m
/-- An element number within the word. -/
def elemIn (m : Nat) (i : Nat) : Bool := (i + 1) * elemBits m ≤ 32

/-- BUNP (R217); an element beyond the word has no stated value (DESIGN CHOICE, log 3). -/
def bunpOf (a : W32) (i m : Nat) : W32 :=
  let v := packedElem m a.toNat i
  if m = 4 then BitVec.ofNat 32 v else w32Of (codOf m v)
def execBunp (x : Issue) (s : State) := simt 0x50 x s fun p s =>
  writeRd p (fun i => if elemIn p.m (p.b i).toNat then bunpOf (p.a i) (p.b i).toNat p.m else freeLane s i) (useLanes s)

/-- A finite code outside the format's range becomes the infinity of its sign; specials map to specials. -/
def narrow (m : Nat) (c : Cod) : Cod := match c with
  | .int v => clipCod (fmtLo m) (fmtHi m) v (decide (v < 0))
  | c => c

/-- BPK (R217): the old value of Vd with one element replaced. -/
def bpkOf (d a : W32) (i m : Nat) : W32 :=
  let n := fmtBits m
  setFld d (n * i + n - 1) (n * i) (bitsOfCod m (narrow m (cod32 a)))
def execBpk (x : Issue) (s : State) := simt 0x51 x s fun p s =>
  writeRd p (fun i => if elemIn p.m (p.b i).toNat then bpkOf (p.g.reg i (wRd p.w)) (p.a i) (p.b i).toNat p.m else freeLane s i)
    (useLanes s)

/-- BSQ (R217). -/
def bsqOf (a : W32) (e t : Int) (m : Nat) : W32 :=
  match cod32 a with
  | .int v => BitVec.ofNat 32 (toBits 32 (match narrow m (.int (rneScale v 1 (e - t))) with
    | .int x => x
    | c => signed (fmtBits m) (bitsOfCod m c)))
  | c => BitVec.ofNat 32 (toBits 32 (signed (fmtBits m) (bitsOfCod m c)))
def execBsq (x : Issue) (s : State) := alu 0x53 x s fun a b c m => bsqOf a b.toInt c.toInt m

/-- Sum of two codes by R50. -/
def addCod (a b : Cod) : Cod := match a, b with
  | .int x, .int y => .int (x + y)
  | a, b => addSpecial a b
def negCod : Cod → Cod
  | .int v => .int (-v)
  | .inf n => .inf (!n)
  | .nan => .nan
/-- BADD (R217). -/
def execBadd (x : Issue) (s : State) := alu 0x54 x s fun a b _ _ => ib32 (addCod (cod32 a) (cod32 b))
/-- BSUB (R217). -/
def execBsub (x : Issue) (s : State) := alu 0x55 x s fun a b _ _ => ib32 (addCod (cod32 a) (negCod (cod32 b)))
/-- BMUL (R217). -/
def execBmul (x : Issue) (s : State) := alu 0x56 x s fun a b _ _ => ib32 (mulCod (cod32 a) (cod32 b))
/-- BMULSH (R217). -/
def execBmulsh (x : Issue) (s : State) := alu 0x57 x s fun a b _ m => ib32 (match mulCod (cod32 a) (cod32 b) with
  | .int v => .int (rneScale v 1 (-(m % 64 : Nat)))
  | c => c)
/-- Maximum of two codes by R50. -/
def maxCod (a b : Cod) : Cod := match a, b with
  | .nan, _ => .nan
  | _, .nan => .nan
  | .inf false, _ => .inf false
  | _, .inf false => .inf false
  | .inf true, x => x
  | x, .inf true => x
  | .int x, .int y => .int (max x y)
/-- BMAX (R217). -/
def execBmax (x : Issue) (s : State) := alu 0x58 x s fun a b _ _ => w32Of (maxCod (cod32 a) (cod32 b))
/-- BDP (R217, R47): hi and lo are IB8 codes, sign-extended. -/
def execBdp (x : Issue) (s : State) :=
  alu 0x59 x s fun a b _ _ => w32Of (pairCod (codOf 0 (toBits 8 a.toInt)) (codOf 0 (toBits 8 b.toInt)))

/-! ## Row 0x6: table and interpolate (R218) -/

/-- Outcome of a TLI: its value, or the local-store offset that lies outside the launch's allocations. -/
inductive Tli where
  | val (d : W32)
  | out (off : Nat)
  | bad
deriving DecidableEq, Repr

def lsRead (s : State) (c a n : Nat) : Bytes := memRead (coreAt s c).ls a n
/-- Some byte of the local store was written as poison (R324). -/
def lsPoison (s : State) (c a n : Nat) : Bool := (coreAt s c).lsBad.any fun e => a ≤ e.1 && e.1 < a + n
def lsS16 (s : State) (c a : Nat) : Int := signed 16 (leNat (lsRead s c a 2))

def tliOf (s : State) (l : Launch) (c : Nat) (x tab : W32) : Tli :=
  let b := tab.toNat
  if !inTeams l c b 8 then .out b
  else if lsPoison s c b 8 then .bad
  else
    let h := lsRead s c b 8
    let sh := num h 4 1
    let lg := num h 5 1
    if 30 < sh || lg < 2 || 8 < lg || num h 6 2 ≠ 0 then .val 0x80000000#32
    else
      let n := 2 ^ lg
      let u : Int := x.toInt - signed 32 (num h 0 4)
      let y (i : Nat) : Int := lsS16 s c (b + 8 + 2 * i)
      let i := (u / 2 ^ sh).toNat
      let one (j : Nat) : Tli :=
        if !inTeams l c (b + 8 + 2 * j) 2 then .out (b + 8 + 2 * j)
        else if lsPoison s c (b + 8 + 2 * j) 2 then .bad else .val (ofInt32 (y j * 2 ^ 16))
      if u < 0 then one 0
      else if n ≤ i then one n
      else if !inTeams l c (b + 8 + 2 * i) 4 then .out (b + 8 + 2 * i)
      else if lsPoison s c (b + 8 + 2 * i) 4 then .bad
      else .val (ofInt32 (y i * 2 ^ 16 + rneScale ((y (i + 1) - y i) * (u - i * 2 ^ sh)) 1 (16 - sh)))

/-- TLI (R218, R223). -/
def execTli (x : Issue) (s : State) := simt 0x60 x s fun p s =>
  let r (i : Nat) := tliOf s p.l p.t.core (p.a i) (p.b i)
  match p.act.findSome? fun i => match r i with
    | .out o => some o
    | _ => none with
  | some o => pathFault p 0x06 (some p.pc) (o % 2 ^ 19) s
  | none =>
    if p.act.any fun i => match r i with
      | .bad => true
      | _ => false then pathFault p 0x05 none p.pc s
    else writeRd p (fun i => match r i with
      | .val d => d
      | _ => 0) s

/-! ## Group collectives (R211, R215, BSE of R217) -/

/-- Lanes that a thread's member mask names. -/
def members (p : Path) (i : Nat) : List Nat := (List.range 32).filter fun k => (p.c i).getLsbD k

/-- Every named thread of thread `i` has reached the instruction or exited. -/
def metAll (p : Path) (i : Nat) : Bool := (members p i).all fun k => p.lanes.contains k || p.g.isExited k

/-- A collective: the threads whose named threads have all come execute; the others, and those they name, wait. -/
def collective (opc : Nat) (x : Issue) (s : State) (f : Path → Nat → W32) : Host.Outcome State Fault Refusal :=
  simt opc x s fun p s =>
    let stay := p.act.filter fun i => !metAll p i
    let held := stay ++ stay.flatMap (members p)
    let go := p.act.filter fun i => !stay.contains i
    let move := p.lanes.filter fun i => go.contains i || (!p.act.contains i && !held.contains i)
    onGroup p (fun g =>
      let g := go.foldl (fun g i => g.setReg i (wRd p.w) (f p i)) g
      { g.goto move ((p.pc + 8) % 2 ^ 52) with wait := if stay = [] then .none else .coll }) s

/-- Va of a named thread: zero once it has exited. -/
def memberVal (p : Path) (k : Nat) : W32 := if p.g.isExited k then 0 else p.a k

/-- GXCH (R215). -/
def execGxch (x : Issue) (s : State) := collective 0x70 x s fun p i =>
  let k := (p.b i).toNat % 32
  if (p.c i).getLsbD k then memberVal p k else 0
/-- GPOLL (R215). -/
def execGpoll (x : Issue) (s : State) := collective 0x71 x s fun p i =>
  laneMask ((members p i).filter fun k => !p.g.isExited k && p.g.pred k (wRa p.w))

/-- Combination of GFOLD and GPRE by MOD[2:0] (R215). -/
def foldOp (m : Nat) (a b : W32) : W32 :=
  match m % 8 with
  | 0 => a + b
  | 1 => if a.sle b then a else b
  | 2 => if a.sle b then b else a
  | 3 => a &&& b
  | 4 => a ||| b
  | _ => a ^^^ b
def foldVals (m : Nat) : List W32 → W32
  | [] => 0
  | v :: l => l.foldl (foldOp m) v
/-- GFOLD (R215). -/
def execGfold (x : Issue) (s : State) := collective 0x72 x s fun p i => foldVals p.m ((members p i).map (memberVal p))
/-- GPEER (R215). -/
def execGpeer (x : Issue) (s : State) := collective 0x73 x s fun p i =>
  laneMask ((members p i).filter fun k => memberVal p k = p.a i)
/-- GPRE (R215). -/
def execGpre (x : Issue) (s : State) := collective 0x74 x s fun p i =>
  foldVals p.m (((members p i).filter (· ≤ i)).map (memberVal p))

/-- Value of a thread for BSE: Va × 2^Ve, zero once it has exited. -/
def bseVal (p : Path) (k : Nat) : Val := if p.g.isExited k then .zero else codVal (cod32 (p.a k)) (p.b k).toInt
/-- BSE (R217, R53). -/
def execBse (x : Issue) (s : State) := collective 0x52 x s fun p i =>
  match idealExp (fmtLo p.m) (fmtHi p.m) ((members p i).map (bseVal p)) with
  | some e => ofInt32 e
  | none => 0x80000000#32

end Sys2Proof.Machine
end

