-- ==== Sys2Proof/Machine/SimtMem.lean ====
section
/-! DEFINITION. SIMT accesses to local store (R213, R223), to host memory and HVDM (R212, R230 to R240), atomics near and far
(R287, R288), reservations (R235), fences (R228 to R233), special registers and work items (R203). -/

namespace Sys2Proof.Machine

/-! ## Local store (row 0x9) -/

/-- Threads with the local-store offset that they access. -/
def lsAccess (p : Path) : List (Nat × Nat) := p.act.map fun i => (i, (p.a i).toNat)
/-- First access of `n` bytes outside the launch's allocations (R223). -/
def lsOut (p : Path) (n : Nat) : Option Nat :=
  (lsAccess p).findSome? fun x => if inTeams p.l p.t.core x.2 n then none else some x.2

/-- Some byte that the threads read was written as poison. -/
def lsBadRead (s : State) (p : Path) (n : Nat) : Bool := (lsAccess p).any fun x => lsPoison s p.t.core x.2 n

/-- LDS (R213, R223). -/
def execLds (x : Issue) (s : State) := simt 0x90 x s fun p s =>
  let n := accBytes (wMod p.w)
  match lsOut p n with
  | some o => pathFault p 0x06 (some p.pc) (o % 2 ^ 19) s
  | none => if lsBadRead s p n then pathFault p 0x05 none p.pc s else onGroup p (fun g => ((lsAccess p).foldl (fun g x =>
      g.putBytes x.1 (wRd p.w) (lsRead s p.t.core x.2 n) (freeLane s x.1)) g).next p) (useLanes s)

/-- STS (R213, R223): threads in ascending order (DESIGN CHOICE, log 9). -/
def execSts (x : Issue) (s : State) := simt 0x91 x s fun p s =>
  let n := accBytes (wMod p.w)
  match lsOut p n with
  | some o => pathFault p 0x06 (some p.pc) (o % 2 ^ 19) s
  | none => onGroup p (fun g => g.next p)
      ((lsAccess p).foldl (fun s x => writeLs p.t.core x.2 (p.g.regBytes x.1 (wRb p.w) n) s) s)

/-- Result of an atomic operation on `n` bytes (codes PRESUMED, log 8): add, signed minimum and maximum, AND, OR, XOR, exchange,
compare and swap. -/
def atomOp (op n old arg new : Nat) : Nat :=
  let so := signed (8 * n) old
  let sa := signed (8 * n) arg
  match op with
  | 0 => (old + arg) % 2 ^ (8 * n)
  | 1 => if so ≤ sa then old else arg
  | 2 => if so ≤ sa then arg else old
  | 3 => old &&& arg
  | 4 => old ||| arg
  | 5 => old ^^^ arg
  | 6 => arg
  | _ => if old = arg then new else old

/-- Operands of an atomic in a thread's registers. -/
def atomArgs (p : Path) (i : Nat) : Nat × Nat :=
  let n := atomSize (wMod p.w)
  (leNat (p.g.regBytes i (wRb p.w) n), if isCas (wMod p.w) then leNat (p.g.regBytes i (wRc p.w) n) else 0)

/-- ATS (R213, R223): threads in ascending order (DESIGN CHOICE, log 9). -/
def execAts (x : Issue) (s : State) := simt 0x92 x s fun p s =>
  let n := atomSize (wMod p.w)
  match lsOut p n with
  | some o => pathFault p 0x06 (some p.pc) (o % 2 ^ 19) s
  | none =>
    if lsBadRead s p n then pathFault p 0x05 none p.pc s else
    let r := (lsAccess p).foldl (fun (a : State × Group) x =>
      let b := lsRead a.1 p.t.core x.2 n
      let v := atomArgs p x.1
      (writeLs p.t.core x.2 (leBytes n (atomOp (wMod p.w % 8) n (leNat b) v.1 v.2)) a.1, a.2.putBytes x.1 (wRd p.w) b 0)) (s, p.g)
    onGroup p (fun _ => r.2.next p) r.1

/-! ## Translated accesses -/

/-- Part of a thread's access within one page: its bytes `off` to `off + n - 1` lie at home address `key` (a device address, or a
host physical address set apart by `hostLine`). -/
structure Piece where
  lane : Nat
  off : Nat
  n : Nat
  va : Nat
  key : Nat
deriving DecidableEq, Repr

def homeKey (s : State) (pa : Nat) : Nat := match hvdmOf s pa with
  | some a => a
  | none => pa + hostLine * 128

/-- What the accesses of a path meet in the ATC. -/
inductive Plan where
  | ok (ps : List Piece)
  | ask (l : List (Nat × Bool))
  | denied (va : Nat)
  | refused (va : Nat)
deriving DecidableEq, Repr

def planOf (s : State) (l : Launch) (write : Bool) (accs : List (Nat × Nat × Nat)) : Plan :=
  let ps : List (Nat × Nat × Nat × Nat) := accs.flatMap fun (i, va, n) => (pagesOf va n).map fun (a, k) => (i, a - va, a % 2 ^ 64, k)
  let rs := ps.map fun (i, o, va, n) => (i, o, va, n, xlat s l.ctx l.gen va write)
  match rs.find? fun r => r.2.2.2.2 = .denied with
  | some r => .denied r.2.2.1
  | none =>
    let asks := rs.filterMap fun r => match r.2.2.2.2 with
      | .miss nw => some (r.2.2.1, nw)
      | _ => none
    if asks ≠ [] then .ask asks
    else
      let ok := rs.filterMap fun (i, o, va, n, x) => match x with
        | .pa a => some (Piece.mk i o n va (homeKey s a), physOk s a n)
        | _ => none
      match ok.find? fun x => !x.2 with
      | some x => .refused x.1.va
      | none => .ok (ok.map Prod.fst)

/-- Accesses of a path at the addresses in register pairs. -/
def vaAccess (p : Path) (n : Nat) : List (Nat × Nat × Nat) := p.act.map fun i => (i, p.g.reg64 i (wRa p.w), n)

def Piece.lines (x : Piece) : List Nat := (List.range ((x.key + x.n - 1) / 128 - x.key / 128 + 1)).map fun i => x.key / 128 + i
def linesOf (ps : List Piece) : List Nat := (ps.flatMap Piece.lines).eraseDups

/-- A refused address (R267) names the launch's command. -/
def refusedFault (p : Path) (va : Nat) (s : State) : State := pathFault p 0x16 (some va) p.l.cid s

/-- Asks for translations; the group waits. -/
def askPages (p : Path) (store : Bool) (l : List (Nat × Bool)) (s : State) : State :=
  stall p .mem (l.foldl (fun s x => askXlat p.l.ctx p.l.gen x.1 x.2 (.group p.l.id p.t.num p.g.num store) p.pc s) s)

/-- An access that needs translations: faults of R223 and R314, else the effect. -/
def withPlan (p : Path) (write : Bool) (n : Nat) (s : State) (f : List Piece → State) : State :=
  match planOf s p.l write (vaAccess p n) with
  | .denied va => pathFault p (if write then 0x03 else 0x02) (some va) p.pc s
  | .refused va => refusedFault p va s
  | .ask l => askPages p write l s
  | .ok ps => f ps

/-- First misaligned access (R240). -/
def misaligned (p : Path) (n : Nat) : Option Nat := ((vaAccess p n).find? fun x => x.2.1 % n ≠ 0).map fun x => x.2.1

/-! ## Loads -/

/-- Sectors of a line as the core has them: in its L1, or returned to it (R253, R257). -/
def coreLine (s : State) (c line : Nat) : Option Got :=
  match if l1On s c then (coreAt s c).line line else none with
  | some l => some { line := line, sm := l.valid, data := l.data, poison := l.poison }
  | none => (coreAt s c).ret.find? fun r => r.line = line

/-- The sectors that the core has of a line. -/
def coreMask (s : State) (c line : Nat) : BitVec 4 := (coreLine s c line).elim 0 Got.sm

/-- The sectors of a line that an access touches (R212). -/
def pieceMask (ps : List Piece) (line : Nat) : BitVec 4 := ps.foldl (fun m x => m ||| sectorsOf line x.key x.n) 0

/-- Byte of a store of the core on its way, which its threads see (R232). -/
def storeByte (k : Core) (a : Nat) : Option Byte :=
  k.sb.reverse.findSome? fun e => if e.level = .core && e.line = a / 128 then (e.bytes.reverse.find? fun b => b.1 = a).map Prod.snd else none

def loadByte (s : State) (c a : Nat) : Byte :=
  match storeByte (coreAt s c) a with
  | some b => b
  | none => (coreLine s c (a / 128)).elim 0 fun r => r.data.getD (a % 128) 0

def piecePoison (s : State) (c : Nat) (x : Piece) : Bool :=
  (List.range ((x.key + x.n - 1) / 32 - x.key / 32 + 1)).any fun i =>
    (coreLine s c ((x.key / 32 + i) / 4)).any fun r => r.poison.getLsbD ((x.key / 32 + i) % 4)

/-- Bytes of a thread's access. -/
def laneBytes (s : State) (c i : Nat) (ps : List Piece) : Bytes :=
  (ps.filter fun x => x.lane = i).flatMap fun x => (List.range x.n).map fun k => loadByte s c (x.key + k)

/-- A request of a launch for sectors of a line joins the one that its core makes for it (R212). -/
def addMiss (m : Miss) (l : List Miss) : List Miss :=
  let same (x : Miss) : Bool := x.line = m.line && x.own = m.own && x.launch = m.launch
  if l.any same then l.map fun x => if same x then { x with sm := x.sm ||| m.sm } else x else l ++ [m]

/-- The core requests the sectors of lines that it lacks; the group waits. -/
def missLines (p : Path) (own : Bool) (ls : List (Nat × BitVec 4)) (s : State) : State :=
  let add (k : Core) (x : Nat × BitVec 4) : Core :=
    { k with miss := addMiss { line := x.1, own := own, launch := p.l.id, sm := x.2 } k.miss }
  stall p .mem (modCore p.t.core (fun k => ls.foldl add k) s)

/-- Reservations of a LDR (R235). -/
def Group.reserve (g : Group) (ps : List Piece) (now : W64) : Group :=
  let new (x : Piece) : Resv := { lane := x.lane, line := x.key / 128, at_ := now }
  { g with resv := g.resv.filter (fun r => !ps.any fun x => x.lane = r.lane) ++ ps.map new }

/-- A load whose pieces are at hand gives its bytes at its issue (DESIGN CHOICE, log 11); else the sectors that its core lacks are asked
for (R257). -/
def loadPieces (p : Path) (n : Nat) (resv : Bool) (ps : List Piece) (s : State) : State :=
  let c := p.t.core
  let lack := ((linesOf ps).map fun l => (l, pieceMask ps l &&& ~~~coreMask s c l)).filter fun x => x.2 ≠ 0
  if lack ≠ [] then missLines p false lack s
  else match ps.find? (piecePoison s c) with
    | some x => pathFault p 0x05 (some x.va) p.pc s
    | none =>
      let ls := linesOf ps
      let f (g : Group) : Group :=
        let g := (p.act.foldl (fun g i => g.putBytes i (wRd p.w) (laneBytes s c i ps) (freeLane s i)) g).next p
        if resv then g.reserve ps s.devtime else g
      onGroup p f (modCore c (fun k => { k with ret := k.ret.filter fun r => !ls.contains r.line })
        (if n < 4 then useLanes s else s))

/-- LD (R212, R238). -/
def execLd (x : Issue) (s : State) := simt 0x80 x s fun p s =>
  let n := accBytes (wMod p.w)
  withPlan p false n s fun ps => loadPieces p n false ps s

/-- A store of the core to one of the lines is at core level. -/
def storesTo (s : State) (c : Nat) (ls : List Nat) : Bool := (coreAt s c).sb.any fun e => e.level = .core && ls.contains e.line

/-- LDR (R235, R240): it waits for the stores of its core to the line, so that none that it has seen ends its reservation (R237;
DEDUCED, log 11). -/
def execLdr (x : Issue) (s : State) := simt 0xA2 x s fun p s =>
  let n := accBytes (wMod p.w)
  match misaligned p n with
  | some va => pathFault p 0x0A (some va) p.pc s
  | none => withPlan p false n s fun ps =>
    if storesTo s p.t.core (linesOf ps) then stall p .mem s else loadPieces p n true ps s

/-! ## Stores and drain points (R232, R233) -/

/-- Writes of stores at device level, of whatever core (R229: a fencing thread may have seen any of them). -/
def storeWrites (s : State) : Bool := anyOut s fun
  | .core _ _ => true
  | _ => false

/-- Whether the stores that a thread has made or seen have reached the level that a scope waits for, after the write-backs that a system
scope causes (R229, R233, R270). Every store of its core, and at system scope of any launch, is waited for (DEDUCED, log 11). -/
def drain (p : Path) (scope : Nat) (s : State) : State × Bool :=
  if scope < 2 then (s, true)
  else if (coreAt s p.t.core).sb.any fun e => e.level = .core then (s, false)
  else if scope = 2 then (s, true)
  else
    let s := s.simt.launches.foldl (fun s x => settleLaunch x s) s
    (s, !storeWrites s && !s.simt.launches.any fun x => writesOut s x.cmd)

/-- An access with release waits for earlier stores (R230, R233). -/
def afterRelease (p : Path) (s : State) (f : State → State) : State :=
  let m := wMod p.w
  if 2 ≤ m / 64 then
    let (s, ok) := drain p (bits m 5 4) s
    if ok then f s else stall p .mem s
  else f s

/-- Bytes of a piece of a thread's data at their home addresses. -/
def pieceBytes (x : Piece) (b : Bytes) : List (Nat × Byte) := placed x.key ((b.drop x.off).take x.n)

/-- Written bytes with one entry an address, the last. -/
def lastBytes (b : List (Nat × Byte)) : List (Nat × Byte) := b.foldl (fun l x => l.filter (fun y => y.1 ≠ x.1) ++ [x]) []

/-- Requests of a store: one for each line that it touches (R212), the threads in ascending order. -/
def storeEnts (p : Path) (ps : List Piece) (data : Nat → Bytes) : List StoreEnt :=
  (linesOf ps).map fun line =>
    let mine := ps.filter fun x => x.lines.contains line
    { launch := p.l.id, cmd := p.l.cmd, team := p.t.num, group := p.g.num, lanes := (mine.map Piece.lane).eraseDups, line := line,
      bytes := lastBytes ((mine.flatMap fun x => pieceBytes x (data x.lane)).filter fun b => b.1 / 128 = line), level := .core }

/-- A launch has written outside local store (R204). -/
def noteWrite (l : Nat) (s : State) : State := modLaunch l (fun x => { x with wrote := true }) s

/-- Stores enter the core's store buffer, visible to its threads (R232); the reservations of the threads that store to their line end
(R236). DESIGN CHOICE, log 11. -/
def putStores (p : Path) (es : List StoreEnt) (s : State) : State :=
  let own (r : Resv) : Bool := es.any fun e => e.lanes.contains r.lane && e.line = r.line
  noteWrite p.l.id (onGroup p (fun g => { g.next p with resv := g.resv.filter fun r => !own r })
    (modCore p.t.core (fun k => { k with sb := k.sb ++ es }) s))

/-- ST (R212, R232, R236): threads in ascending order (DESIGN CHOICE, log 9). -/
def execSt (x : Issue) (s : State) := simt 0x81 x s fun p s =>
  let n := accBytes (wMod p.w)
  withPlan p true n s fun ps => afterRelease p s fun s =>
    putStores p (storeEnts p ps fun i => p.g.regBytes i (wRb p.w) n) s

/-- PREF (R223, R271): dropped unless it can be fetched into the side buffer of its home. -/
def execPref (x : Issue) (s : State) := simt 0x82 x s fun p s =>
  let s := (vaAccess p 1).foldl (fun s a => match xlat s p.l.ctx p.l.gen a.2.1 false with
    | .pa pa => if physOk s pa 1 then prefetch (lineHome (homeKey s pa / 128)) (homeKey s pa / 128) s else s
    | .miss nw => askXlat p.l.ctx p.l.gen a.2.1 nw .prefetch p.pc s
    | .denied => s) s
  onGroup p (fun g => g.next p) s

/-- FENCE (R228, R229, R233): loads are performed as they issue, so an acquire waits for nothing. -/
def execFenceInstr (x : Issue) (s : State) := simt 0xB0 x s fun p s =>
  let m := wMod p.w
  if m / 4 = 1 then onGroup p (fun g => g.next p) s
  else
    let (s, ok) := drain p (m % 4) s
    if ok then onGroup p (fun g => g.next p) s else stall p .mem s

/-! ## Atomics (R287, R288) -/

/-- XOR fold of a line number into 10 bits (R288). -/
def fold10 (x : Nat) : Nat := (List.range 7).foldl (fun a i => a ^^^ (x / 1024 ^ i % 1024)) 0
def predIndex (line : Nat) : Nat := fold10 (if isHostLine line then line - hostLine else line)

/-- The predictor takes note of an ATOM of core `c` (R288). -/
def noteAtom (c line : Nat) (s : State) : State :=
  let i := predIndex line
  let otherM : Bool := match dirOf s line with
    | some e => match e.owner with
      | some (o, _) => o ≠ c && ((coreAt s o).line line).any fun l => l.st = .M
      | none => false
    | none => false
  modSlice (lineHome line) (fun sl =>
    let n := fget 0 sl.ctrs i
    let last := fget 0 sl.last i
    let n' := if otherM then min 3 (n + 1) else if last = 0 then n else if last = c + 1 then n - 1 else min 3 (n + 1)
    { sl with ctrs := fset 0 sl.ctrs i n', last := fset 0 sl.last i (c + 1) }) s

/-- An ATOM can be performed only near (R287). -/
def nearOnly (s : State) (c line : Nat) : Bool :=
  !l1On s c || (!isHostLine line && 2 ≤ policyAt s.rat.com (line * 128))

/-- Near by the override of `DC_ATOMCTL`, else by the predictor (R288). -/
def chooseNear (s : State) (line : Nat) : Bool :=
  let mode := fld (rget s 0xA2400) 1 0
  if mode = 1 then true else if mode = 2 then false else 2 ≤ fget 0 (s.dc.slice (lineHome line)).ctrs (predIndex line)

/-- Near or far for the lines of an ATOM: decided once, as it reaches the home, but near where the core can keep no copy any more; a
line held in M needs no request. -/
def decideAtoms (p : Path) (red : Bool) (ls : List Nat) (s : State) : State × List (Nat × Bool) :=
  let c := p.t.core
  ls.foldl (fun (a : State × List (Nat × Bool)) line =>
    let s := a.1
    let heldM : Bool := l1On s c && ((coreAt s c).line line).any fun l => l.st = .M
    match p.g.atoms.find? fun x => x.1 = line with
    | some x => (s, a.2 ++ [(line, x.2 || nearOnly s c line)])
    | none =>
      if red || nearOnly s c line then (s, a.2 ++ [(line, true)])
      else if heldM then (s, a.2 ++ [(line, false)])
      else
        let s := noteAtom c line s
        (s, a.2 ++ [(line, chooseNear s line)])) (s, [])

/-- The core's own copy of a line gives its M data to the home (R287: performed near on the home's data); a store keeps the copy, an ATOM
does not (R282). -/
def yieldOwn (keep : Bool) (c line : Nat) (s : State) : State :=
  match if l1On s c then (coreAt s c).line line else none with
  | none => s
  | some l =>
    let s := if keep then s else dirRemove c line (modCore c (fun k => k.dropLine line) s)
    if l.st = .M then homeData (lineHome line) l s else s

/-- The home asks its port for the sectors of a line that an operation on it needs. -/
def wantLine (line : Nat) (need : BitVec 4) (s : State) : State :=
  fetchSectors (lineHome line) line need
    { s with dc := { s.dc with want := if s.dc.want.contains line then s.dc.want else s.dc.want ++ [line] } }

/-- The home can perform an operation on the line now, with the data of `need`; if not, it starts what is missing, or refuses (R284,
R287). -/
def homeReady (keep : Bool) (c line : Nat) (need : BitVec 4) (s : State) : State × Bool :=
  let k := lineHome line
  if ratWait s line || !homeCan s line || !mayRetry s c line .atom || slotOwed s k true then (s, false)
  else if refused s c line .atom then (refuse c line .atom s, false)
  else
    let s := absorbOwn c line (clearNak c line .atom s)
    let os := others s line c
    if os ≠ [] then (startTxn line .recall true os s, false)
    else
      let s := yieldOwn keep c line s
      if need = 0 then (s, true)
      else if isHostLine line then
        if hostOwns s k line then (s, true)
        else (askHost .rdOwn line (lackHalves s k line fun h => h = .E || h = .M) s, false)
      else if lineReady s line need then (useSide k line s, true)
      else (wantLine line need s, false)

/-- A read of a host line that the host did not answer came back as poison (R381). -/
def lostRead (s : State) (c line : Nat) : Bool :=
  isHostLine line && ((coreAt s c).ret.any (fun r => r.line = line) || s.dc.got.any fun r => r.line = line)

/-- A line is ready for an ATOM: near at the home, far in M or E in the core's L1. -/
def atomReady (p : Path) (red : Bool) (ps : List Piece) (x : Nat × Bool) (s : State) : State × Bool :=
  let c := p.t.core
  let need := pieceMask ps x.1
  if lostRead s c x.1 then (s, true)
  else if x.2 then homeReady red c x.1 need s
  else match (coreAt s c).line x.1 with
    | some l => if (l.st = .M || l.st = .E) && need &&& ~~~l.valid = 0 then (s, true) else (missLines p true [(x.1, need)] s, false)
    | none => (missLines p true [(x.1, need)] s, false)

/-- Bytes of a line where the atomic is performed, and whether they are poisoned. -/
def atomBytes (s : State) (c : Nat) (near : Bool) (a n : Nat) : Bytes × Bool :=
  let line := a / 128
  let k := lineHome line
  let bad (m : BitVec 4) : Bool := m.getLsbD (a % 128 / 32)
  if lostRead s c line then (List.replicate n 0, true)
  else if near then
    if isHostLine line then
      match (s.dc.slice k).find line with
      | some l => (slice l.data (a % 128) n, bad l.poison)
      | none => (List.replicate n 0, true)
    else (devBytes s k a n, devPoison s k a n)
  else match (coreAt s c).line line with
    | some l => (slice l.data (a % 128) n, bad l.poison)
    | none => (List.replicate n 0, true)

/-- A store performed at the home, held as a store of device level until it has its answers; the core's own copy takes its bytes. -/
def homeStore (p : Path) (lane line : Nat) (bytes : List (Nat × Byte)) (s : State) : State :=
  let c := p.t.core
  let s := homeMerge (lineHome line) line (.core c p.l.cmd) (storeTag s p.l.id line) [] bytes (takeSlot (lineHome line) true s)
  settleCore c (modCore c (fun k => { k with sb := k.sb ++
    [{ launch := p.l.id, cmd := p.l.cmd, team := p.t.num, group := p.g.num, lanes := [lane], line := line, bytes := bytes, level := .device }] })
    (ownCopy c line bytes s))

/-- Writes the result of an atomic where it is performed; every reservation on the line ends (R236). -/
def atomWrite (p : Path) (near : Bool) (lane a : Nat) (b : Bytes) (s : State) : State :=
  let c := p.t.core
  let line := a / 128
  let k := lineHome line
  let h := a % 128 / 64
  let s := endLineResv line s
  if near then
    if isHostLine line then
      let f (l : DcLine) : DcLine :=
        let l := l.merge (placed a b) false
        if h = 0 then { l with h0 := .M } else { l with h1 := .M }
      ownCopy c line (placed a b) (dropRet line (modSlice k (fun sl => match sl.find line with
        | some l => sl.put (f l)
        | none => sl) s))
    else homeStore p lane line (placed a b) s
  else
    let tag := storeTag s p.l.id line
    let hd (l : L1Line) : BitVec 2 := if isHostLine line then l.hd ||| BitVec.ofNat 2 (h + 1) else l.hd
    modCore c (fun k => match k.line line with
      | some l => k.putLine { l.store (placed a b) with st := .M, hd := hd l, tag := if tag.isSome then tag else l.tag }
      | none => k) s

/-- Every address of the ATOM lies in a grant of the context (R315). -/
def granted (s : State) (ctx va n : Nat) : Bool :=
  (List.range 8).any fun e =>
    let g := fget {} s.fe.atg (8 * ctx + e)
    g.en && g.base ≤ va && va + n ≤ g.base + 2 ^ g.log2

/-- Performs an atomic for each executing thread, in ascending order (DESIGN CHOICE, log 9). -/
def performAtoms (p : Path) (ds : List (Nat × Bool)) (n : Nat) (result : Bool) (ps : List Piece) (s : State) : State :=
  let c := p.t.core
  let nearAt (line : Nat) : Bool := ds.contains (line, true)
  match ps.find? fun x => (atomBytes s c (nearAt (x.key / 128)) x.key n).2 with
  | some x => pathFault p 0x05 (some x.va) p.pc s
  | none =>
    let r := ps.foldl (fun (a : State × Group) x =>
      let nr := nearAt (x.key / 128)
      let old := (atomBytes a.1 c nr x.key n).1
      let v := atomArgs p x.lane
      let new := leBytes n (atomOp (wMod p.w % 8) n (leNat old) v.1 v.2)
      (atomWrite p nr x.lane x.key new a.1, if result then a.2.putBytes x.lane (wRd p.w) old 0 else a.2)) (s, p.g)
    let ls := ds.map Prod.fst
    let s := ls.foldl (fun s l => doneDevice (l * 128) 128 s) r.1
    noteWrite p.l.id (onGroup p (fun g =>
      { r.2.next p with atoms := g.atoms.filter (fun y => !ls.contains y.1), resv := g.resv }) s)

/-- ATOM and RED. -/
def atomRow (red : Bool) (p : Path) (s : State) : State :=
  let n := atomSize (wMod p.w)
  match misaligned p n with
  | some va => pathFault p 0x0A (some va) p.pc s
  | none =>
    match if red then none else (vaAccess p n).find? fun x => !granted s p.l.ctx x.2.1 n with
    | some x => pathFault p 0x03 (some x.2.1) p.pc s
    | none =>
      withPlan p true n s fun ps => afterRelease p s fun s =>
        let ls := linesOf ps
        if storesTo s p.t.core ls then stall p .mem s
        else
          let (s, ds) := decideAtoms p red ls s
          let keep (s : State) : State := onGroup p (fun g => { g with atoms := g.atoms.filter (fun y => !ls.contains y.1) ++ ds }) s
          let r := ds.foldl (fun (a : State × Bool) d =>
            let y := atomReady p red ps d a.1
            (y.1, a.2 && y.2)) (s, true)
          if r.2 then performAtoms p ds n (!red) ps r.1 else stall p .mem (keep r.1)

/-- ATOM (R287, R288, R315). -/
def execAtom (x : Issue) (s : State) := simt 0xA0 x s (atomRow false)
/-- RED (R287). -/
def execRed (x : Issue) (s : State) := simt 0xA1 x s (atomRow true)

/-! ## Conditional store (R235 to R237) -/

/-- The thread holds a valid reservation that covers the line. -/
def holdsResv (s : State) (p : Path) (lane line : Nat) : Bool :=
  match findLaunch s p.l.id with
  | some l => l.teams.any fun t => t.num = p.t.num && t.groups.any fun g => g.num = p.g.num &&
      g.resv.any fun r => r.lane = lane && r.line = line
  | none => false

/-- STC of each executing thread, in ascending order; a success ends every reservation on its line. -/
def condStores (p : Path) (n : Nat) (ps : List Piece) (s : State) : State :=
  let r := ps.foldl (fun (a : State × List Nat) x =>
    let line := x.key / 128
    if holdsResv a.1 p x.lane line then
      (noteWrite p.l.id (homeStore p x.lane line (pieceBytes x (p.g.regBytes x.lane (wRb p.w) n)) a.1), a.2 ++ [x.lane])
    else a) (s, [])
  onGroup p (fun g => ((p.act.foldl (fun g i => g.setReg i (wRd p.w) (if r.2.contains i then 0 else 1)) g).next p).endResv p.act) r.1

/-- STC (R235, R240). -/
def execStc (x : Issue) (s : State) := simt 0xA3 x s fun p s =>
  let n := accBytes (wMod p.w)
  match misaligned p n with
  | some va => pathFault p 0x0A (some va) p.pc s
  | none =>
    withPlan p true n s fun ps => afterRelease p s fun s =>
      let ls := linesOf (ps.filter fun x => holdsResv s p x.lane (x.key / 128))
      if storesTo s p.t.core ls then stall p .mem s
      else
        let r := ls.foldl (fun (a : State × Bool) l =>
          let y := homeReady true p.t.core l 0 a.1
          (y.1, a.2 && y.2)) (s, true)
        if r.2 then condStores p n ps r.1 else stall p .mem r.1

/-! ## Special registers and waits (row 0xB) -/

/-- LAND of the launch on a core (R205). -/
def landOf (s : State) (p : Path) : Nat := fget 0 (coreAt s p.t.core).land p.l.id

/-- Special registers in the order of their list (PRESUMED, log 8); DEVTIME_HI is what the thread's DEVTIME_LO read latched. -/
def specialReg (s : State) (p : Path) (i n : Nat) : W32 :=
  match n with
  | 0 => BitVec.ofNat 32 (32 * p.g.num + i)
  | 1 => BitVec.ofNat 32 p.g.num
  | 2 => BitVec.ofNat 32 p.t.num
  | 3 => BitVec.ofNat 32 p.l.nteams
  | 4 => BitVec.ofNat 32 (p.t.core / 4)
  | 5 => BitVec.ofNat 32 (p.t.core % 4)
  | 6 => BitVec.ofNat 32 p.t.lsBase
  | 7 => BitVec.ofNat 32 (landOf s p)
  | 8 => s.devtime.setWidth 32
  | _ => fget 0 p.g.dtHi i

/-- S2V (R214, R484). -/
def execS2v (x : Issue) (s : State) := simt 0xB1 x s fun p s =>
  let n := wRa p.w
  let hi : W32 := BitVec.ofNat 32 (s.devtime.toNat / 2 ^ 32)
  let f (g : Group) : Group := if n = 8 then { g with dtHi := p.act.foldl (fun m i => fset 0 m i hi) g.dtHi } else g
  writeRd p (fun i => specialReg s p i n) (onGroup p f s)

/-- A wait (R209, R231, R236): its reservations end; it stalls the group while `ready` is false. -/
def waitRow (p : Path) (ready : Bool) (s : State) : State :=
  onGroup p (fun g => if ready then (g.next p).endResv p.act else { g.endResv p.act with wait := .event }) s

/-- WAITGE (R205, R214). -/
def execWaitge (x : Issue) (s : State) := simt 0xB2 x s fun p s =>
  waitRow p (p.act.all fun i => (p.a i).toNat ≤ landOf s p) s

/-- Time left to a command's deadline in units of 40 ns (R203); with no deadline the value is not stated (DESIGN CHOICE, log 3). -/
def timeLeft (s : State) (id : Nat) : W32 :=
  match s.fe.cmd id with
  | none => 0
  | some c =>
    let d := hdrDeadline c.bytes
    if d = 0 then freeLane s 0 else BitVec.ofNat 32 (min 0xFFFFFFFF ((d - s.devtime.toNat) / 40))

/-- WGET (R203). -/
def execWget (x : Issue) (s : State) := simt 0xB3 x s fun p s =>
  match p.l.items.find? fun i => !i.taken with
  | none => waitRow p false s
  | some it =>
    let left := timeLeft s it.cmd
    let d := wRd p.w
    let put (g : Group) (i : Nat) : Group :=
      (((g.setReg i d (BitVec.ofNat 32 it.tag)).setReg i (d + 1) (it.arg.setWidth 32)).setReg i (d + 2)
        (BitVec.ofNat 32 (it.arg.toNat / 2 ^ 32))).setReg i (d + 3) left
    let f (y : Launch) : Launch := { y with items := mapWhere (fun z => decide (z.tag = it.tag)) (fun z => { z with taken := true }) y.items }
    onGroup p (fun g => ((p.act.foldl put g).next p).endResv p.act) (modLaunch p.l.id f (useLanes s))

/-- An item that is done and waits for no transfer: its record follows (R203). -/
def finishItem (l tag : Nat) (s : State) : State :=
  match findLaunch s l with
  | none => s
  | some x => match x.items.find? fun i => i.tag = tag with
    | none => s
    | some i =>
      if i.done && i.touts = 0 then
        readyCmd i.cmd 0 (modLaunch l (fun x => { x with items := x.items.filter fun i => i.tag ≠ tag }) s)
      else s

/-- The stores that the group of an item with RELEASE = 1 has made or seen leave no dirty copy: every dirty line that bears no tag, or
its launch's, is written back for the item's command (R242, R243; DEDUCED, log 19). -/
def releaseSeen (l : Launch) (id : Nat) (s : State) : State :=
  let mine (line : Nat) (t : Option Nat) : Bool :=
    !isHostLine line && !inTable s.rat.com (line * 128) && (t = none || t = some l.cmd)
  let s := returnM (fun x => mine x.line x.tag) s
  (List.range 64).foldl (fun s k =>
    (s.dc.slice k).lines.foldl (fun s x => if x.dirty ≠ 0 && mine x.line x.tag then releaseLine id k x s else s) s) s

/-- The release of an item at its WDONE. -/
def releaseItem (l : Launch) (i : Item) (s : State) : State :=
  if (s.fe.cmd i.cmd).any fun c => hdrRelease c.bytes then releaseSeen l i.cmd s else s

/-- WDONE (R203, R223, R233, R242): after every store of its threads is at system level. -/
def execWdone (x : Issue) (s : State) := simt 0xB4 x s fun p s =>
  let tags := (p.act.map fun i => (p.a i).toNat).eraseDups
  match tags.find? fun t => !p.l.items.any fun i => i.tag % 2 ^ 32 = t && !i.done with
  | some t => pathFault p 0x08 (some p.pc) t s
  | none =>
    let (s, ok) := drain p 3 s
    if !ok then stall p .mem s
    else
      let hit (i : Item) : Bool := tags.contains (i.tag % 2 ^ 32)
      let s := modLaunch p.l.id (fun y => { y with items := mapWhere hit (fun i => { i with done := true }) y.items }) s
      (p.l.items.filter hit).foldl (fun s i => finishItem p.l.id i.tag (releaseItem p.l i s)) (onGroup p (fun g => g.next p) s)

end Sys2Proof.Machine
end

