-- ==== Sys2Proof/Machine/Press.lean ====
section
/-! DEFINITION. Tile presses (R172 to R195): issue of press instructions, their run-time checks, and what each does. -/

namespace Sys2Proof.Machine

/-! ## Streams and tokens (R173, R187) -/

def streamAt (s : State) (c i : Nat) : Stream := fget {} s.simt.streams (2 * c + i)
def modStream (c i : Nat) (f : Stream → Stream) (s : State) : State :=
  { s with simt := { s.simt with streams := fmod {} s.simt.streams (2 * c + i) f } }
def pendOf (s : State) (c l k : Nat) : Nat := fget 0 (coreAt s c).tok (8 * l + k)
def modPend (c l k : Nat) (f : Nat → Nat) (s : State) : State :=
  modCore c (fun x => { x with tok := fmod 0 x.tok (8 * l + k) f }) s

/-- Issue of a press instruction, once per group (R180): into its stream's queue, or the group stalls (R188, R193). A launch
without streams names no tile of a table (R181). -/
def pressIssue (p : Path) (s : State) : State :=
  let c := p.t.core
  let i := wS p.w
  let lane := p.act.headD 0
  let st := streamAt s c i
  let ins : PressIns := { opc := BitVec.ofNat 8 p.w, word := BitVec.ofNat 64 p.w, adj := (p.g.reg lane (wAdj p.w)).toNat,
                          hreg := (p.g.reg lane (wHreg p.w)).toNat, tok := wTok p.w }
  if st.launch ≠ some p.l.id then
    launchFault p.l c 0x09 none p.w s
  else if 63 ≤ pendOf s c p.l.id (wTok p.w) || 8 ≤ st.queue.length then stall p .event s
  else onGroup p (fun g => g.next p)
    (modPend c p.l.id (wTok p.w) (· + 1) (modStream c i (fun x => { x with queue := x.queue ++ [ins] }) s))

/-- PLDW (R182). -/
def execPldw (x : Issue) (s : State) := simt 0xE0 x s fun p s => pressIssue p s
/-- PMMA (R183). -/
def execPmma (x : Issue) (s : State) := simt 0xE1 x s fun p s => pressIssue p s
/-- PRQ (R185). -/
def execPrq (x : Issue) (s : State) := simt 0xE2 x s fun p s => pressIssue p s

/-- PWAIT (R188): N is bits [21:16]. -/
def execPwait (x : Issue) (s : State) := simt 0xE3 x s fun p s =>
  waitRow p (pendOf s p.t.core p.l.id (wTok p.w) ≤ wDi p.w) s

/-! ## Tiles (R177) -/

/-- A tile where it lies: descriptor, core, and adjusted addresses (R180). -/
structure Tile where
  d : BitVec 128
  core : Nat
  base : Nat
  hdr : Nat

def tileAt (d : BitVec 128) (c adj : Nat) : Tile :=
  { d := d, core := 4 * (c / 4) + tileCore d, base := tileBase d + 32 * adj, hdr := tileHdr d + 32 * adj }

def Tile.lineAt (t : Tile) (l : Nat) : Nat := t.base + l * tilePitch t.d

/-- Every byte of the tile lies in the launch's local store on its core (R181). -/
def tileIn (l : Launch) (t : Tile) : Bool :=
  (List.range (tileLines t.d)).all (fun i => inTeams l t.core (t.lineAt i) (tileLb t.d))
    && (tileHdrLen t.d = 0 || inTeams l t.core t.hdr (tileHdrLen t.d))

/-- Block b of line l: its code bytes and what goes with them. -/
def tileBlk (s : State) (t : Tile) (l b : Nat) : CodeBlk :=
  let f := tileFmt t.d
  let kb := tileKb t.d
  let j := l * kb + b
  let ls (o n : Nat) : Bytes := lsRead s t.core (t.lineAt l + o) n
  let er := leNat (lsRead s t.core t.hdr 1)
  let del := leNat (lsRead s t.core (t.hdr + 4 + j / 2) 1) / 16 ^ (j % 2) % 16
  let e : Int := (er : Int) - 127 - del
  if er = 0xFF then { e := 0, c := List.replicate 32 .nan }
  else if f = 5 then
    let hi := (blockCodes 0 0 (ls (32 * b) 32) []).1
    let lo := (blockCodes 0 0 (ls (32 * kb + 32 * b) 32) []).1
    { e := e - 7, c := (hi.zip lo).map fun (h, x) => pairCod h x }
  else if f = 4 then { e := e, c := (blockCodes 4 (tileEsc t.d) (ls (8 * b) 8) (ls (8 * kb + b * tileEsc t.d) (tileEsc t.d))).1 }
  else { e := e, c := (blockCodes f 0 (ls (blockBytes f * b) (blockBytes f)) []).1 }

/-- Exact values of block b of line l, in any operand format. -/
def tileVals (s : State) (t : Tile) (l b : Nat) : List Val :=
  let f := tileFmt t.d
  let j := l * tileKb t.d + b
  let ls (o n : Nat) : Bytes := lsRead s t.core (t.lineAt l + o) n
  if isBinary f then
    let w := fpWidth f / 8
    (List.range 32).map fun i => fpDecode f (leNat (ls ((32 * b + i) * w) w))
  else if isMx f then
    let x := leNat (lsRead s t.core (t.hdr + j) 1)
    let blk := leNat (ls (mxBytes f * b) (mxBytes f))
    (List.range 32).map fun i => mxVal f x (blk / 2 ^ (mxWidth f * i) % 2 ^ mxWidth f)
  else
    let k := tileBlk s t l b
    k.c.map fun c => codVal c k.e

/-- CF12 codes of a block at its own block exponent (R67, R191). -/
def cf12 (xs : List Val) : CodeBlk :=
  let q := quantPlain (-2046) 2046 [xs]
  { e := (q.er : Int) - 127 - (q.d.headD 0 : Int), c := q.blocks.headD [] }

/-- An operand block as the press takes it (R182, R191). -/
def operandBlk (s : State) (common : Bool) (t : Tile) (l b : Nat) : CodeBlk :=
  if common then cf12 (tileVals s t l b) else tileBlk s t l b

def operandLines (s : State) (common : Bool) (t : Tile) : List (List CodeBlk) :=
  (List.range (tileLines t.d)).map fun l => (List.range (tileKb t.d)).map fun b => operandBlk s common t l b

/-! ## Start (R181, R183, R189, R193) -/

def insOpc (i : PressIns) : Nat := i.opc.toNat
def insWord (i : PressIns) : Nat := i.word.toNat

/-- The first instruction of the stream's queue may start as far as the stream's own order goes (R189). -/
def Stream.inOrder (st : Stream) (i : PressIns) : Bool :=
  if insOpc i = 0xE0 then true
  else if insOpc i = 0xE1 && wSwap (insWord i) then st.running = []
  else !st.running.any fun x => insOpc x = 0xE1 || insOpc x = 0xE2

/-- A stage of a press, by its opcode. -/
def stageKey (c press opc : Nat) : Nat := 3 * (2 * (c / 4) + press) + (opc - 0xE0)

/-- Stream `j` of the cluster has an instruction ready for the stage. -/
def stageReady (s : State) (c press opc j : Nat) : Bool :=
  let st := fget {} s.simt.streams (8 * (c / 4) + j)
  st.press = press && (st.launch.bind (findLaunch s)).any (fun l => l.ending.isNone)
    && st.queue.head?.any fun i => insOpc i = opc && st.inOrder i

/-- It is the stream's turn at the stage: no other stream that is ready comes before it, counted from the one served last (R193). -/
def stageTurn (s : State) (c strm press opc : Nat) : Bool :=
  let last := fget 7 s.simt.turns (stageKey c press opc)
  let after (j : Nat) : Nat := (j + 7 - last) % 8
  let me := (2 * c + strm) % 8
  !(List.range 8).any fun j => after j < after me && stageReady s c press opc j

/-- The instruction may start: its order in the stream (R189), its stage of the press is free, and it is its stream's turn (R193). -/
def mayStart (s : State) (c strm : Nat) (i : PressIns) : Bool :=
  let st := streamAt s c strm
  st.inOrder i && stageTurn s c strm st.press (insOpc i)
    && !(s.simt.streams.any fun e => e.1 / 8 = c / 4 && e.2.launch.isSome && e.2.press = st.press
      && e.2.running.any fun x => insOpc x = insOpc i)

/-- The stage has served the stream. -/
def takeTurn (c strm press opc : Nat) (s : State) : State :=
  { s with simt := { s.simt with turns := fset 7 s.simt.turns (stageKey c press opc) ((2 * c + strm) % 8) } }

/-- KB of the active weights, when the register holds columns. -/
def kbOf (w : List (List CodeBlk)) : Option Nat := w.head?.map List.length

/-- A condition of R181 holds. -/
def pressBad (l : Launch) (c : Nat) (active : List (List CodeBlk)) (i : PressIns) : Bool :=
  let w := insWord i
  match l.pdt[wDi w]? with
  | none => true
  | some d =>
    let t := tileAt d c i.adj
    let role : Bool := tileRole d != decide (insOpc i = 0xE2)
    let rows : Bool := insOpc i ≠ 0xE0 && 128 < wArow w + tileLines d
    let kb : Bool := insOpc i = 0xE1 && match kbOf active with
      | some k => k ≠ tileKb d
      | none => false
    let prq : Bool := insOpc i = 0xE2 && (4 < wCb0 w + tileKb d
      || (wSwap w && (i.hreg % 8 ≠ 0 || !inTeams l c i.hreg 80)))
    role || !tileIn l t || rows || kb || prq

/-- The launch ends with FAULTED; its other queued press instructions are discarded (R181). -/
def pressFault (l : Launch) (c : Nat) (i : PressIns) (s : State) : State :=
  let f (e : Nat × Stream) : Nat × Stream := if e.2.launch = some l.id then (e.1, { e.2 with queue := [] }) else e
  let s := { s with simt := { s.simt with streams := s.simt.streams.map f } }
  let items := l.items.map Item.cmd
  let g (c : Cmd) : Cmd := { c with waitsReport := true, repOf := l.cmd }
  let s := { s with fe := { s.fe with cmds := mapWhere (fun c => c.id = l.cmd || items.contains c.id) g s.fe.cmds } }
  let s := modLaunch l.id (fun x => { x with ending := some 0x20 }) s
  detect (partOfCore c) { report 0x09 (some l.ctx) (locCluster (c / 4)) none (insWord i) with owner := some l.cmd } s

/-- A PMMA with SWAP makes the shadow register active as it starts (R183). DEDUCED, log 41. -/
def Stream.swap (x : Stream) (i : PressIns) : Stream :=
  if insOpc i = 0xE1 && wSwap (insWord i) then { x with active := x.shadow, shadow := x.active } else x

def pressInstrStartE (c strm : Nat) (s : State) : State :=
  let st := streamAt s c strm
  match st.queue, st.launch with
  | i :: rest, some lid =>
    match findLaunch s lid with
    | none => s
    | some l =>
      if l.ending.isSome || s.flt.safe || clusterInReset s (c / 4) || !mayStart s c strm i then s
      else
        let x := st.swap i
        let s := { s with pwr := s.pwr.startClk (c / 4) }
        if pressBad l c x.active i then pressFault l c i s
        else takeTurn c strm x.press (insOpc i) (modStream c strm (fun _ => { x with queue := rest, running := x.running ++ [i] }) s)
  | _, _ => s
/-- PRESS_INSTR_START (R181, R189). -/
def execPressInstrStart (core strm : Nat) (s : State) := live (.part (partOfCore core)) s (pressInstrStartE core strm)

/-! ## What each instruction does -/

/-- Sum of 32 products (R183): by R50 when a product involves a special code. -/
def dot32 (a w : List Cod) : Cod := (a.zip w).foldl (fun x (p, q) => addCod x (mulCod p q)) (.int 0)

/-- Bound of a press accumulator (R183). -/
def pressBound : Int := 2147483646

/-- The terms of K-block b against the 128 columns; an absent column adds nothing. -/
def blockTerms (weights : List (List CodeBlk)) (b : Nat) (a : CodeBlk) : List (Cod × Int) :=
  (List.range 128).map fun n => match (weights.getD n [])[b]? with
    | some w => (dot32 a.c w.c, a.e + w.e)
    | none => (.int 0, 0)

def rowAt (rows : FMap AccRow) (r : Nat) : AccRow := let x := fget {} rows r; if x.a = [] then accEmpty 128 else x

/-- Line m of the activation tile into accumulator row r. -/
def pmmaRow (init : Bool) (weights : List (List CodeBlk)) (line : List CodeBlk) (row : AccRow) : AccRow :=
  (line.zip (List.range line.length)).foldl (fun row (a, b) => accContribution pressBound row (blockTerms weights b a))
    (if init then accEmpty 128 else row)

/-- The effect of a PMMA on a stream (R183). -/
def Stream.pmma (x : Stream) (w : Nat) (lines : List (List CodeBlk)) : Stream :=
  { x with rows := (lines.zip (List.range lines.length)).foldl (fun rows (line, m) =>
      fset {} rows (wArow w + m) (pmmaRow (wInit w) x.active line (rowAt rows (wArow w + m)))) x.rows }

/-- Values of the output tile's blocks, block j = line × KB + b, with RELU applied (R185). -/
def prqVals (x : Stream) (w lines kb : Nat) : List (List Val) :=
  (List.range (lines * kb)).map fun j =>
    (List.range 32).map fun k =>
      let v := accVal (rowAt x.rows (wArow w + j / kb)) 1 (32 * (wCb0 w + j % kb) + k)
      if wInit w && v.isFin && v.neg then .zero else v

/-- The header of an output tile (R177). -/
def tileHeader (q : Quant) (n : Nat) : Bytes :=
  [BitVec.ofNat 8 q.er, 0, 0, 0] ++ (packNibbles q.d ++ List.replicate ((n + 1) / 2) 0).take ((n + 1) / 2)

/-- The LB bytes of a line (R177). -/
def tileLine (q : Quant) (f k l kb : Nat) : Bytes :=
  let bs := (List.range kb).map fun b => blockImage f k (q.blocks.getD (l * kb + b) [])
  bs.flatMap Prod.fst ++ (if f = 4 then bs.flatMap Prod.snd
    else if f = 5 then (List.range kb).flatMap fun b => packBits 8 32 (pad32 ((q.lo.getD (l * kb + b) []).map (toBits 8)))
    else [])

/-- Writes the output tile and the histogram (R185, R186). -/
def prqWrite (c : Nat) (x : Stream) (i : PressIns) (t : Tile) (s : State) : State :=
  let w := insWord i
  let f := tileFmt t.d
  let n := tileLines t.d
  let kb := tileKb t.d
  let q := quantise f (tileEsc t.d) (prqVals x w n kb)
  let s := writeLs t.core t.hdr (tileHeader q (n * kb)) s
  let s := (List.range n).foldl (fun s l => writeLs t.core (t.lineAt l) (tileLine q f (tileEsc t.d) l kb) s) s
  if wSwap w then
    let vs := (List.range (n * kb)).flatMap fun j => (List.range 32).map fun k => q.val f j k
    let h := (List.range 40).foldl (fun m b => fset 0 m b (leNat (lsRead s c (i.hreg + 2 * b) 2))) []
    let h := histAdd h vs
    writeLs c i.hreg ((List.range 40).flatMap fun b => leBytes 2 (fget 0 h b)) s
  else s

/-- Array cycles of a PMMA (R192, R195). -/
def countBusy (c cycles : Nat) (s : State) : State :=
  { s with simt := { s.simt with busy := fmod 0 s.simt.busy (c / 4) fun n => n + BitVec.ofNat 48 cycles } }

/-- Some byte of the tile was written as poison. -/
def tilePoison (s : State) (t : Tile) : Bool :=
  (List.range (tileLines t.d)).any (fun i => lsPoison s t.core (t.lineAt i) (tileLb t.d))
    || lsPoison s t.core t.hdr (tileHdrLen t.d)

def pressEffect (l : Launch) (c strm : Nat) (i : PressIns) (s : State) : State :=
  match l.pdt[wDi (insWord i)]? with
  | none => s
  | some d =>
    let t := tileAt d c i.adj
    if insOpc i ≠ 0xE2 && tilePoison s t then launchFault l c 0x05 none 0 s
    else if insOpc i = 0xE0 then modStream c strm (fun x => { x with shadow := operandLines s l.common t }) s
    else if insOpc i = 0xE1 then
      countBusy c ((if l.common then 4 else 1) * tileLines d)
        (modStream c strm (fun x => x.pmma (insWord i) (operandLines s l.common t)) s)
    else prqWrite c (streamAt s c strm) i t s

def pressInstrCompleteE (c strm : Nat) (opc : Byte) (s : State) : State :=
  let st := streamAt s c strm
  match st.running.find? fun i => i.opc = opc, st.launch with
  | some i, some lid =>
    match findLaunch s lid with
    | none => s
    | some l =>
      if l.ending.isSome || s.flt.safe || clusterInReset s (c / 4) then s
      else
        let s := pressEffect l c strm i s
        modPend c lid i.tok (· - 1) (modStream c strm (fun x => { x with running := dropFirst (fun y => decide (y = i)) x.running }) s)
  | _, _ => s
/-- PRESS_INSTR_COMPLETE (R182 to R187). -/
def execPressInstrComplete (core strm : Nat) (opc : Byte) (s : State) :=
  live (.part (partOfCore core)) s (pressInstrCompleteE core strm opc)

end Sys2Proof.Machine
end

