-- ==== Sys2Proof/Machine/Mover.lean ====
section
/-! DEFINITION. The tensor mover (R319 to R327): the checks of a transfer descriptor, the rows of a transfer, what ends it, the
commands TMOV, TOUT, TWAIT and `MOVE`, and page request groups (R317, R318). -/

namespace Sys2Proof.Machine

/-! ## Checks of a descriptor (R320, R321, R324) -/

/-- Row 1 of R324: reserved fields, spaces, formats and conversions (R49). -/
def tdReserved (d : Bytes) : Bool :=
  16 ≤ num d 0x10 1 || 32 ≤ num d 0x11 1 || 32 ≤ num d 0x12 1 || bits (num d 0x13 1) 3 1 ≠ 0 || 8 < tdEscK d
    || num d 0x17 1 ≠ 0 || num d 0x1E 2 ≠ 0 || anyByte d 0x38 0x3F
    || (tdDspace d = 3 && (bits (tdDst d) 14 14 ≠ 0 || bits (tdDst d) 63 51 ≠ 0 || anyByte d 0x2C 0x37))
    || !isFmt (tdSfmt d) || !isFmt (tdDfmt d) || (tdConv d && isEdgeFmt (tdSfmt d) && isEdgeFmt (tdDfmt d))

/-- Every row of a block-integer format starts on 32 bytes. -/
def rowsAligned (d : Bytes) (base : Nat) (st : Nat → Int) : Bool :=
  base % 32 = 0 && (List.range 3).all fun i => tdC d i = 1 || st i % 32 = 0

/-- Row 2 of R324, but for the table: spaces of R319 and geometry of R321. DEDUCED, log 14. -/
def tdGeometry (d : Bytes) (move out : Bool) : Bool :=
  let ss := tdSspace d
  let ds := tdDspace d
  ss = 3 || (move && ss = 2) || (ds = 3 && !move) || (ds = 2 && (move || out))
    || tdLen d = 0 || (if tdConv d then 16384 else 65536) < tdLen d
    || (!tdConv d && (tdSfmt d ≠ 0 || tdDfmt d ≠ 0))
    || 65536 < tdRowBytes d (tdSfmt d) || 65536 < tdRowBytes d (tdDfmt d)
    || (tdConv d && isBlockFmt (tdSfmt d) && !rowsAligned d (tdSrc d) (tdSs d))
    || (tdConv d && isBlockFmt (tdDfmt d) && ds ≠ 3 && !rowsAligned d (tdDst d) (tdDs d))

/-- A transfer into a table does not fit its rows (R321). -/
def tdTableBad (d : Bytes) (t : TblDesc) : Bool :=
  if tdConv d then tdDfmt d ≠ t.fmt || tdLen d ≠ t.dim else tdLen d ≠ t.size

/-- Status of a `MOVE`'s descriptor (R324 in the order of R511); 0 when it passes. -/
def moveStatus (s : State) (ctx : Nat) (d : Bytes) : Byte :=
  let t := tableOf s (tdTable d)
  let mine : Bool := t.valid && t.owner = ctx
  if tdReserved d then 0x11
  else if tdGeometry d true false || (tdDspace d = 3 && mine && tdTableBad d t) then 0x13
  else if tdDspace d = 3 && !mine then 0x14
  else 0

/-! ## Transfers -/

def modXfer (id : Nat) (f : Xfer → Xfer) (s : State) : State :=
  { s with mov := { s.mov with xfers := mapWhere (fun x => decide (x.id = id)) f s.mov.xfers } }
def findXfer (s : State) (id : Nat) : Option Xfer := s.mov.xfers.find? fun x => x.id = id
def dropXfer (id : Nat) (s : State) : State := { s with mov := { s.mov with xfers := s.mov.xfers.filter fun x => x.id ≠ id } }

/-- Core that a transfer belongs to. -/
def Xfer.core (x : Xfer) : Nat := match x.owner with
  | .simt _ _ _ c _ _ => c
  | .cmd _ => 0

/-- The transfer of this owner may start rows: its command holds a sequencer, or its launch goes on. -/
def xferLive (s : State) (x : Xfer) : Bool :=
  !s.flt.safe && match x.owner with
  | .cmd id => match s.fe.cmd id with
    | some c => decide (c.phase = .running)
    | none => false
  | .simt l _ _ c _ _ => !clusterInReset s (c / 4) && match findLaunch s l with
    | some y => y.ending.isNone
    | none => false

/-- A transfer fails (R324). -/
def failXfer (x : Xfer) (addr : Option Nat) (s : State) : State :=
  let s := dropXfer x.id s
  match x.owner with
  | .cmd id => match s.fe.cmd id with
    | some c => faultCmd c 0x16 addr s
    | none => s
  | .simt l _ _ c _ pc => match findLaunch s l with
    | some y => launchFault y c 0x16 addr (2 ^ 62 + pc) s
    | none => s

/-! ## Mover counters (R322) -/

/-- Launch, core and counter of a TMOV or TOUT. -/
def Xfer.mcKey (x : Xfer) : Option (Nat × Nat × Nat) := match x.owner with
  | .simt l _ _ c mc _ => some (l, c, mc)
  | .cmd _ => none

/-- Rows that the counter advances by, in the order of issue; a transfer that is over and counted leaves. -/
def countRows (key : Nat × Nat × Nat) : List Xfer → Nat × List Xfer
  | [] => (0, [])
  | x :: rest =>
    if x.mcKey = some key then
      if x.isOver then
        let r := countRows key rest
        (x.cursor - x.counted + r.1, r.2)
      else (x.cursor - x.counted, { x with counted := x.cursor } :: rest)
    else
      let r := countRows key rest
      (r.1, x :: r.2)

def mcOf (s : State) (c l mc : Nat) : Nat := fget 0 (coreAt s c).mc (8 * l + mc)

def settleMc (key : Nat × Nat × Nat) (s : State) : State :=
  let r := countRows key s.mov.xfers
  modCore key.2.1 (fun k => { k with mc := fmod 0 k.mc (8 * key.1 + key.2.2) (· + r.1) }) { s with mov := { s.mov with xfers := r.2 } }

/-! ## Pages of a row (R314, R317) -/

/-- Host ranges of a row: start, bytes, whether it writes there. -/
def rowRanges (d : Bytes) (n : Nat) : List (Nat × Nat × Bool) :=
  let src := if tdSspace d = 0 then (pagesOf (tdSrcRow d n) (tdRowBytes d (tdSfmt d))).map fun r => (r.1, r.2, false) else []
  let dst := if tdDspace d = 0 then (pagesOf (tdDstRow d n) (tdRowBytes d (tdDfmt d))).map fun r => (r.1, r.2, true) else []
  src ++ dst

/-- What the pages of a row allow. -/
inductive Pages where
  | ok
  | ask (l : List (Nat × Bool))
  | stuck (page : Nat) (write : Bool)
  | refused (va : Nat)

def pageNow (s : State) (x : Xfer) (r : Nat × Nat × Bool) : Pages :=
  if x.fresh = some (r.1 / 4096) then .ask [(r.1, !r.2.2)]
  else match xlat s x.ctx x.gen r.1 r.2.2 with
    | .pa p => if physOk s p r.2.1 then .ok else .refused r.1
    | .denied => .stuck (r.1 / 4096) r.2.2
    | .miss nw => .ask [(r.1, nw)]

/-- The first page that stops the row, else all translations to ask for. -/
def pagesNow (s : State) (x : Xfer) (rs : List (Nat × Nat × Bool)) : Pages :=
  rs.foldl (fun a r => match a, pageNow s x r with
    | .stuck p w, _ => .stuck p w
    | .refused v, _ => .refused v
    | _, .stuck p w => .stuck p w
    | _, .refused v => .refused v
    | .ask l, .ask m => .ask (l ++ m)
    | .ask l, .ok => .ask l
    | .ok, y => y) .ok

/-! ## Source of a row -/

/-- Bytes of a row and the offsets among them that read as poison. -/
structure RowSrc where
  bytes : Bytes
  bad : List Nat

/-- What the read of a row's source gives: the row with the device ranges read, the address at which it fails, or the ranges that it
waits for. -/
inductive SrcRead where
  | ok (r : RowSrc) (devs : List (Nat × Nat))
  | bad (addr : Nat)
  | wait (devs : List (Nat × Nat))

/-- Two pieces of a row, one after the other. -/
def SrcRead.then_ : SrcRead → SrcRead → SrcRead
  | .bad a, _ => .bad a
  | _, .bad a => .bad a
  | .ok r d, .ok q e => .ok { bytes := r.bytes ++ q.bytes, bad := r.bad ++ q.bad } (d ++ e)
  | .ok _ _, .wait e => .wait e
  | .wait d, .ok _ _ => .wait d
  | .wait d, .wait e => .wait (d ++ e)

/-- A device range of a row, as the homes serve it, with its poisoned offsets from the row's start `base` on (R291, R324). -/
def devSrc (s : State) (base a n : Nat) : SrcRead :=
  if !deviceReady s a n then .wait [(a, n)]
  else if scrBase ≤ a then
    .ok { bytes := memRead s.dc.scratch (a - scrBase) n
          bad := ((List.range n).filter fun i => scratchBad s (a + i) 1).map (base + ·) } []
  else .ok { bytes := (List.range n).map fun i => devByte s (homeSlice (a + i)) (a + i)
             bad := ((List.range n).filter fun i => devPoison s (homeSlice (a + i)) (a + i) 1).map (base + ·) } [(a, n)]

/-- One page of a host row at offset `base` of it: HVDM from the homes (R313); of host memory the block's own copy stands before what the
host sends (R282). -/
def hostSrc (s : State) (x : Xfer) (base a n : Nat) (host : ReadBack) (bad : List Nat) : SrcRead :=
  match xlat s x.ctx x.gen a false with
  | .pa p => match hvdmOf s p with
    | some q => devSrc s base q n
    | none => match host with
      | .failed => .bad a
      | h =>
        let (b, all) : Bytes × Bool := match h with
          | .data b => (b, false)
          | _ => ([], true)
        .ok { bytes := (List.range n).map fun i => hostByte s (p + i) (b.getD (base + i) 0)
              bad := ((List.range n).filter fun i => match hostCopy s (p + i) with
                | some c => c.2
                | none => all || bad.contains ((a + i) / 32 - (a - base) / 32)).map (base + ·) } []
  | _ => .bad a

/-- Source of row n (R267, R295, R324). -/
def rowSrc (s : State) (x : Xfer) (n : Nat) (host : ReadBack) (bad : List Nat) : SrcRead :=
  let d := x.desc
  let a := tdSrcRow d n
  let k := tdRowBytes d (tdSfmt d)
  match tdSspace d with
  | 0 => (pagesOf a k).foldl (fun r p => r.then_ (hostSrc s x (p.1 - a) p.1 p.2 host bad)) (.ok { bytes := [], bad := [] } [])
  | 1 => if moverAllowed s a k then devSrc s 0 a k else .bad a
  | _ =>
    match x.owner with
    | .simt l _ _ c _ _ =>
      if (findLaunch s l).any fun y => inTeams y c a k then
        .ok { bytes := lsRead s c a k, bad := (List.range k).filter fun i => lsPoison s c (a + i) 1 } []
      else .bad a
    | .cmd _ => .bad a

/-- Read-ahead of the row after one that starts, where it lies in device memory (R271; one row: DESIGN CHOICE, log 43). -/
def readAhead (x : Xfer) (n : Nat) (s : State) : State :=
  let a := tdSrcRow x.desc (n + 1)
  let k := tdRowBytes x.desc (tdSfmt x.desc)
  if tdSspace x.desc ≠ 1 || tdRows x.desc ≤ n + 1 || !allowed s a k then s
  else (rangeLines a k).foldl (fun s l => prefetch (lineHome l) l s) s

/-! ## What a row becomes (R321) -/

/-- Image of a row at its destination, its poisoned offsets, its elements, and codes read out of range (R46). -/
structure RowDst where
  img : Bytes
  bad : List Nat
  elems : List Elem
  isOver : Nat

/-- A conversion of which any source byte is poison is poison as a whole. -/
def rowDst (d : Bytes) (k : Nat) (r : RowSrc) : RowDst :=
  if tdConv d then
    let m := tdLen d
    let c := convert (tdDfmt d) k (vecVals (tdSfmt d) (tdEscK d) m r.bytes)
    let img := if isBlockFmt (tdDfmt d) then rowImage (tdDfmt d) k m c else vecImage (tdDfmt d) m c
    { img := img, bad := if r.bad = [] then [] else List.range img.length, elems := c.elems
      isOver := if isBlockFmt (tdSfmt d) then (rowCodes (tdSfmt d) (tdEscK d) m r.bytes).isOver else 0 }
  else { img := r.bytes, bad := r.bad, elems := [], isOver := 0 }

/-- Some row of the side of a transfer that starts at `start` covers address `a`. -/
def inRows (d : Bytes) (start : Nat → Nat) (len a : Nat) : Bool :=
  (List.range (tdRows d)).any fun m => start m ≤ a && a < start m + len

/-- Bytes of row n that lie where source and destination overlap, or come from there: undefined (R324, DESIGN CHOICE, log 3). -/
def overlap (d : Bytes) (n : Nat) : List Nat :=
  if tdSspace d ≠ tdDspace d then []
  else
    let sl := tdRowBytes d (tdSfmt d)
    let dl := tdRowBytes d (tdDfmt d)
    let fromDst : Bool := (List.range sl).any fun j => inRows d (tdDstRow d) dl (tdSrcRow d n + j)
    (List.range dl).filter fun i => inRows d (tdSrcRow d) sl (tdDstRow d n + i)
      || (if tdConv d then fromDst else inRows d (tdDstRow d) dl (tdSrcRow d n + i))

/-- The undefined bytes take free values. -/
def freeBytes (s : State) (free : List Nat) (b : Bytes) : Bytes :=
  (b.zip (List.range b.length)).map fun (v, i) => if free.contains i then Config.freeBits 8 (s.freeCtr + i) else v

/-! ## Delivery -/

/-- Poison reaches sectors of device memory (R291): copies are recalled, the sectors marked under their region's policy (R268). -/
def poisonDevice (secs : List Nat) (s : State) : State :=
  ((secs.map (· / 4)).eraseDups).foldl (fun s line =>
    let k := lineHome line
    let s := match dirtyL1 s.simt.cores line with
      | some l => homeData k l s
      | none => s
    poisonLine k line (secMask fun j => secs.contains (4 * line + j)) (dropSide k line (endLineResv line (dropCopies line s)))) s

/-- Poison sent to host memory with the CXL poison indication, ahead of which the slice gives up its copy. -/
def poisonHost (who : Requester) (pa : Nat) (b : List (Nat × Byte)) (s : State) : State :=
  let line := hostLine + pa / 128
  let k := lineHome line
  let s := match (s.dc.slice k).find line with
    | some l => evictLine k l s
    | none => dropCopies line s
  d2hSend { tag := 0, op := .woWrInv, pa := pa / 64 * 64, bytes := b, who := who, poison := true } (dropSide k line (endLineResv line s))

/-- Bytes of the image with the offsets in `keep` only, at `a`. -/
def pick (a : Nat) (img : Bytes) (p : Nat → Bool) : List (Nat × Byte) := (placed a img).filter fun b => p (b.1 - a)

def putDevice (who : Requester) (tag : Nat → Option Nat) (a : Nat) (r : RowDst) (s : State) : State :=
  let secs := (r.bad.map fun i => (a + i) / 32).eraseDups
  if scrBase ≤ a then
    let s := writeDevice who none a r.img s
    { s with dc := { s.dc with scratchBad := r.bad.foldl (fun m i => fset false m ((a + i - scrBase) / 8) true) s.dc.scratchBad } }
  else
    let bs := pick a r.img fun i => !r.bad.contains i
    let s := if secs = [] then s else poisonDevice secs s
    ((bs.map fun b => b.1 / 128).eraseDups).foldl (fun s l => sendWrite who (tag l) (bs.filter fun b => b.1 / 128 = l) s) s

/-- Writes the bytes of one page of a host row. -/
def putPage (who : Requester) (tag : Nat → Option Nat) (x : Xfer) (base : Nat) (r : RowDst) (a n : Nat) (s : State) : State :=
  match xlat s x.ctx x.gen a true with
  | .pa p =>
    let part : RowDst :=
      { r with img := slice r.img (a - base) n, bad := (r.bad.filter fun i => a - base ≤ i && i < a - base + n).map (· - (a - base)) }
    match hvdmOf s p with
    | some q => putDevice who tag q part s
    | none =>
      let good := pick p part.img fun i => !part.bad.contains i
      let ill := pick p part.img fun i => part.bad.contains i
      let s := ((ill.map fun b => b.1 / 64).eraseDups).foldl (fun s h => poisonHost who (64 * h) (ill.filter fun b => b.1 / 64 = h) s) s
      if good = [] then s else sendWrite who none (good.map fun b => (b.1 + hostLine * 128, b.2)) s
  | _ => s

/-- Command of the work item that a transfer of launch `l` names. -/
def itemCmd (s : State) (l : Nat) (tag : Option Nat) : Option Nat :=
  tag.bind fun t => (findLaunch s l).bind fun y => (y.items.find? fun i => i.tag = t).map Item.cmd

/-- The command whose result bytes a transfer writes (R242). -/
def xferCmd (s : State) (x : Xfer) : Nat := match x.owner with
  | .cmd id => id
  | .simt l _ _ _ _ _ => match itemCmd s l x.tag with
    | some id => id
    | none => (findLaunch s l).elim 0 Launch.cmd

/-- Release tag of what a transfer writes into a device line (R242, R269). -/
def xferTag (s : State) (x : Xfer) (line : Nat) : Option Nat := match x.owner with
  | .cmd id => some id
  | .simt l _ _ _ _ _ => match itemCmd s l x.tag with
    | some id => some id
    | none => storeTag s l line

/-- Writes of row n that have not reached their level (R322). -/
def rowOut (s : State) (id n : Nat) : Bool := anyOut s fun
  | .row x m _ => x = id && m = n
  | _ => false

/-- Table row of row n. -/
def tdTableRow (d : Bytes) (n : Nat) : Nat := tdRow d + n

/-- A row commit waits for those handed over before it in its slice (R137), while the row returns home (R159), and while its region
changes (R266). -/
def commitWaits (s : State) (t side row : Nat) (d : TblDesc) : Bool :=
  let k := (shardHome t d.shards row).2
  (s.upd.staging.any fun r => r.slice = k && r.ticket.isSome) || returning s.mig t side row
    || rowWaits s (rowCopy s t d side row).1 d.size

/-- The guard of the table refuses the row (R80, R136), by the descriptor of the command's admission (R90). -/
def tableRefuses (c : Cmd) (d : Bytes) (r : RowDst) : Bool :=
  let td := c.table (tdTable d)
  tdConv d && flagged td.pgThresh r.elems ≠ [] && td.pgAct = 3

/-- The home slice commits the row image (R321): the guard examines converted images and may refuse. -/
def putTable (c : Cmd) (d : Bytes) (n : Nat) (r : RowDst) (s : State) : State :=
  let t := tdTable d
  let row := tdTableRow d n
  let td := c.table t
  let fl := if tdConv d then flagged td.pgThresh r.elems else []
  let s := guardCounts 8 t row td.pgAct (some c.ctx) fl s
  if tableRefuses c d r then rcount 0x8040C 1 s
  else commitImage t (tdSide d) row td r.img (r.bad.map (· / 32)).eraseDups s

def addHist (h g : FMap Nat) : FMap Nat := g.foldl (fun m e => fmod 0 m e.1 fun n => min 0xFFFF (n + e.2)) h

/-- Command whose histogram takes the elements of a transfer: that of a `MOVE`, of the launch or the work item of a TOUT, none of a TMOV
(R319, R203). -/
def histCmd (s : State) (x : Xfer) : Option Nat := match x.owner with
  | .cmd id => some id
  | .simt l _ _ _ _ _ =>
    if !x.tout then none
    else match x.tag with
      | some _ => itemCmd s l x.tag
      | none => (findLaunch s l).map Launch.cmd

/-- A transfer whose rows are all delivered is over. -/
def finishXfer (x : Xfer) (s : State) : State :=
  match x.owner with
  | .cmd id =>
    (match s.fe.cmd id with
    | some c => if x.badAt.isSome then faultCmd c 0x16 x.badAt (dropXfer x.id s) else readyCmd id 0 (dropXfer x.id s)
    | none => dropXfer x.id s)
  | .simt l _ _ c _ pc =>
    let s := modXfer x.id (fun x => { x with isOver := true }) s
    match findLaunch s l with
    | none => s
    | some y =>
      let s := match x.tag with
        | some t =>
          let f (i : Item) : Item := { i with touts := i.touts - 1 }
          modLaunch l (fun z => { z with items := mapWhere (fun i => decide (i.tag = t)) f z.items }) s
        | none => s
      if x.badAt.isSome then launchFault y c 0x16 x.badAt (2 ^ 62 + pc) s
      else match x.tag with
        | some t => finishItem l t s
        | none => s

/-- Row n is delivered: the cursor passes every row of the delivered prefix (R322). -/
def deliverRow (x : Xfer) (n : Nat) (s : State) : State :=
  let rows := mapWhere (fun r : XRow => decide (r.n = n)) (fun r => { r with done := true }) x.rows
  let pre := rows.takeWhile XRow.done
  let x := { x with rows := rows.drop pre.length, cursor := x.cursor + pre.length }
  let s := modXfer x.id (fun _ => x) s
  let s := match histCmd s x with
    | some id => modCmd id (fun c => { c with hist := pre.foldl (fun h r => addHist h r.hist) c.hist }) s
    | none => s
  let s := if x.cursor = tdRows x.desc then finishXfer x s else s
  match x.mcKey with
  | some k => settleMc k s
  | none => s

/-- The command of a `MOVE`. -/
def moveCmd (s : State) (x : Xfer) : Option Cmd := match x.owner with
  | .cmd id => s.fe.cmd id
  | .simt _ _ _ _ _ _ => none

/-- Address at which the destination of a row refuses it (R267, R295, R324); none where the transfer may write. -/
def dstRefused (s : State) (x : Xfer) (n k : Nat) : Option Nat :=
  let d := x.desc
  let a := tdDstRow d n
  match tdDspace d with
  | 0 => none
  | 1 => if moverAllowed s a k then none else some a
  | 2 => (match x.owner with
    | .simt l _ _ c _ _ => if (findLaunch s l).any fun y => inTeams y c a k then none else some a
    | .cmd _ => some a)
  | _ => match moveCmd s x with
    | some c =>
      let td := c.table (tdTable d)
      let row := tdTableRow d n
      let p := (rowCopy s (tdTable d) td (tdSide d) row).1
      if td.rows < row then some a else if rowNowhere s p td.size then some p else none
    | none => some a

/-- Writes a row into its destination space. -/
def putRow (x : Xfer) (n : Nat) (r : RowDst) (s : State) : State :=
  let d := x.desc
  let a := tdDstRow d n
  let who := Requester.row x.id n (xferCmd s x)
  let tag := xferTag s x
  match tdDspace d with
  | 0 => (pagesOf a r.img.length).foldl (fun s p => putPage who tag x a r p.1 p.2 s) s
  | 1 => putDevice who tag a r s
  | 2 =>
    let c := x.core
    modCore c (fun k => { k with lsBad := r.bad.foldl (fun m i => fset false m (a + i) true) k.lsBad }) (writeLs c a r.img s)
  | _ => (moveCmd s x).elim s fun c => putTable c d n r s

/-- ESC_K of the destination: a table's own for a table. -/
def dstEscK (s : State) (x : Xfer) : Nat :=
  match if tdDspace x.desc = 3 then moveCmd s x else none with
  | some c => (c.table (tdTable x.desc)).escK
  | none => tdEscK x.desc

/-- The table commit of the row must wait. -/
def tableWaits (s : State) (x : Xfer) (n : Nat) : Bool :=
  tdDspace x.desc = 3 && (moveCmd s x).elim true fun c =>
    commitWaits s (tdTable x.desc) (tdSide x.desc) (tdTableRow x.desc n) (c.table (tdTable x.desc))

/-- The row is written nowhere, for its table refuses it. -/
def rowRefused (s : State) (x : Xfer) (r : RowDst) : Bool :=
  tdDspace x.desc = 3 && (moveCmd s x).any fun c => tableRefuses c x.desc r

/-- Counts and marks of a row that starts (R70, R74). -/
def noteRow (x : Xfer) (n : Nat) (r : RowDst) (s : State) : State :=
  let s := { s with mng := fmod {} s.mng 8 fun m => m.add r.elems r.isOver }
  let s := match x.owner with
    | .simt _ _ _ _ _ _ => s
    | .cmd id => modCmd id (fun c => { c with wrote := true }) s
  let y : XRow := { n := n, done := false, hist := if rowRefused s x r then [] else histAdd [] (r.elems.map Elem.q) }
  modXfer x.id (fun x => { x with
    rows := x.rows ++ [y]
    badAt := if r.bad = [] || x.badAt.isSome then x.badAt else some (tdSrcRow x.desc n) }) s

/-- The arbiter of the rows of a transfer (R357), and its request there. -/
def rowArb (s : State) (x : Xfer) : Arb := match x.owner with
  | .cmd id => .rows (((s.fe.cmd id).bind Cmd.home).getD 0)
  | .simt _ _ _ c _ _ => .mover c
def rowReq (s : State) (x : Xfer) : Nat × Nat := match x.owner with
  | .cmd id => (x.ctx, ((s.fe.cmd id).map Cmd.sq).getD 0)
  | .simt l _ _ _ _ _ => (x.ctx, ((findLaunch s l).map Launch.sq).getD 0)

/-- Row n of the transfer is the next to start. -/
def rowTurn (s : State) (x : Xfer) (n : Nat) : Bool :=
  xferLive s x && !x.isOver && x.stuck.isNone && x.prg.isNone && n = x.cursor + x.rows.length && n < tdRows x.desc
    && (x.rows.filter fun r => !r.done).length < 64

/-- The next row of the transfer can start now: its pages are translated and its device lines at hand. -/
def rowReady (s : State) (x : Xfer) : Bool :=
  let n := x.cursor + x.rows.length
  rowTurn s x n && !tableWaits s x n
    && (match pagesNow s x (rowRanges x.desc n) with | .ok => true | _ => false)
    && (match rowSrc s x n .poison [] with | .ok _ _ => true | _ => false)

/-- Transfers with a row that could start at an arbiter (R357). -/
def rowReqs (s : State) (a : Arb) : List (Nat × Nat) :=
  (s.mov.xfers.filter fun y => (rowArb s y).num = a.num && rowReady s y).map (rowReq s)

/-- Row n is read, converted and written. DESIGN CHOICE, log 13. -/
def startRow (x : Xfer) (n : Nat) (host : ReadBack) (bad : List Nat) (s : State) : State :=
  match pagesNow s x (rowRanges x.desc n) with
  | .stuck p w => modXfer x.id (fun x => { x with stuck := some (p, w) }) s
  | .refused va => failXfer x (some va) s
  | .ask l => l.foldl (fun s r => askXlat x.ctx x.gen r.1 r.2 (.xfer x.id) 0 s) s
  | .ok =>
    if tableWaits s x n then s
    else match rowSrc s x n host bad with
      | .bad a => failXfer x (some a) s
      | .wait devs => devs.foldl (fun s r => askDevice r.1 r.2 s) s
      | .ok r devs =>
        let d := rowDst x.desc (dstEscK s x) r
        match dstRefused s x n d.img.length with
        | some a => failXfer x (some a) s
        | none =>
          if !s.fe.mayServe (rowArb s x) (rowReqs s (rowArb s x)) (rowReq s x) then s
          else
          let s := { s with fe := s.fe.serve (rowArb s x) (rowReqs s (rowArb s x)) (rowReq s x) 1 }
          let free := overlap x.desc n
          let d := { d with img := freeBytes s free d.img }
          let s := if free = [] then s else { s with freeCtr := s.freeCtr + d.img.length }
          let s := putRow x n d (noteRow x n d (readAhead x n (doneRanges devs s)))
          match findXfer s x.id with
          | some y => if rowOut s x.id n then s else deliverRow y n s
          | none => s

def moverRowE (id n : Nat) (host : ReadBack) (bad : List Nat) (s : State) : State :=
  match findXfer s id with
  | none => s
  | some x =>
    if x.isOver then s
    else match x.rows.find? fun r => r.n = n with
      | some r => if r.done || rowOut s id n then s else deliverRow x n s
      | none =>
        if rowTurn s x n then startRow x n host bad s else s
/-- MOVER_ROW_DELIVERED (R321, R322): a row in its turn starts; a row in progress is delivered once its bytes have reached their
level. -/
def execMoverRowDelivered (xfer n : Nat) (src : ReadBack) (bad : List Nat) (s : State) := live .fab s (moverRowE xfer n src bad)

/-! ## TMOV, TOUT, TWAIT (R323) -/

def newXfer (id : Nat) (owner : XOwner) (ctx : Nat) (gen : W16) (desc : Bytes) (tag : Option Nat) (tout : Bool) : Xfer :=
  { id := id, owner := owner, ctx := ctx, gen := gen, desc := desc, tag := tag, tout := tout }

def addXfer (owner : XOwner) (ctx : Nat) (gen : W16) (desc : Bytes) (tag : Option Nat) (tout : Bool) (s : State) : State :=
  { s with mov := { s.mov with xfers := s.mov.xfers ++ [newXfer s.mov.next owner ctx gen desc tag tout], next := s.mov.next + 1 } }

/-- Transfers queued at a core. -/
def queuedAt (s : State) (c : Nat) : Nat :=
  (s.mov.xfers.filter fun x => !x.isOver && match x.owner with
    | .simt _ _ _ k _ _ => k = c
    | .cmd _ => false).length

/-- The tag that a TOUT names, when its launch holds it (R323, R223). -/
def toutTag (l : Launch) (v : W32) : Option (Option Nat) :=
  if l.resident then ((l.items.find? fun i => i.tag % 2 ^ 32 = v.toNat).map fun i => some i.tag)
  else if v = 0xFFFFFFFF#32 then some none else none

/-- Issue of a transfer once per group, from the lowest executing thread's registers: the descriptor is copied now (R320). -/
def issueXfer (p : Path) (tag : Option Nat) (off : Nat) (out : Bool) (s : State) : State :=
  let c := p.t.core
  if !inTeams p.l c off 64 then pathFault p 0x06 (some p.pc) (off % 2 ^ 19) s
  else if lsPoison s c off 64 then pathFault p 0x05 none p.pc s
  else
    let d := lsRead s c off 64
    if off % 64 ≠ 0 || tdReserved d || tdGeometry d false out then pathFault p 0x16 (some off) (2 ^ 62 + p.pc) s
    else
      let f (i : Item) : Item := { i with touts := i.touts + 1 }
      let s := match tag with
        | some t => modLaunch p.l.id (fun y => { y with items := mapWhere (fun i => decide (i.tag = t)) f y.items }) s
        | none => s
      let s := if tdDspace d = 2 then s else noteWrite p.l.id s
      onGroup p (fun g => g.next p)
        (addXfer (.simt p.l.id p.t.num p.g.num c (wMod p.w % 8) p.pc) p.l.ctx p.l.gen d tag out s)

/-- TMOV (R319, R323). -/
def execTmov (x : Issue) (s : State) := simt 0xC0 x s fun p s =>
  if 32 ≤ queuedAt s p.t.core then stall p .event s
  else issueXfer p none (p.a (p.act.headD 0)).toNat false s

/-- TOUT (R319, R323). -/
def execTout (x : Issue) (s : State) := simt 0xC1 x s fun p s =>
  let v := p.g.reg (p.act.headD 0) (wRb p.w)
  match toutTag p.l v with
  | none => pathFault p 0x08 (some p.pc) v.toNat s
  | some tag =>
    if 32 ≤ queuedAt s p.t.core then stall p .event s
    else issueXfer p tag (p.a (p.act.headD 0)).toNat true s

/-- TWAIT (R323): until the counter, less the operand, is 0 or more as a signed number. -/
def execTwait (x : Issue) (s : State) := simt 0xC2 x s fun p s =>
  let n := BitVec.ofNat 32 (mcOf s p.t.core p.l.id (wMod p.w % 8))
  waitRow p (p.act.all fun i => !(n - p.a i).msb) s

/-! ## MOVE (R327) -/

/-- The descriptor of a `MOVE`, read at admission: in host memory, of which the operand brings the bytes, or in device memory. -/
def moveDesc (s : State) (c : Cmd) (host : ReadBack) : PoolRead :=
  if mvDspc c.bytes = 0 then virtRead s c.ctx c.gen (mvDesc c.bytes) 64 host else devPiece s (mvDesc c.bytes) 64

/-- An admitted `MOVE` takes its transfer, and waits for a sequencer. -/
def beginMove (id : Nat) (d : Bytes) (s : State) : State :=
  withCmd id (fun c => c.phase = .admitted && c.op = .move) s fun c =>
    modCmd id (fun c => { c with phase := .waitSeq, work := .move s.mov.next }) (addXfer (.cmd id) c.ctx c.gen d none false s)

def moveE (id : Nat) (host : ReadBack) (s : State) : State :=
  withCmd id (fun c => c.phase = .checked && c.op = .move) s fun c =>
    if mvDesc c.bytes % 64 ≠ 0 then admitNow id 0x13 s
    else match moveDesc s c host with
      | .ok d devs => beginMove id d (admitNow id (moveStatus s c.ctx d) (doneRanges devs s))
      | .bad src a =>
        let s := admitNow id 0 s
        withCmd id (fun c => c.phase = .admitted) s fun c => faultCmd c src (some a) s
      | .wait l devs => askFor c l devs s
/-- MOVE (R319, R327): the descriptor is read, the command admitted. -/
def execMove (id : Nat) (desc : ReadBack) (s : State) := live .fab s (moveE id desc)

/-! ## Page request groups (R317, R318) -/

/-- Insertion in ascending order; a page asked for twice asks for the stronger right. -/
def insertPage (p : Nat × Bool) : List (Nat × Bool) → List (Nat × Bool)
  | [] => [p]
  | q :: l => if p.1 < q.1 then p :: q :: l else if p.1 = q.1 then (q.1, q.2 || p.2) :: l else q :: insertPage p l

/-- Pages of the rows still to be delivered that the ATC lacks or holds without the right needed. -/
def lackingPages (s : State) (x : Xfer) : List (Nat × Bool) :=
  ((List.range (tdRows x.desc - x.cursor)).flatMap fun i => rowRanges x.desc (x.cursor + i)).foldl (fun l r =>
    match xlat s x.ctx x.gen r.1 r.2.2 with
    | .pa _ => l
    | _ => insertPage (r.1 / 4096, r.2.2) l) []

/-- The pages of a group: the faulting one first, with every right that the rows to come need of it. -/
def groupPages (s : State) (x : Xfer) (p : Nat × Bool) : List (Nat × Bool) :=
  let l := lackingPages s x
  (p.1, p.2 || l.any fun q => q.1 = p.1 && q.2) :: (l.filter fun q => q.1 ≠ p.1).take 63

def freeIndex (a : Atc) : Option Nat := (List.range 512).find? fun i => !a.prgs.any fun g => g.index = i

/-- Sends the requests of a group, the last with Last. -/
def sendPages (pasid index : Nat) : List (Nat × Bool) → State → State
  | [], s => s
  | p :: l, s => sendPages pasid index l (emitMem (.pageRequest pasid index p.1 p.2 l.isEmpty) s)

def pageRequestGroupE (id : Nat) (s : State) : State :=
  match findXfer s id with
  | none => s
  | some x => match x.stuck, freeIndex s.atc with
    | some p, some i =>
      let ps := groupPages s x p
      let out := sumOf (s.atc.prgs.map fun g => g.pages.length)
      if x.prg.isSome || s.atc.prFail || s.flt.safe || min 2048 s.hif.prAlloc < out + ps.length then s
      else
        let g : Prg := { index := i, xfer := id, pages := ps.map Prod.fst, since := s.devtime, abandoned := false }
        sendPages (pasidOf s x.ctx) i ps (modXfer id (fun x => { x with prg := some i }) { s with atc := { s.atc with prgs := s.atc.prgs ++ [g] } })
    | _, _ => s
/-- PAGE_REQUEST_GROUP (R317). -/
def execPageRequestGroup (xfer : Nat) (s : State) := live .hif s (pageRequestGroupE xfer)

def freePrg (index : Nat) (s : State) : State :=
  { s with atc := { s.atc with prgs := s.atc.prgs.filter fun g => g.index ≠ index } }

/-- Success: the page is translated anew, and every row from the cursor on is delivered again (R318, R325). -/
def Xfer.resume (x : Xfer) : Xfer :=
  { x with
    prg := none
    stuck := none
    fresh := x.stuck.map Prod.fst
    again := x.again + 1
    high := max x.high (x.cursor + x.rows.length)
    rows := [] }

def prgResponseE (index code : Nat) (s : State) : State :=
  match s.atc.prgs.find? fun g => g.index = index with
  | none => s
  | some g =>
    let s := freePrg index s
    let s := if code = 15 && !g.abandoned then { s with atc := { s.atc with prFail := true } } else s
    match findXfer s g.xfer with
    | none => s
    | some x =>
      if g.abandoned || x.prg ≠ some index then s
      else if code = 0 then modXfer x.id Xfer.resume s
      else failXfer x (x.stuck.map fun p => p.1 * 4096) s
/-- PRG_RESPONSE (R318): code 0 Success, 1 Invalid Request, 15 Response Failure. -/
def execPrgResponse (index code : Nat) (s : State) := live .hif s (prgResponseE index code)

def prgTimeoutE (index : Nat) (s : State) : State :=
  match s.atc.prgs.find? fun g => g.index = index && !g.abandoned && 2000000000 ≤ since s.devtime g.since with
  | none => s
  | some g =>
    let f (g : Prg) : Prg := { g with abandoned := true }
    let s := { s with atc := { s.atc with prgs := mapWhere (fun g => decide (g.index = index)) f s.atc.prgs } }
    match findXfer s g.xfer with
    | some x => if x.prg = some index then failXfer x (x.stuck.map fun p => p.1 * 4096) s else s
    | none => s
/-- PRG_RESPONSE_TIMEOUT (R318): the index stays allocated until a response arrives. -/
def execPrgResponseTimeout (index : Nat) (s : State) := live .hif s (prgTimeoutE index)

end Sys2Proof.Machine
end

