-- ==== Sys2Proof/Machine/Translation.lean ====
section
/-! DEFINITION. The address translation cache (R312 to R316): completions of Translation Requests and what follows for each
requester (R314), timeouts (R392), and invalidations (R316). -/

namespace Sys2Proof.Machine

/-! ## The cache (R312) -/

/-- The entry that a result of 2^log2 pages from physical page `ppn` on makes; a page larger than 1 GiB is held as 1 GiB entries
(R312). -/
def XlatReq.entry (r : XlatReq) (ppn : Nat) (rd wr : Bool) (log2 : Nat) : AtcEnt :=
  let n := min log2 18
  let page := r.page / 2 ^ n * 2 ^ n
  { pasid := r.pasid, ctx := r.ctx, gen := r.gen, page := page, ppn := ppn / 2 ^ log2 * 2 ^ log2 + page % 2 ^ log2, r := rd, w := wr,
    noWrite := r.noWrite, log2 := n }

/-- Two entries of one context cover a common page. -/
def AtcEnt.meets (e f : AtcEnt) : Bool :=
  e.pasid = f.pasid && e.ctx = f.ctx && e.gen = f.gen && e.page < f.page + 2 ^ f.log2 && f.page < e.page + 2 ^ e.log2

/-- The result replaces what is held of its pages; R = W = 0 is not held. A full cache gives up its oldest entry (DESIGN CHOICE, log 40). -/
def Atc.install (a : Atc) (r : XlatReq) (ppn : Nat) (rd wr : Bool) (log2 : Nat) : Atc :=
  let e := r.entry ppn rd wr log2
  let keep := a.ents.filter fun x => !e.meets x
  if !rd && !wr then { a with ents := keep }
  else { a with ents := (if 16384 ≤ keep.length then keep.drop 1 else keep) ++ [e] }

/-! ## What a result does (R314) -/

/-- Result of a request: permission for the access, without it (R = W = 0, or no W for a write), or denied. -/
inductive Xlated where
  | ok
  | lacking (rd : Bool)
  | denied
deriving DecidableEq, Repr

def resultOf (r : XlatReq) : XlatResult → Xlated
  | .success _ rd wr _ => if r.noWrite then (if rd then .ok else .lacking false) else if wr then .ok else .lacking rd
  | .denied => .denied

/-- The command waits for a translation, of its output, its bag list or an array, or a signal's address; without it, it ends. -/
def needsXlat (c : Cmd) : Bool :=
  c.phase = .xlat || c.phase = .orderWait || (c.phase = .admitted && c.op = .seqPool) || (c.phase = .running && match c.work with
    | .gather g => g.stage = .list
    | _ => false)

/-- A command that waited for a translation; a `MOVE` is admitted and ends when that of its descriptor fails (R327). -/
def cmdXlated (id va : Nat) (x : Xlated) (s : State) : State :=
  withCmd id (fun c => c.phase ≠ .ready) s fun c =>
    if x ≠ .ok then
      if c.phase = .checked && c.op = .move then
        withCmd id (fun c => c.phase = .admitted) (admitNow id 0 s) fun c => faultCmd c 0x15 (some va) (admitNow id 0 s)
      else if needsXlat c then faultCmd c 0x15 (some va) s else s
    else match c.work with
      | .gather g => if c.phase = .xlat then finishGather { c with phase := .running } g s else s
      | _ => if c.phase = .orderWait && c.wrote then sgWrite c s else s

/-- A group of a launch that waited. A write that only lacks permission is source 0x03, the rest 0x02 (R426). -/
def groupXlated (l t g : Nat) (store : Bool) (va pc : Nat) (x : Xlated) (s : State) : State :=
  match findLaunch s l with
  | none => s
  | some y => match y.teams.find? fun z => z.num = t with
    | none => s
    | some z =>
      if x = .ok then
        modGroup l t g (fun h => if h.wait = .mem then { h with wait := .none } else h)
          { s with pwr := s.pwr.startClk (z.core / 4) }
      else if y.ending.isSome then s
      else launchFault y z.core (if store && x = .lacking true then 0x03 else 0x02) (some va) pc s

/-- A transfer that waited: it goes on, needs a page request, or fails; it fails at the fourth Success in a row that leaves the page
unusable (R314, R318). -/
def xferXlated (id page : Nat) (write : Bool) (x : Xlated) (s : State) : State :=
  match findXfer s id with
  | none => s
  | some y =>
    let fresh := if y.fresh = some page then none else y.fresh
    match x with
    | .ok => modXfer id (fun y => { y with fresh := fresh, again := if y.fresh = some page then 0 else y.again }) s
    | .lacking _ =>
      if y.fresh = some page && 4 ≤ y.again then failXfer y (some (page * 4096)) s
      else modXfer id (fun y => { y with fresh := fresh, stuck := if y.stuck.isSome then y.stuck else some (page, write) }) s
    | .denied => failXfer y (some (page * 4096)) s

/-- A ring of firmware's stops when a write of it fails translation; a record of source 0x49 says so (R423, R434). -/
def ringStopped (telem : Bool) (va : Nat) (s : State) : State :=
  match (if telem then s.rook.telem.map TelemRing.ctx else s.rook.fring.map FaultRing.ctx) with
  | none => s
  | some ctx =>
    let s := detect 8 (report 0x49 (some ctx) locRook (some va) (if telem then 1 else 0)) s
    { s with rook := if telem then { s.rook with telem := none } else { s.rook with fring := none } }

/-- Where a write of a firmware ring goes, if its translation is at hand; else it is asked for, or the ring stops. -/
def ringWrite (telem : Bool) (ctx va : Nat) (s : State) (f : Nat → State) : State :=
  let g := (s.fe.ctxOf ctx).gen
  match xlat s ctx g va true with
  | .pa a => if physOk s a 64 then f a else ringStopped telem va s
  | .denied => ringStopped telem va s
  | .miss nw => askXlat ctx g va nw (.mgmt telem) 0 s

/-- Address of the telemetry record under way: slot SEQ mod 2^LOG2N. -/
def telemAddr (s : State) (r : TelemRing) : Nat := r.base + 256 * ((s.rook.counts.seq + 1).toNat % 2 ^ r.log2n)

/-- Writes of the telemetry record (R423): lines 1 to 3, and line 0 after the host has observed them; SEQ counts the records written
(R424). -/
def telemPump (s : State) : State :=
  match s.rook.telem with
  | none => s
  | some r =>
    let a := telemAddr s r
    let put (p : Option Nat) (s : State) : State := { s with rook := { s.rook with telem := some { r with part := p } } }
    match r.part with
    | none => s
    | some n =>
      if s.flt.safe || quiesced s || whoOut s (.ring true) then s
      else if n = 0 then
        ringWrite true r.ctx a s fun pa =>
          put (some 3) (writePhys (.ring true) none (pa + 64) (slice s.rook.latest 64 192) s)
      else
        ringWrite true r.ctx a s fun pa =>
          let s := put none (writePhys (.ring true) none pa (slice s.rook.latest 0 64) s)
          { s with rook := { s.rook with counts := { s.rook.counts with seq := s.rook.counts.seq + 1 } } }

def xlated (r : XlatReq) (x : Xlated) (s : State) : State :=
  match r.who with
  | .cmd id => cmdXlated id r.va x s
  | .group l t g store => groupXlated l t g store r.va r.pc x s
  | .xfer id => xferXlated id r.page (!r.noWrite) x s
  | .ring sq => if x = .ok then s else ringFailed sq r.va s
  | .cq q => if x = .ok then s else cqFailed q r.va s
  | .mgmt telem => if x = .ok then (if telem then telemPump s else s) else ringStopped telem r.va s
  | .prefetch => s

def dropReq (id : Nat) (s : State) : State :=
  { s with atc := { s.atc with reqs := s.atc.reqs.filter fun r => r.id ≠ id } }

/-- The request was made in the present generation of its context. -/
def XlatReq.current (r : XlatReq) (s : State) : Bool := r.gen = (s.fe.ctxOf r.ctx).gen

def translationCompletionE (req : Nat) (x : XlatResult) (s : State) : State :=
  match s.atc.reqs.find? fun r => r.id = req with
  | none => logAer .unexpectedCompletion s
  | some r =>
    let s := dropReq req s
    if !r.current s then s
    else
      let s := match x with
        | .success ppn rd wr n => { s with atc := s.atc.install r ppn rd wr n }
        | .denied => s
      xlated r (resultOf r x) s
/-- TRANSLATION_COMPLETION (R312, R314): a completion that no request waits for is discarded (R392). -/
def execTranslationCompletion (req : Nat) (r : XlatResult) (s : State) := live .hif s (translationCompletionE req r)

def translationTimeoutE (req : Nat) (s : State) : State :=
  match s.atc.reqs.find? fun r => r.id = req && s.hif.cto ≤ since s.devtime r.since with
  | none => s
  | some r =>
    let s := logAer .completionTimeout (dropReq req s)
    if r.current s then xlated r .denied s else s
/-- TRANSLATION_TIMEOUT (R392): treated as denied. -/
def execTranslationTimeout (req : Nat) (s : State) := live .hif s (translationTimeoutE req)

/-! ## Invalidations (R316) -/

def atsInvalidationRequestE (itag pasid page pages : Nat) (s : State) : State :=
  let hit (e : AtcEnt) : Bool := e.pasid = pasid && e.page < page + pages && page < e.page + 2 ^ e.log2
  let gone := s.atc.ents.filter hit
  { s with atc := { s.atc with
      ents := s.atc.ents.filter fun e => !hit e
      invs := s.atc.invs ++ [Inv.mk itag (gone.map fun e => (e.ppn, 2 ^ e.log2)).eraseDups] } }
/-- ATS_INVALIDATION_REQUEST (R316). -/
def execAtsInvalidationRequest (itag pasid page pages : Nat) (s : State) :=
  live .hif s (atsInvalidationRequestE itag pasid page pages)

/-- Host page of a line, when it is one of host memory. -/
def linePage (line : Nat) : Option Nat := if isHostLine line then some ((line - hostLine) / 32) else none

/-- Some access to one of the pages is still to be issued, or a write of it observed. -/
def pagesBusy (s : State) (ppns : List (Nat × Nat)) : Bool :=
  let page (p : Nat) : Bool := ppns.any fun r => r.1 ≤ p && p < r.1 + r.2
  let hit (line : Nat) : Bool := (linePage line).any page
  s.dc.writes.any (fun w => hit w.line)
  || s.dc.slices.any (fun e => e.2.txns.any fun t => hit t.line)
  || s.hif.held.any (fun r => page (r.pa / 4096))
  || s.hif.d2h.any (fun r => page (r.pa / 4096) && r.bytes ≠ [])
  || s.simt.cores.any fun e => e.2.sb.any (fun x => hit x.line) || e.2.miss.any fun m => hit m.line

def invalidationCompletionE (itag : Nat) (s : State) : State :=
  match s.atc.invs.find? fun i => i.itag = itag with
  | none => s
  | some i =>
    if pagesBusy s i.ppns then s
    else emitMem (.invalidationCompletion itag) { s with atc := { s.atc with invs := s.atc.invs.filter fun x => x.itag ≠ itag } }
/-- INVALIDATION_COMPLETION (R316). -/
def execInvalidationCompletion (itag : Nat) (s : State) := live .hif s (invalidationCompletionE itag)

end Sys2Proof.Machine
end

