-- ==== Sys2Proof/Machine/Ports.lean ====
section
/-! DEFINITION. Events of the memory ports (R301 to R309): credits, responses, training (R296, R300, R307), lost ports (R306),
and patrol scrub (R310, R311). -/

namespace Sys2Proof.Machine

def portDom (p : Nat) : Dom := .part (partOfPort p)

/-- A partition's near port, or a far port, is present in the memory map. -/
def MemMap.present (m : MemMap) (p : Nat) : Bool := if p < 128 then m.npres.getLsbD (p / 16) else m.fpres.getLsbD (p - 128)

/-- What waited for the writes of a requester goes on. -/
def settleWho (who : Requester) (s : State) : State :=
  match who with
  | .core c _ => settleCore c s
  | .record _ => settleTags s
  | .tagLine _ => settleTags s
  | .ring true => telemPump s
  | _ => s

/-- PORT_CREDIT (R301, R490). -/
def execPortCredit (port : Nat) (s : State) :=
  live (portDom port) s fun s => pump port (modPort port (fun q => { q with credits := q.credits + 1 }) s)

/-! ## Read data (R302, R305, R309) -/

/-- Device line of a port line that no device address reaches (R294). -/
def noLine : Nat := 2 ^ 50

def statusOf (l : List SectorStatus) (k : Nat) : SectorStatus := l.getD k .ok
def isBadStatus (x : SectorStatus) : Bool := x = .ue || x = .poison

/-- Sectors of a read that reach their requester as poison. -/
def badSectors (r : PReq) (l : List SectorStatus) : BitVec 4 :=
  BitVec.ofNat 4 (((List.range 4).filter fun k => r.smask.getLsbD k && (isBadStatus (statusOf l k) || r.snapBad.getLsbD k)).foldl
    (fun a k => a + 2 ^ k) 0)

/-- A line fetched by a prefetch, or halves of a host line, enter the side buffer of its slice, of 64 entries; nothing that is poisoned
does (R271). -/
def toSide (k line : Nat) (halves : BitVec 2) (data : Bytes) (bad : BitVec 4) (s : State) : State :=
  modSlice k (fun sl =>
    let e : SideEnt := match sl.side.find? fun e => e.line = line with
      | none => { line := line, data := data, placed := s.devtime, halves := halves }
      | some e => { e with
          data := (List.range 128).map fun i => if halves.getLsbD (i / 64) then data.getD i 0 else e.data.getD i 0
          halves := e.halves ||| halves }
    let l := sl.side.filter fun e => e.line ≠ line
    let l := if 64 ≤ l.length then l.drop 1 else l
    { sl with
      pfills := if bad ≠ 0 || e.halves = 3 then sl.pfills.filter (· ≠ line) else sl.pfills
      side := if bad = 0 && (sl.find line).isNone then l ++ [e] else l }) s

/-- Data of a read goes to its requester. -/
def answerRead (r : PReq) (bad : BitVec 4) (s : State) : State :=
  match r.who with
  | .fill =>
    let ks := (s.dc.slices.filter fun e => e.2.fills.contains r.dline).map Prod.fst
    if ks ≠ [] then
      ks.foldl (fun s k =>
        modSlice k (fun sl => { sl with pfills := sl.pfills.filter (· ≠ r.dline) }) (installFill k r.dline r.smask r.snap bad s)) s
    else
      ((s.dc.slices.filter fun e => e.2.pfills.contains r.dline).map Prod.fst).foldl (fun s k => toSide k r.dline 3 r.snap bad s) s
  | .hostRead hpa => emit (.memData hpa (slice r.snap (hpa % 128 / 64 * 64) 64) (bad >>> (hpa % 128 / 64 * 2) &&& 3 ≠ 0)) s
  | _ => s

/-- A read of the host is answered in the order of the requests to its address (R377). DEDUCED, log 39. -/
def inHostOrder (q : Port) (r : PReq) : Bool :=
  match r.who with
  | .hostRead hpa => (q.sent.find? fun x => x.who = .hostRead hpa || x.who = .hostWrite hpa) = some r
  | .hostWrite hpa => (q.sent.find? fun x => x.who = .hostRead hpa || x.who = .hostWrite hpa) = some r
  | _ => true

/-- Records of a sector (R305, R510), and the conditional write that follows (R309, R311). -/
def sectorEvent (p : Nat) (r : PReq) (x : SectorStatus) (k : Nat) (s : State) : State :=
  let info := if r.dline = noLine then 0 else r.dline * 128 + 32 * k + 2 ^ 63
  let rep (src : Nat) : Report := report src none (locPort p) (some (r.pline * 128 + 32 * k)) info
  let m : BitVec 4 := BitVec.ofNat 4 (2 ^ k)
  let w : PReq := { op := .wr, pline := r.pline, dline := r.dline, smask := m, who := .scrub, cond := true }
  let send (w : PReq) (s : State) : State := if r.stale &&& m = 0 then portEnqueue p w s else s
  match x with
  | .corr => send { w with bytes := placed (r.dline * 128 + 32 * k) (slice r.snap (32 * k) 32) } (detect (partOfPort p) (rep 0x38) s)
  | .ue =>
    let s := detect (partOfPort p) (rep 0x39) s
    if r.op = .scr then send { w with poison := m } s else s
  | _ => s

def portReadDataE (p tag : Nat) (st : List SectorStatus) (s : State) : State :=
  let q := portAt s.ports p
  match q.sent.find? fun r => isRead r && r.tag = tag with
  | none => s
  | some r =>
    if !inHostOrder q r then s
    else
      let full : Bool := 65536 ≤ allReads s.ports
      let s := modPort p (fun q => { q with sent := dropFirst (fun x => decide (x = r)) q.sent }) s
      let s := answerRead r (badSectors r st) (countPort p (maskBytes r.smask) s)
      let s := ((List.range 4).filter fun k => r.smask.getLsbD k).foldl (fun s k => sectorEvent p r (statusOf st k) k s) s
      pumpFreed full p s
/-- PORT_READ_DATA (R302, R305). -/
def execPortReadData (port tag : Nat) (status : List SectorStatus) (s : State) :=
  live (portDom port) s (portReadDataE port tag status)

/-! ## Acknowledgements -/

def portWriteAckE (p tag : Nat) (s : State) : State :=
  let q := portAt s.ports p
  match q.sent.find? fun r => r.op = .wr && r.tag = tag with
  | none => s
  | some r =>
    if !inHostOrder q r then s
    else
      let s := modPort p (fun q => { q with sent := dropFirst (fun x => decide (x = r)) q.sent }) s
      let s := match r.who with
        | .hostWrite hpa => emit (.memCmp hpa) s
        | w => settleWho w s
      pump p s
/-- PORT_WRITE_ACK (R302). -/
def execPortWriteAck (port tag : Nat) (s : State) := live (portDom port) s (portWriteAckE port tag)

def portCtlAck (p : Nat) (op : POp) (refresh : Bool) (s : State) : State :=
  if (portAt s.ports p).sent.any fun r => r.op = op then
    pump p (modPort p (fun q => { q with sent := q.sent.filter (fun r => r.op ≠ op), selfRefresh := refresh }) s)
  else s
/-- PORT_SRE_ACK (R302). -/
def execPortSreAck (port : Nat) (s : State) := live (portDom port) s (portCtlAck port .sre true)
/-- PORT_SRX_ACK (R302). -/
def execPortSrxAck (port : Nat) (s : State) := live (portDom port) s (portCtlAck port .srx false)

/-! ## Ports that answer nothing (R306, R307) -/

/-- A request is answered within the block: a read as poison, a write as lost. -/
def answerDead (p : Nat) (s : State) (r : PReq) : State :=
  if isRead r then
    match r.who with
    | .fill =>
      let f (e : Nat × Slice) : Nat × Slice :=
        (e.1, { e.2 with fills := e.2.fills.filter (· ≠ r.dline), pfills := e.2.pfills.filter (· ≠ r.dline) })
      { s with dc := { s.dc with slices := s.dc.slices.map f } }
    | _ => answerRead { r with snap := List.replicate 128 0 } 0xF s
  else if r.op = .wr then settleWho r.who (loseWrite p r.who s)
  else s

/-- Everything a port has or waits for is answered within the block. -/
def answerAll (p : Nat) (s : State) : State :=
  let q := portAt s.ports p
  let full : Bool := 65536 ≤ allReads s.ports
  let s := modPort p (fun q => { q with queue := [], sent := [] }) s
  pumpFreed full p ((q.sent ++ q.queue).foldl (fun s r => answerDead p s r) s)

/-- OP of a request (R301). -/
def opCode : POp → Nat
  | .rd => 0
  | .wr => 1
  | .scr => 2
  | .sre => 3
  | .srx => 4
  | .trn _ => 5

/-- Time after which a request unanswered loses its port, in nanoseconds (R306). -/
def lossLimit : POp → Option Nat
  | .rd => some 100000
  | .wr => some 100000
  | .scr => some 100000
  | .sre => some 1000000000
  | .srx => some 1000000000
  | .trn keep => if keep then some 500000000 else none

def overdue (now : W64) (r : PReq) : Bool := match lossLimit r.op with
  | some n => n ≤ since now r.since
  | none => false

def portLostE (p : Nat) (s : State) : State :=
  let q := portAt s.ports p
  match q.sent.find? (overdue s.devtime), q.lost with
  | some _, false =>
    let r := q.sent.headD { op := .rd }
    let info := opCode r.op + r.tag * 2 ^ 3 + r.pline * 2 ^ 32
    let s := detect (partOfPort p) { report 0x3A none (locPort p) none info with owner := some (lossKey p) } s
    answerAll p (modPort p (fun q => { q with lost := true }) s)
  | _, _ => s
/-- PORT_LOST (R306). -/
def execPortLost (port : Nat) (s : State) := live (portDom port) s (portLostE port)

/-! ## Training (R296, R300, R302, R307) -/

/-- A tier serves no request until `PORST_N` (R307). -/
def loseTier (near : Bool) (s : State) : State :=
  let s := { s with mem := if near then { s.mem with nearBad := true } else { s.mem with farBad := true } }
  (List.range 144).foldl (fun s p => if decide (p < 128) = near then answerAll p s else s) s

/-- A port retrained with KEEP = 1 reports what it did not before. -/
def mismatch (m : MemMap) (p cap : Nat) : Bool := decide (0 < cap) != m.present p || cap ≠ fget 0 m.capTrained p

def portReadyE (p cap : Nat) (s : State) : State :=
  let q := portAt s.ports p
  match q.sent.findSome? fun r => match r.op with
    | .trn keep => some keep
    | _ => none with
  | none => s
  | some keep =>
    let trained (q : Port) : Port :=
      { q with sent := q.sent.filter fun r => r.op ≠ .trn keep && r.op ≠ .sre, selfRefresh := false, ready := true, lost := false, cap := cap }
    let s := modPort p trained s
    if !keep then pump p { s with mem := { s.mem with capTrained := fset 0 s.mem.capTrained p cap } }
    else if mismatch s.mem p cap then
      let k := if p < 128 then p % 16 else p - 128
      let info := 2 ^ k + fget 0 s.mem.capTrained p * 2 ^ 16 + cap * 2 ^ 32 + 2 ^ 48
      loseTier (decide (p < 128))
        (detect (partOfPort p) { report 0x3B none (locPort p) none info with owner := some (tierKey p) } s)
    else pump p s
/-- PORT_READY (R302, R307). -/
def execPortReady (port cap : Nat) (s : State) := live (portDom port) s (portReadyE port cap)

/-- Capacities that the 16 near ports of a partition reported; none for a port not ready. -/
def nearCaps (s : State) (p : Nat) : List (Option Nat) :=
  (List.range 16).map fun k => let q := portAt s.ports (16 * p + k); if q.ready then some q.cap else none

def minOf (l : List Nat) : Nat := l.foldl min (l.headD 0)
def maxOf (l : List Nat) : Nat := l.foldl max 0

/-- The partition's ports are of one capacity. -/
def nearOk (l : List (Option Nat)) : Bool := l.all fun c => c.isSome && c = l.headD none

/-- Record of a partition left out (R300, R510). -/
def nearReport (p : Nat) (l : List (Option Nat)) : Report :=
  let caps := l.filterMap id
  let bad := (List.range 16).filter fun k => l.getD k none ≠ some (minOf caps)
  report 0x3B none (locPart p) none (bad.foldl (fun a k => a + 2 ^ k) 0 + minOf caps * 2 ^ 16 + maxOf caps * 2 ^ 32)

/-- What training found enters the memory map. -/
def mapMemory (s : State) : State :=
  let parts := (List.range 8).filter fun p => nearOk (nearCaps s p) && (nearCaps s p).headD none ≠ some 0
  let fars := (List.range 16).filter fun n => let q := portAt s.ports (128 + n); q.ready && 0 < q.cap
  let bits_ (l : List Nat) : Nat := l.foldl (fun a k => a + 2 ^ k) 0
  let ncap := minOf (parts.map fun p => ((nearCaps s p).headD none).getD 0)
  let fcap := minOf (fars.map fun n => (portAt s.ports (128 + n)).cap)
  let drop (e : Nat × Port) : Nat × Port := (e.1, { e.2 with sent := e.2.sent.filter fun r => r.op ≠ .trn false })
  let ill := (List.range 8).filter fun p => !nearOk (nearCaps s p) && (nearCaps s p).any fun c => c.isSome
  let s := { s with
    mem := { s.mem with
      mapped := true, npres := BitVec.ofNat 8 (bits_ parts), ncap := BitVec.ofNat 7 ncap
      fpres := BitVec.ofNat 16 (bits_ fars), fcap := BitVec.ofNat 9 fcap }
    ports := s.ports.map drop }
  ill.foldl (fun s p => detect p (nearReport p (nearCaps s p)) s) s

/-- PORT_ABSENT (R307, R296, R300): 650 ms after `PORST_N`. -/
def execPortAbsent (s : State) :=
  live .aon s fun s => if 650000000 ≤ since s.devtime s.pwr.bootAt && !s.mem.mapped then mapMemory s else s

/-! ## Patrol scrub (R310, R311) -/

/-- Lines of a port's capacity. -/
def portLines (p cap : Nat) : Nat := if p < 128 then cap * 2 ^ 19 else cap * 2 ^ 23

def scrubReadE (p : Nat) (s : State) : State :=
  let q := portAt s.ports p
  let n := portLines p q.cap
  if !bit (rget s 0xB0020) 31 || !s.mem.present p || q.selfRefresh || (q.queue ++ q.sent).any isCtl || portDead s.mem s.ports p
      || n = 0 then s
  else
    let line := q.scrubLine % n
    let f (q : Port) : Port :=
      { q with scrubLine := (line + 1) % n, passes := if line + 1 = n then q.passes + 1 else q.passes }
    let d : Nat := match s.mem.deviceLine p line with
      | some d => if s.mem.port (d * 128) = some (p, line) then d else noLine
      | none => noLine
    portEnqueue p { op := .scr, pline := line, dline := d, smask := 0xF, who := .scrub }
      (modPort p f s)
/-- SCRUB_READ (R311). -/
def execScrubRead (port : Nat) (s : State) := live (portDom port) s (scrubReadE port)

/-- Full passes completed by every present port (R310). -/
def scrubPasses (s : State) : Nat := minOf (((List.range 144).filter s.mem.present).map fun p => (portAt s.ports p).passes)

end Sys2Proof.Machine
end

