-- ==== Sys2Proof/Machine/HostLink.lean ====
section
/-! DEFINITION. The host endpoint (R365 to R399): host snoops and D2H responses (R378 to R381), CXL.mem (R376, R377),
configuration requests (R370 to R372), interrupts (R382 to R385), link power (R387, R388) and link-up (R366). Link-down, FLR and
D3hot are with the resets. -/

namespace Sys2Proof.Machine

/-! ## Host snoops (R289, R380) -/

/-- A host snoop: L1 copies are recalled first; while the line has a transaction the snoop waits. Nothing is held in the safe
state (R444) or in a stopped partition (R474). -/
def hostSnoopE (op : Snp) (pa : Nat) (s : State) : State :=
  let line := hostLine + pa / 128
  let k := lineHome line
  if !s.hif.linkUp then s
  else if s.flt.safe || s.pwr.pllOff.getLsbD (partOfSlice k) then emit (.h2dData pa none false) s
  else if (txnOn s line).isSome then s
  else
    let os := others s line noCopy
    if os = [] then answerHost op pa s else startTxn line (.hostSnoop op pa) (decide (op = .inv)) os s
/-- SNP_DATA (R380). -/
def execSnpData (pa : Nat) (s : State) := live .hif s (hostSnoopE .data pa)
/-- SNP_INV (R380). -/
def execSnpInv (pa : Nat) (s : State) := live .hif s (hostSnoopE .inv pa)
/-- SNP_CUR (R380). -/
def execSnpCur (pa : Nat) (s : State) := live .hif s (hostSnoopE .cur pa)

/-! ## D2H requests (R372, R379, R381) -/

/-- A request of the telemetry drain, the one background activity of the link (R38). -/
def isTelem (r : D2h) : Bool := r.who = .ring true

/-- The held request that goes next (R37): the drain's, once it is owed 1 slot in 1,024; else the oldest of the others, the drain's among
them after 1 ms; else the drain's. -/
def pickHeld (s : State) : Option D2h :=
  let held := s.hif.held.filter (hostOpen s)
  match if 1023 ≤ s.hif.gapTelem then held.find? isTelem else none with
  | some r => some r
  | none => match held.find? fun r => !isTelem r || 1000000 < since s.devtime r.since with
    | some r => some r
    | none => held.head?

/-- Held requests go out as far as R372, R380 and R397 allow. -/
def pumpHeld : Nat → State → State
  | 0, s => s
  | n + 1, s =>
    match pickHeld s with
    | none => s
    | some r =>
      let x := { r with since := s.devtime }
      let gap := if isTelem r then 0 else if s.hif.held.any isTelem then s.hif.gapTelem + 1 else 0
      pumpHeld n (emit (.d2hReq x) { s with hif := { s.hif with
        held := dropFirst (fun y => decide (y = r)) s.hif.held, d2h := s.hif.d2h ++ [x], gapTelem := gap } })

/-- Everything held goes out. -/
def releaseHeld (s : State) : State :=
  if s.hif.bme && secure s 0 && !s.flt.safe then
    let l := s.hif.heldOut
    let s := { s with hif := { s.hif with heldOut := [] } }
    let s := l.foldl (fun s o => emit o s) s
    pumpHeld (s.hif.held.length + 1) s
  else pumpHeld (s.hif.held.length + 1) s

/-- A half granted by the host enters the slice (R379, R289), or its side buffer when a prefetch asked for it (R271); where no way can
take it, it goes back. -/
def fillHalf (pa : Nat) (data : Bytes) (grant : HostState) (s : State) : State :=
  let line := hostLine + pa / 128
  let k := lineHome line
  let h := pa / 64 % 2
  let both := (List.range 128).map fun i => if i / 64 = h then data.getD (i % 64) 0 else 0
  if grant = .I then s
  else if (s.dc.slice k).pfills.contains line then toSide k line (BitVec.ofNat 2 (h + 1)) both 0 s
  else match allocLine k line s with
    | (s, none) => evictHalf { newLine 0 0 line with data := both } h grant s
    | (s, some l) =>
      let l' : DcLine := { l with
        data := (List.range 128).map fun i => if i / 64 = h then data.getD (i % 64) 0 else l.data.getD i 0
        bv := l.bv ||| halfMask h
        h0 := if h = 0 then grant else l.h0
        h1 := if h = 1 then grant else l.h1 }
      modSlice k (fun sl => sl.put l') s

def dropD2h (tag : Nat) (s : State) : State :=
  { s with hif := { s.hif with d2h := s.hif.d2h.filter fun r => r.tag ≠ tag } }

def d2hResponseE (tag : Nat) (data : Bytes) (grant : HostState) (s : State) : State :=
  match s.hif.d2h.find? fun r => r.tag = tag with
  | none => s
  | some r =>
    let s := dropD2h tag s
    let s := match r.op with
      | .rdShared => fillHalf r.pa data grant s
      | .rdOwn => fillHalf r.pa data grant s
      | .itoMWr => settleWho r.who s
      | .woWrInv => settleWho r.who s
      | _ => s
    pumpHeld (s.hif.held.length + 1) s
/-- D2H_RESPONSE (R379). -/
def execD2hResponse (tag : Nat) (data : Bytes) (grant : HostState) (s : State) := live .hif s (d2hResponseE tag data grant)

/-- Opcode of a D2H request as CXL encodes it (PRESUMED, log 27). -/
def d2hCode : D2hOp → Nat
  | .rdCurr => 1
  | .rdOwn => 2
  | .rdShared => 3
  | .itoMWr => 6
  | .dirtyEvict => 10
  | .cleanEvict => 11
  | .woWrInv => 12

/-- A failed read reaches the cores that wait for the line, and the atomics at its home, as poison (R381); a prefetch of it is given up. -/
def poisonMiss (line : Nat) (s : State) : State :=
  let g : Got := { line := line, sm := 0xF, data := List.replicate 128 0, poison := 0xF }
  let f (e : Nat × Core) : Nat × Core :=
    if e.2.miss.any fun m => m.line = line then
      (e.1, { e.2 with miss := e.2.miss.filter (fun m => m.line ≠ line), ret := addGot g e.2.ret })
    else e
  let atom : Bool := s.simt.launches.any fun l => l.teams.any fun t => t.groups.any fun g => g.atoms.contains (line, true)
  let s := dropSide (lineHome line) line s
  { s with
    simt := { s.simt with cores := s.simt.cores.map f }
    dc := { s.dc with got := if atom then addGot g s.dc.got else s.dc.got } }

/-- A command of which a request failed ends with FAULTED and the SEQ of the record that command `rep` owns. -/
def failFor (rep id : Nat) (s : State) : State :=
  let f (c : Cmd) : Cmd := { c with waitsReport := true, repOf := rep, status := if c.status = 0 then 0x20 else c.status }
  modCmd id f s

/-- The command that issued a request ends, with its launch and the launch's work items. -/
def failOwner (id : Nat) (s : State) : State :=
  match s.simt.launches.find? fun x => x.cmd = id && x.ending.isNone with
  | none => failFor id id s
  | some x => (id :: x.items.map Item.cmd).foldl (fun s i => failFor id i s) (modLaunch x.id (fun y => { y with ending := some 0x20 }) s)

def d2hTimeoutE (tag : Nat) (s : State) : State :=
  match s.hif.d2h.find? fun r => r.tag = tag && 50000000 ≤ since s.devtime r.since with
  | none => s
  | some r =>
    let own := reqOwner s r.who
    let s := detect 8 { report 0x41 none locHif (some r.pa) (d2hCode r.op) with owner := own } (dropD2h tag s)
    let s := match own with
      | some id => failOwner id s
      | none => s
    let s := match r.op with
      | .rdShared => poisonMiss (hostLine + r.pa / 128) s
      | .rdOwn => poisonMiss (hostLine + r.pa / 128) s
      | _ => s
    let s := match r.who with
      | .record id => { s with fe := failRecord id s.fe }
      | .tagLine id => { s with fe := failRecord id s.fe }
      | _ => s
    pumpHeld (s.hif.held.length + 1) (settleWho r.who s)
/-- D2H_TIMEOUT (R381). -/
def execD2hTimeout (tag : Nat) (s : State) := live .hif s (d2hTimeoutE tag)

/-! ## CXL.mem (R255, R377, R444) -/

/-- The 64 bytes of a host physical address. -/
def lineOf64 (hpa : Nat) : Nat := hpa / 64 * 64

/-- Bytes that nothing states, returned with poison. -/
def freeMem (s : State) (n : Nat) : Bytes := (List.range n).map fun i => Config.freeBits 8 (s.freeCtr + i)

/-- An address in no committed decoder (R377). -/
def undecoded (hpa : Nat) (s : State) : State := detect 8 (report 0x40 none locHif (some hpa) 0) s

def memRdE (hpa : Nat) (s : State) : State :=
  if !s.hif.linkUp then s
  else if s.flt.safe then { emit (.memData hpa (freeMem s 64) true) s with freeCtr := s.freeCtr + 64 }
  else match hvdmOf s (lineOf64 hpa) with
    | none => emit (.memData hpa (List.replicate 64 0xFF#8) true) (undecoded hpa s)
    | some a => match s.mem.port a with
      | none => emit (.memData hpa (List.replicate 64 0xFF#8) true) s
      | some (p, line) =>
        if portDead s.mem s.ports p || quiesced s then { emit (.memData hpa (freeMem s 64) true) s with freeCtr := s.freeCtr + 64 }
        else portEnqueue p { op := .rd, pline := line, dline := a / 128, smask := if a / 64 % 2 = 0 then 3 else 12, crit := if a / 64 % 2 = 0 then 0 else 2,
                             who := .hostRead (lineOf64 hpa) } s
/-- MEM_RD (R377). -/
def execMemRd (hpa : Nat) (s : State) := live .hif s (memRdE hpa)
/-- MEM_RD_DATA (R377). -/
def execMemRdData (hpa : Nat) (s : State) := live .hif s fun s => memRdE hpa s

def memWrE (hpa : Nat) (bytes : List (Nat × Byte)) (poison : Bool) (s : State) : State :=
  if !s.hif.linkUp then s
  else if s.flt.safe then emit (.memCmp hpa) s
  else match hvdmOf s (lineOf64 hpa) with
    | none => emit (.memCmp hpa) (undecoded hpa s)
    | some a =>
      let bs := bytes.map fun b => (a + b.1, b.2)
      let m := BitVec.ofNat 4 (((List.range 4).filter fun k => bs.any fun b => b.1 / 32 % 4 = k).foldl (fun x k => x + 2 ^ k) 0)
      if bs = [] || quiesced s then emit (.memCmp hpa) s
      else portWrite (.hostWrite (lineOf64 hpa)) (a / 128) bs (if poison then m else 0) (dropRet (a / 128) s)
/-- MEM_WR (R377). -/
def execMemWr (hpa : Nat) (data : Bytes) (poison : Bool) (s : State) :=
  live .hif s (memWrE hpa (placed 0 (slice data 0 64)) poison)
/-- MEM_WR_PTL (R377). -/
def execMemWrPtl (hpa : Nat) (data : Masked) (poison : Bool) (s : State) :=
  live .hif s (memWrE hpa (placedMasked 0 (data.take 64)) poison)
/-- MEM_SPEC_RD (R377): dropped. -/
def execMemSpecRd (_hpa : Nat) (s : State) := live .hif s fun s => s
/-- MEM_INV (R377): Cmp with no action. -/
def execMemInv (hpa : Nat) (s : State) := live .hif s fun s => if s.hif.linkUp then emit (.memCmp hpa) s else s
/-- MEM_INV_NT (R377): Cmp with no action. -/
def execMemInvNt (hpa : Nat) (s : State) := live .hif s fun s => if s.hif.linkUp then emit (.memCmp hpa) s else s

def hdmDecoderCommitE (k base size : Nat) (oneWay lawful : Bool) (s : State) : State :=
  let sz := hvdmSize s.mem k
  let ok : Bool := s.mem.lock && sz ≠ 0 && size = sz && oneWay && lawful
  if 2 ≤ k then s
  else
    let h : Hdm := if ok then { base := base, size := size, committed := true } else { base := base, size := size, error := true }
    { s with hif := { s.hif with hdm := fset {} s.hif.hdm k h } }
/-- HDM_DECODER_COMMIT (R376). -/
def execHdmDecoderCommit (k base size : Nat) (oneWay lawful : Bool) (s : State) :=
  live .hif s (hdmDecoderCommitE k base size oneWay lawful)

/-! ## Interrupts (R383, R385) -/

/-- A pending vector no longer masked sends its message and leaves the PBA. -/
def unmaskVec (v : Nat) (s : State) : State :=
  if fget false s.hif.pba v && !vecMasked s.hif v && s.hif.msixEn then
    emitMem (.msix v) { s with hif := { s.hif with pba := fset false s.hif.pba v false } }
  else s

def msixUnmaskE (v : Nat) (s : State) : State :=
  if 4096 ≤ v then s else unmaskVec v { s with hif := { s.hif with unmasked := fset false s.hif.unmasked v true } }
/-- MSIX_UNMASK (R383). -/
def execMsixUnmask (vec : Nat) (s : State) := live .hif s (msixUnmaskE vec)

def hifIntxPendClearE (v : W32) (s : State) : State :=
  if bit v 0 then deassertIntx { s with hif := { s.hif with intxPend := false } } else s
/-- HIF_INTX_PEND_CLEAR (R385). -/
def execHifIntxPendClear (v : W32) (be : BitVec 4) (s : State) := ctlWrite 0xE0004 be s (hifIntxPendClearE v)

def setBme (on : Bool) (s : State) : State :=
  let s := { s with hif := { s.hif with bme := on } }
  if on then releaseHeld s else s
/-- BUS_MASTER_ENABLE_SET (R372): held requests are issued. -/
def execBusMasterEnableSet (s : State) := live .hif s fun s => if s.hif.cfgReady && !s.hif.flr then setBme true s else s

/-! ## Configuration (R370 to R372, R383, R385, R387, R388) -/

/-- The identification fields: Vendor, Device, Subsystem Vendor, Subsystem, Revision (R370). -/
def idField (h : Hif) (i : Nat) : Nat := h.ids.getD i (if i = 0 then 0xFFFE else 0)

/-- A configuration register at its PCI offset, as far as the spec gives its value (PRESUMED, log 28). -/
def cfgReg (s : State) (reg : Nat) : Option Nat :=
  let h := s.hif
  match reg with
  | 0x00 => some (idField h 0 + idField h 1 * 2 ^ 16)
  | 0x04 => some ((if h.mse then 2 else 0) + (if h.bme then 4 else 0) + (if h.intxDis then 2 ^ 10 else 0)
      + (if h.intxAsserted then 2 ^ 19 else 0) + 2 ^ 20)
  | 0x08 => some (idField h 4 + Config.classCode.toNat * 2 ^ 8)
  | 0x2C => some (idField h 2 + idField h 3 * 2 ^ 16)
  | 0x3C => some 0x100
  | _ => none

def cfgRead (reg : Nat) (s : State) : State :=
  match cfgReg s reg with
  | some v => emit (.cfgData reg v) s
  | none => useFree (emit (.cfgData reg (freeVal 32 s).toNat) s)

/-- Writes of the MSI-X control: enabling ends INTx; unmasking the function sends what is pending. -/
def msixControl (en mask : Bool) (s : State) : State :=
  let s := { s with hif := { s.hif with msixEn := en, funcMask := mask } }
  let s := if en then deassertIntx s else s
  if en && !mask then (s.hif.pba.map Prod.fst).foldl (fun s v => unmaskVec v s) s else s

/-- An access to a link register goes on to the link controller (R371, R489). -/
def linkAccess (a : BitVec 12) (we : Bool) (v : W32) (s : State) : State :=
  if s.hif.csr.isSome then s else emit (.csr a we v) { s with hif := { s.hif with csr := some (a, we) } }

/-- HX_CSR_ACK (R371, R489): the access completes. -/
def execHxCsrAck (data : W32) (s : State) := live .hif s fun s =>
  match s.hif.csr with
  | none => s
  | some (a, we) =>
    let s := { s with hif := { s.hif with csr := none } }
    if we then s else emit (.cfgData a.toNat data.toNat) s

/-- HX_PM_STATE_CHANGE (R489). -/
def execHxPmStateChange (v : BitVec 2) (s : State) := live .hif s fun s =>
  if v = 3 then s else { s with hif := { s.hif with pmState := v } }

/-- CONFIG_READY (R398): 80 ms after the start of the host domain's timeline. -/
def execConfigReady (s : State) := live .hif s fun s =>
  if !s.hif.cfgLink && 80000000 ≤ since s.devtime s.hif.cfgFrom then { s with hif := { s.hif with cfgReady := true } } else s

/-! ## Link-up and link power (R366, R387, R388) -/

def linkUpE (fmt : BitVec 2) (s : State) : State :=
  if s.hif.linkHold || s.hif.linkUp then s
  else if fmt = 3 then { s with hif := { s.hif with linkHold := true } }
  else
    { s with hif := { s.hif with
        linkUp := true, fmt := fmt, cfgFrom := if s.hif.cfgLink then s.devtime else s.hif.cfgFrom, cfgLink := false } }
/-- LINK_UP (R366, R395, R489): format 0b11 leaves the link unused. -/
def execLinkUp (fmt : BitVec 2) (s : State) := live .hif s (linkUpE fmt)

/-- The conditions of R387 that the state shows. -/
def linkIdle (s : State) : Bool :=
  bit (rget s 0xE0000) 31 && s.hif.aspmL1 && s.atc.reqs = [] && s.hif.d2h = [] && s.fe.cmds = []
    && !s.ports.any fun e => (e.2.queue ++ e.2.sent).any fun r => match r.who with
      | .hostRead _ => true
      | .hostWrite _ => true
      | _ => false
/-- L1_IDLE_EXPIRY (R387). -/
def execL1IdleExpiry (s : State) := live .hif s fun s =>
  if linkIdle s && s.hif.linkUp then { s with hif := { s.hif with l1Req := true } } else s

def l0pWindowEndE (tx rx cap waiting : Nat) (s : State) : State :=
  if s.hif.fmt = 0 then s
  else if cap < 2 * tx || cap < 2 * rx || 16 < waiting then { s with hif := { s.hif with l0pReq := false } }
  else if bit (rget s 0xE0000) 30 && s.hif.l0pOn && 4 * tx < cap && 4 * rx < cap then { s with hif := { s.hif with l0pReq := true } }
  else s
/-- L0P_WINDOW_END (R388). -/
def execL0pWindowEnd (tx rx capacity waiting : Nat) (s : State) := live .hif s (l0pWindowEndE tx rx capacity waiting)

/-! ## IDE and DOE (R397) -/

def ideCheckFailE (stream : Nat) (s : State) : State :=
  let s := { s with hif := { s.hif with ideInsecure := fset false s.hif.ideInsecure stream true } }
  if stream < 3 then logAer .ideCheckFailed s else s
/-- IDE_CHECK_FAIL (R397): what failed is discarded. -/
def execIdeCheckFail (stream : Nat) (s : State) := live .hif s fun s => if stream < 4 then ideCheckFailE stream s else s

/-- DOE_REQUEST (R369, R397): the request goes to firmware, whose answer no rule gives. -/
def execDoeRequest (kind : DoeKind) (data : Bytes) (s : State) := live .hif s (emit (.doe kind data))

end Sys2Proof.Machine
end

