-- ==== Sys2Proof/Machine/Resets.lean ====
section
/-! DEFINITION. What the reset ladder (R452 to R461), the safe state (R443), the function level reset (R390, R391), link-down
(R395) and the loss of power do to the state. Every row of a sequence but its last is done at the trigger; RESET_COMPLETE and
FLR_COMPLETE do the last one (DESIGN CHOICE, log 30). -/

namespace Sys2Proof.Machine

/-! ## Launches and commands that a reset ends (R224, R442) -/

/-- Page request groups whose transfer is gone are abandoned (R318, R453). -/
def abandonPrgs (s : State) : State :=
  let f (g : Prg) : Prg := if s.mov.xfers.any (fun x => x.id = g.xfer) then g else { g with abandoned := true }
  { s with atc := { s.atc with prgs := s.atc.prgs.map f } }

/-- Launches at which `p` holds end; one that a fault has ended keeps that status (R442). -/
def stopLaunches (p : Launch → Bool) (st : Byte) (s : State) : State :=
  (s.simt.launches.filter p).foldl (fun s l => endLaunch l.id (l.ending.getD st) s) s

/-- Commands at which `p` holds end; one that a fault has ended keeps that status (R442). -/
def stopCommands (p : Cmd → Bool) (st : Byte) (s : State) : State :=
  (s.fe.cmds.filter p).foldl (fun s c => endCommand c.id (if c.status = 0 then st else c.status) s) s

/-- Commands count as completed though their records are not written (R343, R352). -/
def dropRecords (p : Cmd → Bool) (s : State) : State := (s.fe.cmds.filter p).foldl (fun s c => retire c s) s

/-! ## Context reset (R453, R454) -/

def dropCtxXlat (ctx : Nat) (s : State) : State :=
  { s with
    atc := { s.atc with ents := s.atc.ents.filter fun e => e.ctx ≠ ctx }
    fe := { s.fe with atg := s.fe.atg.filter fun e => e.1 / 8 ≠ ctx } }

def startRun (kind : ResetKind) (index : Nat) (asked fromSafe : Bool) (s : State) : State :=
  let r : ResetRun := { kind := kind, index := index, start := s.devtime, fromSafe := fromSafe, asked := asked }
  { s with rst := s.rst ++ [r] }

def contextResetE (ctx : Nat) (asked : Bool) (s : State) : State :=
  if s.flt.safe || (s.fe.ctxOf ctx).state ≠ 1#2 then s
  else
    let s := modCtx ctx (fun x => { x with state := 2 }) (startRun .context ctx asked false s)
    let s := stopLaunches (fun l => decide (l.ctx = ctx)) 0x21 s
    let s := stopCommands (fun c => decide (c.ctx = ctx)) 0x21 s
    dropCtxXlat ctx (abandonPrgs s)

def endRun (kind : ResetKind) (index : Nat) (s : State) : State :=
  { s with rst := s.rst.filter fun r => !(r.kind = kind && r.index = index) }

/-- A ready record of the context that finds its CQ full is discarded (R453). -/
def dropFull (ctx : Nat) (s : State) : State :=
  let full (c : Cmd) : Bool := c.ctx = ctx && c.phase = .ready && !c.waitsReport && (s.fe.cqOf c.cq).en && (s.fe.cqOf c.cq).full
  (s.fe.cmds.filter full).foldl (fun s c =>
    retire c (detect 8 (report 0x2B (some c.ctx) locFront none (cidOf c + c.cq * 2 ^ 32)) s)) s

/-- Last row of R453, once every command of the context has its status and no write of it is on its way (R249). Records that wait
(R343, R372) are written later, in the new generation. -/
def contextDone (ctx : Nat) (s : State) : State :=
  let s := dropFull ctx s
  if s.fe.cmds.any fun c => c.ctx = ctx && (c.phase ≠ .ready || writesOut s c.id) then s
  else
    let s := modCtx ctx (fun x => { x with state := 1, gen := x.gen + 1 }) (dropCtxXlat ctx s)
    let s := { s with fe := { s.fe with cmds := mapWhere (fun c => c.ctx = ctx) (fun c => { c with gen := (s.fe.ctxOf ctx).gen }) s.fe.cmds } }
    endRun .context ctx (rset (0x61000 + 4 * ctx) 0 s)

/-! ## Cluster reset (R455, R292) -/

/-- A core at its reset state; its L1 lines are reclaimed, and its stores that have not reached device level are lost (R249). -/
def resetCore (c : Nat) (s : State) : State :=
  let own (w : Requester) : Bool := match w with
    | .core d _ => d = c
    | _ => false
  let s := excuse c (reclaimL1 c (dropMerges own s))
  { s with simt := { s.simt with
      cores := fset {} s.simt.cores c {}
      streams := s.simt.streams.filter fun e => e.1 / 2 ≠ c } }

/-- The command has work in the gather cluster of partition p: a partial pool there, or a routine on its sequencers. -/
def gatherWorkIn (p : Nat) (c : Cmd) : Bool :=
  (match c.work with
   | .gather g => g.subs.any (fun x => x.1 = p && x.2 = .received) || (c.home = some p && g.subs.any fun x => x.2 ≠ .sent)
   | _ => false)
  || ((c.op = .seqPool || c.op = .move) && c.home = some p && (c.phase = .running || c.phase = .yielded))

def onCluster (k : Nat) (l : Launch) : Bool := l.teams.any fun t => t.core / 4 = k

/-- The rows of R455 but the last. -/
def clusterTear (k : Nat) (s : State) : State :=
  if k < 64 then
    let s := abandonPrgs (stopLaunches (onCluster k) 0x20 s)
    (List.range 4).foldl (fun s i => resetCore (4 * k + i) s) s
  else abandonPrgs (stopCommands (gatherWorkIn (k - 64)) 0x20 s)

def markAsked (kind : ResetKind) (index : Nat) (asked : Bool) (s : State) : State :=
  { s with rst := s.rst.map fun r => if r.kind = kind && r.index = index then { r with asked := r.asked || asked } else r }

/-- Merged with a reset of the cluster, its partition or the block that is in progress (R459). -/
def clusterResetE (k : Nat) (asked : Bool) (s : State) : State :=
  if s.flt.safe || 72 ≤ k then s
  else if clusterInReset s k then markAsked .cluster k asked s
  else clusterTear k (startRun .cluster k asked false s)

/-- The cluster's registers at their reset values (R455); a telemetry total then takes the whole of the new count (R424). -/
def clusterRegs (k : Nat) (s : State) : State :=
  if k < 64 then
    { rset (0xA3000 + 4 * k) 0xF#32 s with
      latch := fset 0 s.latch (0x90004 + 16 * k) 0
      simt := { s.simt with busy := fset 0 s.simt.busy k 0 }
      rook := { s.rook with counts := { s.rook.counts with prsSeen := fset 0 s.rook.counts.prsSeen k 0 } } }
  else s

/-! ## Partition reset (R456, R292) -/

/-- All staged rows of the slices are committed, those handed over first. -/
def commitAll (k : Nat → Bool) : Nat → State → State
  | 0, s => s
  | n + 1, s =>
    match ((List.range 64).filter k).findSome? fun i => (nextCommit s.upd i).map fun r => (i, r) with
    | some (i, r) => commitAll k n (commitStaged i r s)
    | none => s

/-- Staged rows of the slices are committed early (R134, R456); rows handed over before count as usual. -/
def commitSlices (k : Nat → Bool) (s : State) : State :=
  let s := rcount 0x80400 (s.upd.staging.filter fun r => k r.slice && r.ticket.isNone).length s
  let (n, st) := handOver (fun r => k r.slice && r.ticket.isNone) none s.upd.ticket s.upd.staging
  commitAll k (st.length + 1) { s with upd := { s.upd with staging := st, ticket := n } }

/-- Rows forwarded by the slices return home; their entries and marks go. -/
def returnRows (k : Nat → Bool) (s : State) : State :=
  let s := (s.mig.fwd.filter fun f => k (fwdSlice s f.table f.row)).foldl (fun s f =>
    if f.isForwarded && f.dirty then returnHome f s else dropFwd f s) s
  (s.mig.sticky.filter fun x => k (fwdSlice s x.table x.row)).foldl (fun s x => unmarkSticky x s) s

/-- A transaction that a slice gives up: the M data that it was given reaches the home; the write it holds waits again, a core's as its
oldest store; a host snoop is answered. -/
def giveUpTxn (s : State) (t : Txn) : State :=
  let s := match t.data with
    | some m => if m.st = .M then homeData (lineHome t.line) m s else s
    | none => s
  match t.kind with
  | .merge (.core _ _) _ _ => s
  | .merge who bytes tag => { s with dc := { s.dc with writes := { who := who, line := t.line, bytes := bytes, tag := tag } :: s.dc.writes } }
  | .hostSnoop op pa => answerHost op pa s
  | _ => s

/-- Copies of the slice's lines in L1s are recalled, its dirty sectors written back, and the slice emptied (R292). -/
def emptySlice (k : Nat) (s : State) : State :=
  let held := (s.dc.slice k).dir.map DirEnt.line
  let s := held.foldl (fun s line =>
    let s := match dirtyL1 s.simt.cores line with
      | some m => homeData k m s
      | none => s
    endLineResv line (dropCopies line s)) s
  let s := (s.dc.slice k).txns.foldl giveUpTxn (modSlice k (fun sl => { sl with txns := [] }) s)
  let s := (s.dc.slice k).lines.foldl (fun s l => evictLine k l s) s
  let s := modSlice k (fun sl => { sliceDef k with lfsr := sl.lfsr }) s
  { s with dc := { s.dc with
      scratch := s.dc.scratch.filter fun b => b.1 / 2 ^ 20 ≠ k
      scratchBad := s.dc.scratchBad.filter fun b => 8 * b.1 / 2 ^ 20 ≠ k } }

def presentPorts (m : MemMap) (p : Nat → Bool) : List Nat := (List.range 144).filter fun n => p n && m.present n

/-- SRE, then TRN with KEEP = 1 (R307). -/
def retrain (n : Nat) (s : State) : State :=
  let s := if (portAt s.ports n).selfRefresh then s else portEnqueue n { op := .sre } s
  portEnqueue n { op := .trn true } (modPort n (fun q => { q with ready := false }) s)

def inPart (p : Nat) (c : Cmd) : Bool := c.home = some p || gatherWorkIn p c

/-- The rows of R456 but the last. -/
def partitionTear (p : Nat) (s : State) : State :=
  let s := wakePart p s
  let s := (List.range 8).foldl (fun s i => clusterTear (8 * p + i) s) s
  let s := abandonPrgs (stopCommands (inPart p) 0x20 s)
  let mine (k : Nat) : Bool := decide (k / 8 = p)
  let s := commitSlices mine (returnRows mine s)
  let s := (List.range 8).foldl (fun s i => emptySlice (8 * p + i) s) s
  (presentPorts s.mem fun n => decide (partOfPort n = p)).foldl (fun s n => retrain n s) s

def partitionResetE (p : Nat) (asked : Bool) (s : State) : State :=
  if s.flt.safe || 8 ≤ p then s
  else if partInReset s p then markAsked .partition p asked s
  else partitionTear p (startRun .partition p asked false s)

/-- The cluster resets that a partition reset completes (R459). -/
def endInner (p : Nat) (s : State) : State :=
  { s with rst := s.rst.filter fun r => !(r.kind = .cluster && partOfCluster r.index = p) }

def partitionDone (p : Nat) (s : State) : State :=
  let s := { s with fe := { s.fe with caps := fset {} s.fe.caps p {} } }
  endRun .partition p (endInner p ((List.range 8).foldl (fun s i => clusterRegs (8 * p + i) s) s))

/-! ## Registers that the wider resets keep -/

/-- Retention registers, the memory map and scrub, `MGT_EVT`, `MGT_QCTL` and the collector's own (R435, R460). -/
def blockKeeps (off : Nat) : Bool :=
  (0x83000 ≤ off && off < 0x83020) || off = 0xB0020 || off = 0xF0008 || off = 0xF0010
    || (0x110000 ≤ off && off < 0x110100 && off ≠ 0x11001C)

/-- R391, R435, R406. DEDUCED, log 37. -/
def flrKeeps (off : Nat) : Bool :=
  (0x82020 ≤ off && off < 0x820C0) || (0x83000 ≤ off && off < 0x83020) || off = 0xB0020 || off = 0xF0010
    || (0x110000 ≤ off && off < 0x110100 && off ≠ 0x11001C)

def keepRegs (keep : Nat → Bool) (r : FMap W32) : FMap W32 := r.filter fun e => keep e.1

/-- Commands in progress at the mailboxes lose their answer (R410). -/
def Rook.orphan (r : Rook) : Rook :=
  let f (j : Job) : Job := match j.src with
    | .mailbox _ => { j with src := .gone }
    | _ => j
  { r with jobs := r.jobs.map f, payload := [] }

/-! ## Host lines and dirty data -/

def hostLines (s : State) : List (Nat × DcLine) :=
  (List.range 64).flatMap fun k => ((s.dc.slice k).lines.filter fun l => isHostLine l.line).map fun l => (k, l)

/-- Host halves leave by DirtyEvict and CleanEvictNoData (R379). -/
def evictHost (s : State) : State := (hostLines s).foldl (fun s x => evictLine x.1 x.2 s) s

/-- Host halves are discarded, dirty ones too, with the copies that L1s hold. -/
def dropHost (s : State) : State :=
  (hostLines s).foldl (fun s x => modSlice x.1 (fun sl => sl.drop x.2.line) (dropCopies x.2.line s)) s

/-! ## Block reset (R457) -/

/-- Every unit outside the AON and MGT domains at its reset state; memory, its map, retention, the collector and the Rook are
kept (R460). -/
def wipe (keep : Nat → Bool) (hif : Hif) (s : State) : State :=
  { State.reset with
    pending := s.pending
    freeCtr := s.freeCtr
    out := s.out
    devtime := s.devtime
    regs := keepRegs keep s.regs
    latch := keepRegs (fun off => decide (off = 0x120014)) s.latch
    ret := { s.ret with busy := false, list := none }
    dram := s.dram
    poison := s.poison
    mig := { State.reset.mig with epochAt := s.devtime }
    mem := s.mem
    ports := s.ports
    hif := hif
    rook := s.rook.orphan
    flt := s.flt
    pwr := { s.pwr with cluStop := [], pllOff := 0, step := 9, below := 0, idleFrom := [], samples := [], isOver := false, hot := false, noSens := false, temp := 0 }
    fe := { State.reset.fe with nextId := s.fe.nextId, stopped := true }
    mov := { State.reset.mov with next := s.mov.next }
    atc := { State.reset.atc with next := s.atc.next }
    simt := { State.reset.simt with nextLaunch := s.simt.nextLaunch } }

/-- The rows of R457 from "by 20" on, but the last; also the way out of the safe state (R445). -/
def blockTail (asked fromSafe : Bool) (s : State) : State :=
  let s := { s with rook := { s.rook with counts := {} } }
  let s := wipe blockKeeps { linkHold := false, ids := s.hif.ids, cfgFrom := s.devtime, nextTag := s.hif.nextTag } s
  let s := startRun .block 0 asked fromSafe s
  (presentPorts s.mem fun _ => true).foldl (fun s n =>
    portEnqueue n { op := .trn true } (modPort n (fun q => { q with ready := false }) s)) s

/-- No answer of any core is awaited any longer: every transaction ends. -/
def excuseAll (s : State) : State :=
  let cs := s.dc.slices.flatMap fun e => e.2.txns.flatMap fun t => t.snoops ++ t.answers
  cs.eraseDups.foldl (fun s c => excuse c s) s

/-- The L1s of every core are lost to the block's reset; their lines in M are poisoned at their homes (R292). -/
def loseL1s (s : State) : State := (s.simt.cores.map Prod.fst).foldl (fun s c => reclaimL1 c s) (excuseAll s)

/-- The steps of R166 from "by 0.05" on. -/
def retainSteps (reason : Option Nat) (s : State) : State :=
  let s := writeBackAll (returnAllHome (excuseAll s))
  selfRefreshAll (match reason with
    | some r => writeCatalogue r s.devtime s
    | none => s)

def blockResetE (asked : Bool) (s : State) : State :=
  if s.flt.safe then s
  else if resetting s .block 0 then markAsked .block 0 asked s
  else
    let s := loseL1s (discardCommands { s with fe := { s.fe with stopped := true } })
    let s := if s.rook.qstate = 1 then { s with rook := { s.rook with qstate := 2 } } else s
    let s := if s.hif.linkUp then evictHost s else dropHost s
    let s := if s.hif.linkUp then emit .linkDownSignal s else s
    let s := retainSteps (if s.pwr.retain then some 3 else none) { s with upd := {} }
    blockTail asked false s

/-- A port trains, or waits to. -/
def training (q : Port) : Bool := (q.queue ++ q.sent).any fun r => r.op = .trn true

def blockDone (s : State) : State :=
  if s.ports.any fun e => training e.2 then s
  else
    let safe := s.rst.any fun r => r.kind = .block && r.fromSafe
    let s := catalogueSelectE { s with fe := { s.fe with stopped := s.rook.qstate ≠ 0 } }
    let s := { s with rst := [] }
    if safe then { s with flt := { s.flt with safe := false, errn := false } } else s

/-! ## RST_* registers (R452) and RESET_COMPLETE -/

def rstCtxE (v : W32) (s : State) : State :=
  let s := rset 0x110100 (v &&& 0xFFF#32) s
  if bit v 31 then contextResetE (fld v 11 0) true s else s
/-- RST_CTX (R452, R453). -/
def execRstCtx (v : W32) (be : BitVec 4) (s : State) := ctlWrite 0x110100 be s (rstCtxE v)

/-- BUSY of a reset register. -/
def rstBusy (s : State) (kind : ResetKind) : Bool := s.rst.any fun r => r.kind = kind && r.asked

def rstCluE (v : W32) (s : State) : State :=
  let s := rset 0x110104 (v &&& 0x7F#32) s
  if bit v 31 && !rstBusy s .cluster then clusterResetE (fld v 6 0) true s else s
/-- RST_CLU (R452, R455). -/
def execRstClu (v : W32) (be : BitVec 4) (s : State) := ctlWrite 0x110104 be s (rstCluE v)

def rstPartE (v : W32) (s : State) : State :=
  let s := rset 0x110108 (v &&& 7#32) s
  if bit v 31 && !rstBusy s .partition then partitionResetE (fld v 2 0) true s else s
/-- RST_PART (R452, R456). -/
def execRstPart (v : W32) (be : BitVec 4) (s : State) := ctlWrite 0x110108 be s (rstPartE v)

/-- A write without GO or without the key has no effect (R452); in the safe state it starts the way out (R445). -/
def rstBlkE (v : W32) (s : State) : State :=
  if !bit v 31 || fld v 15 0 ≠ 0xB10C then s
  else if s.flt.safe then
    (if resetting s .block 0 then s else blockTail true true (if s.hif.linkUp then emit .linkDownSignal s else s))
  else blockResetE true s
/-- RST_BLK (R445, R452, R457). -/
def execRstBlk (v : W32) (be : BitVec 4) (s : State) := ctlWrite 0x11010C be s (rstBlkE v)

/-- Writes of units that the reset of a cluster has reset are still on their way (R249). -/
def clusterWrites (s : State) (k : Nat) : Bool :=
  if k < 64 then (List.range 4).any fun i => coreOut s (4 * k + i)
  else s.fe.cmds.any fun c => c.home = some (k - 64) && c.status = 0x20 && c.phase = .ready && writesOut s c.id

def partWrites (s : State) (p : Nat) : Bool := clusterWrites s (64 + p) || (List.range 8).any fun i => clusterWrites s (8 * p + i)

/-- The last row of a reset in progress, once no write of what it has reset can be applied any more (R249); a narrower one that a wider one contains ends with that one (R459). -/
def resetCompleteE (kind : ResetKind) (index : Nat) (s : State) : State :=
  if !resetting s kind index then s
  else match kind with
    | .context => contextDone index s
    | .cluster =>
      if partInReset s (partOfCluster index) || clusterWrites s index then s else endRun .cluster index (clusterRegs index s)
    | .partition => if partWrites s index then s else partitionDone index s
    | .block => blockDone s
/-- RESET_COMPLETE (R453 to R457). -/
def execResetComplete (kind : ResetKind) (index : Nat) (s : State) := live .fab s (resetCompleteE kind index)

/-! ## The safe state (R443, R445) -/

/-- Addresses of the host snoops that wait for L1s. -/
def waitingSnoops (s : State) : List Nat := s.dc.slices.flatMap fun e => e.2.txns.filterMap fun t => match t.kind with
  | .hostSnoop _ pa => some pa
  | _ => none

/-- Dirty DC lines, L1 lines in M and host lines go, without write-back; a host snoop under way is answered as though nothing were held
(R444). -/
def dropDirty (s : State) : State :=
  let s := (waitingSnoops s).foldl (fun s pa => emit (.h2dData pa none false) s) s
  let f (e : Nat × Core) : Nat × Core := (e.1, { e.2 with l1 := e.2.l1.filter (fun l => l.st ≠ .M), wb := [] })
  let ms := s.simt.cores.flatMap fun e => ((e.2.l1.filter fun l => l.st = .M) ++ e.2.wb).map fun l => (e.1, l.line)
  let s := ms.foldl (fun s x => dirRemove x.1 x.2 s) s
  let s := { s with simt := { s.simt with cores := s.simt.cores.map f } }
  let g (e : Nat × Slice) : Nat × Slice :=
    (e.1, { e.2 with lines := e.2.lines.filter (fun l => l.dirty = 0), txns := [], naks := [], starved := [] })
  dropHost { s with dc := { s.dc with slices := s.dc.slices.map g, writes := [] } }

/-- The block enters the safe state: work and dirty data are discarded, staged table entries and way changes under way complete
(R506), a checker test is refused (R446). -/
def enterSafe (s : State) : State :=
  if s.flt.safe then s
  else
    let s := if s.hif.linkUp then emit .viral { s with hif := { s.hif with viral := true } } else s
    let f (e : Nat × Ctx) : Nat × Ctx := (e.1, if e.2.state = 1#2 then { e.2 with state := 2 } else e.2)
    let s := discardCommands { s with fe := { s.fe with stopped := true, ctx := s.fe.ctx.map f } }
    let s := (List.range 64).foldl (fun s k => waysChangeDoneE k s) (ratApplyDoneE s)
    let s := selfRefreshAll (dropDirty s)
    { s with
      hif := { s.hif with held := [], heldOut := [] }
      rst := []
      flt := { s.flt with
        safe := true, errn := true, chk := none
        chkResult := if s.flt.chk.isSome then 2 else s.flt.chkResult } }

/-! ## Function level reset, D3hot and link-down (R386, R390, R391, R395) -/

/-- Commands, launches and batches end as by context resets (R390, R147). -/
def flrEndWork (s : State) : State :=
  let f (e : Nat × Ctx) : Nat × Ctx := (e.1, if e.2.state = 1#2 then { e.2 with state := 2 } else e.2)
  let s := { s with fe := { s.fe with stopped := true, ctx := s.fe.ctx.map f }, upd := {} }
  let s := stopCommands (fun _ => true) 0x21 (stopLaunches (fun _ => true) 0x21 s)
  { s with atc := { s.atc with prgs := [] } }

/-- The FLR sequence up to its "by 1" rows: with Bus Master Enable 1 the host halves are sent and the records may still be issued;
else both are dropped. -/
def flrE (s : State) : State :=
  if s.hif.flr || s.flt.safe then { s with hif := { s.hif with flr := true } }
  else
    let s := flrEndWork { s with hif := { s.hif with flr := true } }
    if s.hif.bme then evictHost s
    else
      let s := dropHost (dropRecords (fun _ => true) s)
      { s with hif := { s.hif with held := [], heldOut := [] } }
/-- FLR (R390). -/
def execFlr (s : State) := live .hif s fun s => if s.hif.cfgReady && s.hif.linkUp then flrE s else s

/-- D3HOT_ENTRY (R386): the FLR sequence, and the function leaves D0. -/
def d3hotE (s : State) : State :=
  if s.hif.d0 then
    let s := flrE s
    { s with hif := { s.hif with d0 := false } }
  else s
def execD3hotEntry (s : State) := live .hif s fun s => if s.hif.cfgReady && s.hif.linkUp then d3hotE s else s

/-- Context registers at their reset values, but GEN, which goes up by one (R390, R391). -/
def flrCtx (f : FrontEnd) : FMap Ctx :=
  (List.range Config.numContexts).foldl (fun m c => fset {} m c { gen := (f.ctxOf c).gen + 1 }) []

/-- A write of the block's own work is on its way to HVDM or to the host (R249, R390). -/
def flrWrites (s : State) : Bool :=
  let own (w : Requester) : Bool := match w with
    | .cmd _ => true
    | .core _ _ => true
    | .record _ => true
    | .tagLine _ => true
    | .row _ _ _ => true
    | .ring _ => true
    | _ => false
  s.ports.any (fun e => (e.2.queue ++ e.2.sent).any fun r => r.op = .wr && own r.who) || s.hif.d2h.any fun r => r.bytes ≠ []

def flrDone (s : State) : State :=
  let s := dropMerges (fun _ => true) (dropRecords (fun _ => true) s)
  let h := s.hif
  { s with
    regs := keepRegs flrKeeps s.regs
    latch := keepRegs (fun off => decide (0x90000 ≤ off)) s.latch
    acc := {}
    mng := []
    tbl := { s.tbl with result := 0 }
    upd := {}
    mig := { s.mig with load := [], loadLast := [] }
    fe := { State.reset.fe with
      nextId := s.fe.nextId, caps := s.fe.caps, ctx := flrCtx s.fe, stopped := s.flt.safe || s.rook.qstate.getLsbD 1 }
    atc := { State.reset.atc with next := s.atc.next }
    dc := { s.dc with slices := s.dc.slices.map fun e => (e.1, { e.2 with lfsr := (sliceDef e.1).lfsr }) }
    rook := s.rook.orphan
    pwr := { s.pwr with pllOff := 0 }
    rst := s.rst.filter fun r => r.kind ≠ .context
    hif := { State.reset.hif with
      ids := h.ids, linkUp := h.linkUp, linkHold := h.linkHold, fmt := h.fmt, pmState := h.pmState, hdm := h.hdm, d0 := h.d0
      cfgReady := h.cfgReady, cfgFrom := h.cfgFrom, cfgLink := h.cfgLink, d2h := h.d2h, nextTag := h.nextTag, aer := h.aer
      viral := h.viral, ideInsecure := h.ideInsecure, csr := h.csr } }
/-- FLR_COMPLETE (R390, R391). -/
def execFlrComplete (s : State) := live .hif s fun s => if s.hif.flr && !flrWrites s then flrDone s else s

/-- No snoop is answered any more (R395): their transactions end as recalls. -/
def dropSnoops (s : State) : State :=
  let t (x : Txn) : Txn := match x.kind with
    | .hostSnoop _ _ => { x with kind := .recall }
    | _ => x
  let f (e : Nat × Slice) : Nat × Slice := (e.1, { e.2 with txns := e.2.txns.map t })
  { s with dc := { s.dc with slices := s.dc.slices.map f } }

/-- Link-down without a quiesce: the FLR sequence, with records and host halves discarded (R395). -/
def linkDownE (s : State) : State :=
  if !s.hif.linkUp then s
  else if s.rook.qstate = 3 then { s with hif := { s.hif with linkUp := false } }
  else
    let s := { s with hif := { s.hif with linkUp := false, cfgReady := false, cfgLink := true, l1Req := false, l0pReq := false } }
    let s := if s.flt.safe || s.hif.flr then s else flrEndWork s
    let s := dropHost (dropRecords (fun _ => true) (dropSnoops s))
    { s with
      fe := { s.fe with tags := [] }
      hif := { s.hif with flr := true, d2h := [], held := [], heldOut := [], csr := none } }
/-- LINK_DOWN (R395, R421). -/
def execLinkDown (s : State) := live .hif s linkDownE

/-! ## Configuration requests (R318, R370 to R372, R383, R385 to R388) -/

def msixMaskE (vec : Nat) (mask : Bool) (s : State) : State :=
  if mask then { s with hif := { s.hif with unmasked := fset false s.hif.unmasked vec false } } else msixUnmaskE vec s

def cfgCommand (mse bme intxDis : Bool) (s : State) : State :=
  let s := { s with hif := { s.hif with mse := mse, intxDis := intxDis } }
  let s := if intxDis then deassertIntx s else assertIntx s
  if s.hif.flr then s else setBme bme s

def configRequestE (r : CfgReq) (s : State) : State :=
  if !s.hif.linkUp then s
  else if !s.hif.cfgReady then emit .cfgRetry s
  else match r with
    | .read reg => cfgRead reg s
    | .command mse bme intxDis => cfgCommand mse bme intxDis s
    | .msixControl en mask => msixControl en mask s
    | .msixMask vec mask => if vec < 4096 then msixMaskE vec mask s else s
    | .linkControl l1 l0p => { s with hif := { s.hif with aspmL1 := l1, l0pOn := l0p } }
    | .priStatusClear => { s with atc := { s.atc with prFail := false } }
    | .priAllocation n => { s with hif := { s.hif with prAlloc := n } }
    | .completionTimeout ns => { s with hif := { s.hif with cto := ns } }
    | .linkRead a => linkAccess a false 0 s
    | .linkWrite a v => linkAccess a true v s
    | .powerState d0 => if d0 then { s with hif := { s.hif with d0 := true } } else d3hotE s
/-- CONFIG_REQUEST (R370 to R372, R398). -/
def execConfigRequest (r : CfgReq) (s : State) := live .hif s (configRequestE r)

end Sys2Proof.Machine
end

