-- ==== Sys2Proof/Machine/Faults.lean ====
section
/-! DEFINITION. The fault collector (R425 to R441): records, queue, reactions; the registers of R435; checker tests and injections
(R446 to R448); overruns (R450, R451). -/

namespace Sys2Proof.Machine

/-! ## Records (R427, R429) -/

/-- SEQ after `n`: 1 to 0x7FFFFFFF, and round to 1 (R429). -/
def nextSeq (n : Nat) : Nat := if n = 0x7FFFFFFF then 1 else n + 1

/-- REACT byte (R427). -/
def React.code (r : React) : Nat := (if r.irq then 1 else 0) + (if r.nmi then 2 else 0) + (if r.errn then 4 else 0) + 8 * r.reset

/-- Merge of reactions (R431). -/
def React.merge (a b : React) : React :=
  { irq := a.irq || b.irq, nmi := a.nmi || b.nmi, errn := a.errn || b.errn, reset := max a.reset b.reset }

/-- The 64 bytes of a record (R427). -/
def Rec.bytes (r : Rec) : Bytes :=
  leBytes 4 r.seq ++ leBytes 1 r.cls ++ leBytes 1 r.react.code ++ leBytes 1 r.source
  ++ leBytes 1 ((if r.injected then 1 else 0) + (if r.ctx.isSome then 2 else 0) + (if r.addr.isSome then 4 else 0))
  ++ le64 r.tFirst ++ le64 r.tLast ++ leBytes 2 r.count ++ leBytes 2 (r.ctx.getD 0) ++ leBytes 2 r.gen.toNat
  ++ leBytes 2 (r.loc.kind % 16 * 4096 + r.loc.index % 4096) ++ leBytes 8 (r.addr.getD 0) ++ le64 r.info
  ++ leBytes 2 (match r.blame with
    | some c => 0x8000 + c
    | none => 0) ++ List.replicate 14 0

/-- A report has the signature of a record (R429). -/
def Rec.sameAs (r : Rec) (p : Report) : Bool := r.source = p.source && r.ctx = p.ctx && r.loc = p.loc && r.addr = p.addr

def newRec (seq cls : Nat) (re : React) (i : Intake) : Rec :=
  { seq := seq, cls := cls, react := re, source := i.rep.source, injected := i.rep.injected, tFirst := i.time, tLast := i.time,
    count := 1, ctx := i.rep.ctx, gen := i.gen, loc := i.rep.loc, addr := i.rep.addr, info := i.rep.info, blame := i.rep.blame,
    pending := true }

def Rec.again (r : Rec) (re : React) (t : W64) : Rec :=
  { r with count := min 0xFFFF (r.count + 1), tLast := t, react := r.react.merge re }

/-! ## The queue (R430, R431) -/

def Flt.pend (f : Flt) : Nat := (f.recs.filter Rec.pending).length

/-- A new record takes a free slot, or that of the oldest released record (R430). -/
def Flt.push (f : Flt) (r : Rec) : Flt :=
  let l := if 256 ≤ f.recs.length then dropFirst (fun x => !x.pending) f.recs else f.recs
  { f with recs := l ++ [r], seq := r.seq }

/-- What became of a report: the SEQ of its record, 0 when it was counted as lost (R432), and whether a record was queued. -/
structure Taken where
  flt : Flt
  seq : Nat
  queued : Bool
  lost : Bool

/-- R431. -/
def Flt.accept (f : Flt) (cls : Nat) (re : React) (i : Intake) : Taken :=
  let n := nextSeq f.seq
  if cls = 6 then
    match f.fatal with
    | none => { flt := { f with fatal := some (newRec n cls re i), seq := n }, seq := n, queued := false, lost := false }
    | some r => { flt := { f with fatal := some (r.again re i.time) }, seq := r.seq, queued := false, lost := false }
  else if !i.isOver && f.pend < 256 then
    { flt := f.push (newRec n cls re i), seq := n, queued := true, lost := false }
  else match f.recs.find? fun r => r.pending && r.sameAs i.rep with
    | some r =>
      let g (x : Rec) : Rec := if x.seq = r.seq then x.again re i.time else x
      { flt := { f with recs := f.recs.map g }, seq := r.seq, queued := false, lost := false }
    | none => { flt := { f with ovf := sat31 f.ovf 1, lost := true }, seq := 0, queued := false, lost := true }

/-! ## Reactions (R441) -/

/-- The reset element of a reaction (R441). -/
def applyReset (level : Nat) (ctx : Option Nat) (loc : Loc) (s : State) : State :=
  match level with
  | 1 => match ctx with
    | some c => contextResetE c false s
    | none => s
  | 2 => match locClusterOf loc with
    | some k => clusterResetE k false s
    | none => blockResetE false s
  | 3 => match locPartOf loc with
    | some p => partitionResetE p false s
    | none => blockResetE false s
  | 4 => blockResetE false s
  | 5 => enterSafe s
  | _ => s

/-- IRQ, NMI and ERRN (R441). -/
def applyFlags (re : React) (seq : Nat) (s : State) : State :=
  let v := rget s 0x11001C
  let s := if re.irq && bit v 12 then irqEvent (fld v 11 0) s else s
  { s with flt := { s.flt with
      nmi := if re.nmi && seq ≠ 0 then s.flt.nmi ++ [seq] else s.flt.nmi
      errn := s.flt.errn || re.errn } }

def sat32 (c : W32) : W32 := if c = 0xFFFFFFFF#32 then c else c + 1

/-- Counts of the telemetry record (R424). -/
def countFault (t : Taken) (cls : Nat) (s : State) : State :=
  let k := s.rook.counts
  { s with rook := { s.rook with counts := { k with
      faults := if t.queued then sat32 k.faults else k.faults
      faultsLost := if t.lost then sat32 k.faultsLost else k.faultsLost
      corrected := if cls = 0 then sat32 k.corrected else k.corrected } } }

/-- DETAIL of the commands that wait for the record (R432). -/
def giveDetail (owner : Option Nat) (seq : Nat) (s : State) : State :=
  match owner with
  | none => s
  | some k =>
    let f (c : Cmd) : Cmd := if c.waitsReport && c.repOf = k then { c with waitsReport := false, detail := BitVec.ofNat 32 seq } else c
    { s with fe := { s.fe with cmds := s.fe.cmds.map f } }

/-- DETAIL of the commands that a reset ended with FAULTED: the SEQ of the record whose reaction ordered the reset (R351, R452). -/
def resetDetail (seq : Nat) (before after : FrontEnd) : FrontEnd :=
  let f (c : Cmd) : Cmd :=
    if c.status = 0x20 && c.detail = 0 && !c.waitsReport && before.cmds.any fun d => d.id = c.id && d.status ≠ 0x20
    then { c with detail := BitVec.ofNat 32 seq } else c
  { after with cmds := after.cmds.map f }

/-- The record that a checker test waits for (R447). -/
def ChkTest.expects (t : ChkTest) (r : Report) : Bool :=
  r.injected && (if t.checker ≤ 3 then r.source = 0x30 && r.loc = locSlice t.unit
    else if t.checker = 4 then r.source = 0x50 && r.loc = locPart t.unit
    else r.source = 0x50 && r.loc = locFront)

/-- A checker test ends once its record is queued (R446). -/
def endTest (r : Report) (queued : Bool) (s : State) : State :=
  match s.flt.chk with
  | some t => if queued && t.expects r then { s with flt := { s.flt with chk := none, chkResult := 1 } } else s
  | none => s

/-- The collector takes a report: record, counts, reaction (R431, R441). In the safe state no reset is applied. -/
def collect (cls : Nat) (i : Intake) (s : State) : State :=
  let re : React := if s.flt.safe then { i.react with reset := 0 } else i.react
  let t := s.flt.accept cls re i
  let s := countFault t cls { s with flt := t.flt }
  let s := giveDetail i.rep.owner t.seq s
  let s := applyFlags re t.seq (endTest i.rep t.queued s)
  let r := applyReset re.reset i.rep.ctx i.rep.loc s
  { r with fe := resetDetail t.seq s.fe r.fe }

/-! ## Errors of the arrays (R194, R290) -/

/-- Sources of the checkers of arrays and flits, whose errors come from outside the model. -/
def hwSource (src : Nat) : Bool := src ∈ [0x05, 0x0B, 0x30, 0x31, 0x32, 0x42, 0x50, 0x51, 0x52, 0x53, 0x54]

/-- A line has a dirty sector, or a half in M. -/
def DcLine.unclean (l : DcLine) : Bool := l.dirty ≠ 0 || l.h0 = .M || l.h1 = .M

/-- The line at a set and way of a slice. -/
def Slice.at_ (sl : Slice) (set way : Nat) : Option DcLine := sl.lines.find? fun l => l.set = set && l.way = way

/-- A line is invalidated: a clean host line leaves by CleanEvictNoData, what is dirty is lost (R290). -/
def invalidate (k : Nat) (l : DcLine) (s : State) : State :=
  if isHostLine l.line && !l.unclean then evictLine k l s
  else
    let s := modSlice k (fun sl => sl.drop l.line) (orphanFill k l.line s)
    if isHostLine l.line then dropCopies l.line s else s

/-- The directory set is rebuilt: copies of its lines are recalled (R290). -/
def rebuildDir (k set : Nat) (s : State) : State :=
  (((s.dc.slice k).dir.filter fun e => Config.dirSet e.line = set).map DirEnt.line).foldl (fun s line =>
    let s := match dirtyL1 s.simt.cores line with
      | some m => homeData k m s
      | none => s
    dropCopies line s) s

/-- A clean sector of a slice is invalidated; whoever needs it fetches it again (R290). A host line goes whole. -/
def refetchDc (k : Nat) (l : DcLine) (sec : Nat) (s : State) : State :=
  if l.dirty.getLsbD sec || l.unclean && isHostLine l.line then s
  else if isHostLine l.line then evictLine k l s
  else
    let m := BitVec.ofNat 4 (2 ^ sec)
    modSlice k (fun sl => sl.put { l with bv := l.bv &&& ~~~byteMask m, poison := l.poison &&& ~~~m }) s

/-- The line of an L1 that an address names, in the core that LOC names or in any. -/
def l1Named (s : State) (loc : Loc) (a : Nat) : Option (Nat × L1Line) :=
  (s.simt.cores.filter fun e => loc.kind ≠ 1 || e.1 = loc.index).findSome? fun e =>
    ((e.2.l1 ++ e.2.wb).find? fun l => l.line = a / 128 || l.line = hostLine + a / 128).map fun l => (e.1, l)

/-- A clean sector of an L1 line is invalidated (R290). -/
def refetchL1 (loc : Loc) (a : Nat) (s : State) : State :=
  match l1Named s loc a with
  | some (c, l) =>
    if l.st = .M then s else modCore c (fun k => k.putLine { l with valid := l.valid &&& ~~~BitVec.ofNat 4 (2 ^ (a / 32 % 4)) }) s
  | none => s

/-- A dirty sector of the line at a set and way becomes poison. -/
def poisonSector (k set way sec : Nat) (s : State) : State :=
  match (s.dc.slice k).at_ set way with
  | some l => modSlice k (fun sl => sl.put { l with poison := l.poison ||| BitVec.ofNat 4 (2 ^ sec) }) s
  | none => s

/-- An L1 line in M is reclaimed poisoned, as for a lost agent (R290, R292). -/
def poisonL1 (loc : Loc) (a : Nat) (s : State) : State :=
  match l1Named s loc a with
  | some (_, m) =>
    if m.st = .M then
      endLineResv m.line (homeData (lineHome m.line) { m with valid := 0xF, poison := 0xF, hd := 3 } (dropCopies m.line s))
    else s
  | none => s

/-- The elements that an error of a press reaches read NaN (R194): those of the accumulator row that INFO names; of a stream whose row is
unset, the codes of its weight registers. DEDUCED, log 34. -/
def spoilPress (core : Nat) (info : W64) (s : State) : State :=
  let row := bits info.toNat 6 0
  let nan (b : CodeBlk) : CodeBlk := { b with c := b.c.map fun _ => .nan }
  let f (st : Stream) : Stream :=
    match (fget {} st.rows row).e with
    | some _ => { st with rows := fmod {} st.rows row fun r => { r with sp := List.replicate 128 .nan } }
    | none => { st with active := st.active.map fun l => l.map nan }
  { s with simt := { s.simt with streams := mapWhere (fun e => decide (e.1 = 2 * core + info.toNat / 256 % 2)) (fun e => (e.1, f e.2)) s.simt.streams } }

/-- What an error of an array does beside its record (R290, R194): INFO names structure, set and way (R510). Source 0x30 does not tell a
corrected error from a clean sector that is lost: a free value does (DESIGN CHOICE, log 34). -/
def arrayEffect (r : Report) (s : State) : State :=
  let k := r.loc.index
  let set := bits r.info.toNat 9 0
  let way := bits r.info.toNat 20 16
  let st := bits r.info.toNat 31 24
  let a := r.addr.getD 0
  let sec := a / 32 % 4
  let line : Option DcLine := if r.loc.kind = 4 then (s.dc.slice k).at_ set way else none
  match r.source with
  | 0x05 => if r.addr.isSome then poisonL1 r.loc a s else s
  | 0x0B => if r.loc.kind = 1 then spoilPress k r.info s else s
  | 0x30 =>
    if st = 3 then (match line with
      | some l => if l.unclean then s else invalidate k l s
      | none => s)
    else if st = 4 then (if r.loc.kind = 4 then rebuildDir k set s else s)
    else if (st = 1 || st = 5) && r.addr.isSome && (freeVal 1 s = 1) then
      (if st = 5 then refetchL1 r.loc a (useFree s) else match line with
        | some l => refetchDc k l sec (useFree s)
        | none => useFree s)
    else useFree s
  | 0x31 =>
    if st = 1 then (if r.loc.kind = 4 then poisonSector k set way sec s else s)
    else if st = 5 then poisonL1 r.loc a s
    else if st = 6 then { s with dc := { s.dc with scratchBad := fset false s.dc.scratchBad ((a - scrBase) / 8) true } }
    else s
  | 0x32 => match line with
    | some l => invalidate k l s
    | none => s
  | _ => s

/-- The launch that an error of a core's registers, local store, L1 data or press ends: that of the command it names; else that of the
stream, or the one of the context with a team on the core (R194, R223). -/
def hwLaunch (r : Report) (s : State) : Option Launch :=
  if r.source ≠ 0x05 && r.source ≠ 0x0B then none
  else match r.owner with
    | some id => s.simt.launches.find? fun l => l.cmd = id
    | none =>
      if r.loc.kind ≠ 1 then none
      else if r.source = 0x0B then
        ((fget {} s.simt.streams (2 * r.loc.index + r.info.toNat / 256 % 2)).launch).bind (findLaunch s)
      else s.simt.launches.find? fun l => r.ctx.all (fun c => decide (c = l.ctx)) && l.teams.any fun t => t.core = r.loc.index

/-- The launch ends with FAULTED, its work items with it; their DETAIL is the SEQ of the record. -/
def endHwLaunch (l : Launch) (s : State) : State :=
  let ids := l.cmd :: l.items.map Item.cmd
  let f (c : Cmd) : Cmd := { c with waitsReport := true, repOf := l.cmd }
  modLaunch l.id (fun x => { x with ending := x.ending.orElse fun _ => some 0x20 })
    { s with fe := { s.fe with cmds := mapWhere (fun c => ids.contains c.id) f s.fe.cmds } }

/-- A checker's report has its effect: on the arrays, and on the launch that it ends, whose command it then names. -/
def hwEffect (r : Report) (s : State) : Report × State :=
  match hwLaunch r s with
  | some l => ({ r with owner := some l.cmd }, endHwLaunch l (arrayEffect r s))
  | none => (r, arrayEffect r s)

/-- The oldest report of a buffer, or one that a checker makes now, reaches the collector. -/
def faultReportE (buf : Nat) (hw : Option Report) (s : State) : State :=
  match hw with
  | some r =>
    if !hwSource r.source then s
    else
      let (r, s) := hwEffect r s
      let r := { r with injected := r.injected || s.flt.fires r.loc }
      let s := if s.flt.fires r.loc then { s with flt := { s.flt with armed := none } } else s
      collect (reportClass r 0)
        { buf := buf, isOver := false, rep := r, gen := genOf s r.ctx, time := s.devtime, react := reactOf s.flt r.source } s
  | none =>
    match s.flt.intake.find? fun i => i.buf = buf with
    | none => s
    | some i =>
      collect (reportClass i.rep 0) i { s with flt := { s.flt with intake := dropFirst (fun x => decide (x.buf = buf)) s.flt.intake } }
/-- FAULT_REPORT (R431, R441). -/
def execFaultReport (buf : Nat) (hw : Option Report) (s : State) := live .aon s (faultReportE buf hw)

/-! ## Collector registers (R436 to R440) -/

/-- The oldest n pending records are released. -/
def releaseRecs : Nat → List Rec → List Rec
  | _, [] => []
  | 0, l => l
  | n + 1, r :: l => if r.pending then { r with pending := false } :: releaseRecs n l else r :: releaseRecs (n + 1) l

def fltQrelE (v : W32) (s : State) : State := { s with flt := { s.flt with recs := releaseRecs (fld v 8 0) s.flt.recs } }
/-- FLT_QREL (R437). -/
def execFltQrel (v : W32) (be : BitVec 4) (s : State) := ctlWrite 0x11000C be s (fltQrelE v)

/-- A reaction as FLT_REACT is written (R439). -/
def React.write (old : React) (cls : Nat) (v : W32) : React :=
  let n := fld v 10 8
  let reset := if 6 ≤ n then old.reset else max n (leastReset cls)
  if cls = 6 then { old with irq := bit v 0, nmi := bit v 1 }
  else { irq := bit v 0, nmi := bit v 1, errn := bit v 2, reset := reset }

def fltReactWriteE (v : W32) (s : State) : State :=
  let src := fld (rget s 0x110014) 7 0
  match sourceClass src with
  | none => s
  | some c =>
    { s with flt := { s.flt with react := fset (reactDefault src) s.flt.react src ((reactOf s.flt src).write c v) } }
/-- FLT_REACT_WRITE (R438, R439). -/
def execFltReactWrite (v : W32) (be : BitVec 4) (s : State) := ctlWrite 0x110018 be s (fltReactWriteE v)

/-- Write of FLT_CTL (R440). -/
def fltCtlE (v : W32) (s : State) : State :=
  let s := rset 0x110020 (v &&& 2#32) s
  if bit v 0 && !s.flt.safe then { s with flt := { s.flt with errn := false } } else s
/-- ERRN_CLEAR (R440). -/
def execErrnClear (v : W32) (be : BitVec 4) (s : State) := ctlWrite 0x110020 be s (fltCtlE v)

/-! ## Checker tests and injections (R446 to R448) -/

def checkerOk (checker unit : Nat) : Bool :=
  if checker = 1 || checker = 2 || checker = 3 then unit < 64 else if checker = 4 then unit < 8 else checker = 5 && unit = 0

def fltChkreqE (v : W32) (s : State) : State :=
  let s := rset 0x110024 (v &&& 0xFF0F#32) s
  if !bit v 31 || s.flt.chk.isSome then s
  else if s.flt.safe || !checkerOk (fld v 3 0) (fld v 15 8) then { s with flt := { s.flt with chkResult := 2 } }
  else { s with flt := { s.flt with chk := some { checker := fld v 3 0, unit := fld v 15 8, since := s.devtime } } }
/-- FLT_CHKREQ (R446). -/
def execFltChkreq (v : W32) (be : BitVec 4) (s : State) := ctlWrite 0x110024 be s (fltChkreqE v)

def checkerTestTimeoutE (s : State) : State :=
  match s.flt.chk with
  | some t => if 10000000 ≤ since s.devtime t.since then { s with flt := { s.flt with chk := none, chkResult := 2 } } else s
  | none => s
/-- CHECKER_TEST_TIMEOUT (R446). -/
def execCheckerTestTimeout (s : State) := live .aon s checkerTestTimeoutE

/-- Write of FLT_INJ, which acts only when FTEST was sampled as 1; KIND 5 to 7 keeps the field (R448, R500). -/
def fltInjE (v : W32) (s : State) : State :=
  if !s.pwr.ftest then s
  else
    let old := rget s 0x110028
    let w := v &&& 0x38FFFF00#32
    let w := if 5 ≤ fld v 29 27 then setFld w 29 27 (fld old 29 27) else w
    let s := rset 0x110028 w s
    if bit v 31 then { s with flt := { s.flt with armed := some { kind := fld w 29 27, target := fld w 23 20, index := fld w 19 8 } } }
    else s
/-- FLT_INJ (R448). -/
def execFltInj (v : W32) (be : BitVec 4) (s : State) := ctlWrite 0x110028 be s (fltInjE v)

/-! ## Overruns (R450, R451) -/

/-- Source of an end overrun, by where the unit lies. -/
def endSource (l : Loc) : Nat :=
  if (locClusterOf l).isSome then 0x11 else if (locPartOf l).isSome then 0x12 else 0x13

/-- END_OVERRUN (R450): only a command that has ended can overrun. -/
def endOverrunE (unit : Loc) (id sq ctx : Nat) (cid : W32) (s : State) : State :=
  if s.fe.cmds.any fun c => c.id = id && c.phase ≠ .ready then s
  else detect ((locPartOf unit).getD 8) (report (endSource unit) (some ctx) unit none (cid.toNat + sq * 2 ^ 32)) s
def execEndOverrun (unit : Loc) (id sq ctx : Nat) (cid : W32) (s : State) := live .fab s (endOverrunE unit id sq ctx cid)

/-- Bound of a reset in nanoseconds (R453 to R457). -/
def resetBound : ResetKind → Nat
  | .context => 50000
  | .cluster => 2000000
  | .partition => 30000000
  | .block => 2000000000

/-- RESET level of a rung (R438). -/
def rungLevel : ResetKind → Nat
  | .context => 1
  | .cluster => 2
  | .partition => 3
  | .block => 4

/-- Class of the rung that follows: that of the reset it starts, FATAL after a block reset (R451). -/
def rungClass (kind next : ResetKind) : Nat := if kind = .block then 6 else rungLevel next + 1

/-- Whether `next` of `nextIndex` is the rung that follows an overrun of `kind` (R451). -/
def nextRung (kind : ResetKind) (index : Nat) (next : ResetKind) (nextIndex : Nat) : Bool :=
  match kind, next with
  | .context, .context => false
  | .context, _ => true
  | .cluster, .partition => nextIndex = partOfCluster index
  | .partition, .block => true
  | .block, _ => true
  | _, _ => false

def rungLoc (kind : ResetKind) (index : Nat) : Loc := match kind with
  | .cluster => locCluster index
  | .partition => locPart index
  | _ => locNone

/-- The next rung starts at once; after a block reset, the safe state, and a power cycle when AUTOPC = 1 (R451). -/
def startNext (kind next : ResetKind) (nextIndex : Nat) (s : State) : State :=
  match kind, next with
  | .block, _ =>
    let s := enterSafe s
    if bit (rget s 0x110020) 1 then { s with pwr := { s.pwr with pwrcyc := true } } else s
  | _, .cluster => clusterResetE nextIndex false s
  | _, .partition => partitionResetE nextIndex false s
  | _, .block => blockResetE false s
  | _, .context => s

/-- RESET_OVERRUN (R451): the record carries the class of the next rung, with that class's own reaction but for the reset, which is
the next rung itself. -/
def resetOverrunE (kind : ResetKind) (index : Nat) (next : ResetKind) (nextIndex : Nat) (s : State) : State :=
  match s.rst.find? fun r => r.kind = kind && r.index = index with
  | none => s
  | some r =>
    if since s.devtime r.start < resetBound kind || !nextRung kind index next nextIndex then s
    else
      let ctx : Option Nat := if kind = .context then some index else none
      let cls := rungClass kind next
      let rep := report 0x14 ctx (rungLoc kind index) none (rungLevel kind)
      let i : Intake := { buf := 8, isOver := false, rep := rep, gen := genOf s ctx, time := s.devtime, react := classReact cls }
      let f (x : ResetRun) : ResetRun := if x = r then { x with start := s.devtime } else x
      let s := { s with rst := s.rst.map f }
      let t := s.flt.accept cls (classReact cls) i
      startNext kind next nextIndex (applyFlags (classReact cls) t.seq (countFault t cls { s with flt := t.flt }))
def execResetOverrun (kind : ResetKind) (index : Nat) (next : ResetKind) (nextIndex : Nat) (s : State) :=
  live .aon s (resetOverrunE kind index next nextIndex)

/-- VIRAL (R394): the host signals Viral; a FATAL report of source 0x43, whose reaction is the safe state. -/
def viralE (s : State) : State :=
  if !s.hif.linkUp then s
  else
    let r := report 0x43 none locHif none 0
    collect 6 { buf := 8, isOver := false, rep := r, gen := 0, time := s.devtime, react := reactOf s.flt 0x43 } s
def execViral (s : State) := live .hif s viralE

end Sys2Proof.Machine
end

