-- ==== Sys2Proof/Machine/Rook.lean ====
section
/-! DEFINITION. The Rook and Thimble (R400 to R424): boot flash and images, supervision, mailboxes, the command set, the side-band,
the quiesce, the rings and telemetry. -/

namespace Sys2Proof.Machine

/-! ## Flash and images (R400 to R403). A byte of flash that nothing has written reads as erased, 0xFF (DESIGN CHOICE, log 31). -/

def flashBytes (r : Rook) (a n : Nat) : Bytes := (List.range n).map fun i => fget 0xFF#8 r.flash (a + i)
def flashWrite (a : Nat) (b : Bytes) (r : Rook) : Rook :=
  { r with flash := (placed a b).foldl (fun m x => fset 0xFF#8 m x.1 x.2) r.flash }
def flashErase (a n : Nat) (r : Rook) : Rook := { r with flash := r.flash.filter fun e => !(a ≤ e.1 && e.1 < a + n) }

def slotBase (k : Nat) : Nat := 0x100000 * (k + 1)

/-- A slot is valid (R401, R402). -/
def imageValid (r : Rook) (k : Nat) : Bool :=
  let a := slotBase k
  let h := flashBytes r a 256
  let len := num h 0xC 4
  let body := flashBytes r (a + 256) len
  decide (num h 0 4 = 0x4B4F4F52 ∧ num h 8 4 < 2 ^ 31 ∧ 1 ≤ len ∧ len ≤ 0xFFF00) && decide (num h 0x3C 4 = crc32c (h.take 0x3C))
    && decide (num h 0x14 4 = crc32c body)
    && (r.keyDigest = 0 || (Config.sha384 (slice h 0xA0 96) = r.keyDigest
        && Config.sigVerifies (h.take 0x40 ++ body ++ slice h 0x40 96 ++ slice h 0xA0 96)))

def imageSeq (r : Rook) (k : Nat) : Nat := num (flashBytes r (slotBase k) 256) 4 4

/-- The slot that the boot ROM loads: the valid one with the higher SEQ, slot 0 when they are equal (R402). -/
def bootSlot (r : Rook) : Option Nat :=
  match imageValid r 0, imageValid r 1 with
  | true, true => some (if imageSeq r 0 < imageSeq r 1 then 1 else 0)
  | true, false => some 0
  | false, true => some 1
  | false, false => none

def rookImageLoadE (s : State) : State :=
  let r := s.rook
  if r.state ≠ 1 && r.state ≠ 3 then s
  else match bootSlot r with
    | none => { s with rook := { r with state := 4, loaded := false, fwver := 0 } }
    | some k =>
      { s with rook := { r with
          state := 2, loaded := true, slot := k, imgSeq := imageSeq r k, sigChk := r.keyDigest ≠ 0
          fwver := BitVec.ofNat 31 (num (flashBytes r (slotBase k) 256) 8 4), beat := s.devtime } }
/-- ROOK_IMAGE_LOAD (R402, R405). -/
def execRookImageLoad (s : State) := live .mgt s rookImageLoadE

/-- A copy of the configuration block (R403) and whether it is valid. -/
def cfgCopy (r : Rook) (k : Nat) : Bytes := flashBytes r (0x10000 * k) 64
def cfgValid (b : Bytes) : Bool := num b 0 4 = 0x47464343 && num b 0x3C 4 = crc32c (b.take 0x3C)

/-- Number of the valid copy with the higher SEQ; copy 0 when they are equal (DESIGN CHOICE, log 31). -/
def cfgBest (r : Rook) : Option Nat :=
  let a := cfgCopy r 0
  let b := cfgCopy r 1
  match cfgValid a, cfgValid b with
  | true, true => some (if num a 4 4 < num b 4 4 then 1 else 0)
  | true, false => some 0
  | false, true => some 1
  | false, false => none

/-! ## The memory map (R297, R298) -/

/-- The check that LOCK makes. -/
def mapOk (m : MemMap) : Bool :=
  let ok (k : Nat) : Bool := hvdmSize m k = 0 || hvdmBase m k + hvdmSize m k ≤ m.niSize
  let apart : Bool := hvdmSize m 0 = 0 || hvdmSize m 1 = 0 || hvdmBase m 0 + hvdmSize m 0 ≤ hvdmBase m 1
    || hvdmBase m 1 + hvdmSize m 1 ≤ hvdmBase m 0
  m.nloc.toNat ≤ m.ncap.toNat && ok 0 && ok 1 && apart && hvdmSize m 0 + hvdmSize m 1 ≤ 512 * 2 ^ 28

/-- A write of LOCK (R297). -/
def MemMap.setLock (m : MemMap) : MemMap :=
  if m.lock then m else if mapOk m then { m with lock := true, bad := false } else { m with bad := true }

/-- Write of MEM_NLOC: NLOC first, then LOCK (R297, R502). -/
def memNlocE (v : W32) (s : State) : State :=
  let s := if s.mem.lock then countAcc 3 0xB0008 s else { s with mem := { s.mem with nloc := (v.setWidth 7) } }
  if bit v 31 then { s with mem := s.mem.setLock } else s
/-- MEM_NLOC_LOCK (R297, R298). -/
def execMemNlocLock (v : W32) (be : BitVec 4) (s : State) := ctlWrite 0xB0008 be s (memNlocE v)

/-- Write of MEM_HVDM[k]. -/
def memHvdmE (k : Nat) (v : W32) (s : State) : State :=
  let w := v &&& 0x07FF03FF#32
  if s.mem.lock then countAcc 3 (0xB0010 + 4 * k) s
  else { s with mem := if k = 0 then { s.mem with hvdm0 := w } else { s.mem with hvdm1 := w } }

/-- Firmware writes the map and sets LOCK; a map that fails the check is replaced by one without local shares and HVDM, and a record
of source 0x4A holds the rejected values (R403). -/
def lockMap (nloc : Nat) (h0 h1 : W32) (s : State) : State :=
  let m := ({ s.mem with nloc := BitVec.ofNat 7 nloc, hvdm0 := h0, hvdm1 := h1 } : MemMap).setLock
  if m.lock then { s with mem := m }
  else
    let rep : Report := report 0x4A none locRook (some nloc) (pair h0 h1)
    let s := detect 8 rep { s with rook := { s.rook with cfgRej := true } }
    { s with mem := ({ s.mem with nloc := 0, hvdm0 := 0, hvdm1 := 0 } : MemMap).setLock }

/-- Firmware loads the configuration: the identification fields (R370), and, once training has set the map registers, the map. -/
def configLoadE (s : State) : State :=
  if s.rook.state ≠ 2 then s
  else
    let k := cfgBest s.rook
    let b := (k.map (cfgCopy s.rook)).getD []
    let ids := if k.isSome then [num b 8 2, num b 0xA 2, num b 0xC 2, num b 0xE 2, num b 0x10 1] else []
    let s := { s with rook := { s.rook with cfgOk := k.isSome }, hif := { s.hif with ids := ids } }
    if !s.mem.mapped || s.mem.lock then s
    else if k.isSome then
      lockMap (num b 0x11 1 % 128) (BitVec.ofNat 32 (num b 0x14 4) &&& 0x07FF03FF#32) (BitVec.ofNat 32 (num b 0x18 4) &&& 0x07FF03FF#32) s
    else lockMap 0 0 0 s
/-- CONFIG_LOAD (R370, R403). -/
def execConfigLoad (s : State) := live .mgt s configLoadE

/-! ## Management events (R406, R407, R418) -/

/-- Message of the side-band (R418). -/
def sbMessage (ids : List Nat) (op flags ret aux : Nat) (payload : Bytes) : Bytes :=
  let v := ids.getD 0 0xFFFE
  leBytes 1 0x7E ++ leBytes 1 (v / 256) ++ leBytes 1 v ++ leBytes 1 1 ++ leBytes 1 op ++ leBytes 1 flags ++ leBytes 1 ret
    ++ leBytes 1 0 ++ leBytes 4 aux ++ payload

/-- A management event on the vector of MBX_VEC. -/
def mgtEvent (s : State) : State :=
  let v := rget s 0xF000C
  if bit v 12 then irqEvent (fld v 11 0) s else s

/-- Bit k of MGT_EVT: 0 QPEND, 1 ROOKRST, 2 FWACT. -/
def setEvt (k : Nat) (s : State) : State :=
  let r := rget s 0xF0008
  if bit r k then s
  else
    let s := mgtEvent (rset 0xF0008 (r ||| BitVec.ofNat 32 (2 ^ k)) s)
    match s.rook.eventEid with
    | some e => emit .i3cIbi (emit (.sideband 0 e (sbMessage s.hif.ids 0x7F 2 0 k [])) s)
    | none => s

/-! ## The quiesce (R419 to R421) -/

def startQuiesce (grace : Nat) (s : State) : State :=
  setEvt 0 { s with rook := { s.rook with qstate := 1, qStart := s.devtime, qGrace := grace } }

/-- The grace period of MGT_QCTL in nanoseconds. -/
def graceOf (s : State) : Nat := 10000000 * fld (rget s 0xF0010) 15 0

/-- ACTION 1, which is refused once the block drains (R419). -/
def quiesceNowE (s : State) : State :=
  if s.rook.qstate = 0 then startQuiesce 0 s
  else if s.rook.qstate = 1 then { s with rook := { s.rook with qGrace := 0 } } else s

def svcReqPressE (s : State) : State :=
  if s.rook.qstate = 0 then startQuiesce (graceOf s) s
  else if s.rook.qstate = 1 then { s with rook := { s.rook with qstate := 0 } } else s
/-- SVC_REQ_PRESS (R419). -/
def execSvcReqPress (s : State) := live .aon s svcReqPressE

def graceExpiryE (s : State) : State :=
  if s.rook.qstate = 1 && s.rook.qGrace ≤ since s.devtime s.rook.qStart && (s.mem.lock || s.flt.safe) then
    { s with rook := { s.rook with qstate := 2 }, fe := { s.fe with stopped := true } }
  else s
/-- GRACE_EXPIRY (R420): admission stops on every SQ. -/
def execGraceExpiry (s : State) := live .aon s graceExpiryE

/-- Open batches close, and every staged row is committed. -/
def drainBatches (s : State) : State :=
  commitSlices (fun _ => true) ((s.upd.staging.map StagedRow.tgt).eraseDups.foldl (fun s t => closeTarget t none s) s)

/-- The drain: first what is still in flight ends; once its records are out, batches commit, host halves leave, and the catalogue is
written with the ports in self-refresh. DESIGN CHOICE, log 36. -/
def quiesceDrainDoneE (s : State) : State :=
  if s.rook.qstate ≠ 2 then s
  else if s.flt.safe then { s with rook := { s.rook with qstate := 3 } }
  else if s.fe.cmds.any fun c => c.phase ≠ .ready then
    stopCommands (fun _ => true) 0x21 (abandonPrgs (stopLaunches (fun _ => true) 0x21 s))
  else if s.fe.cmds ≠ [] || s.fe.tags ≠ [] || s.upd.held ≠ [] || resetting s .block 0 then s
  else
    let s := retainSteps (some 2) (evictHost (drainBatches s))
    { s with rook := { s.rook with qstate := 3 } }
/-- QUIESCE_DRAIN_DONE (R420, R421). -/
def execQuiesceDrainDone (s : State) := live .fab s quiesceDrainDoneE

/-- SRX to every port in self-refresh. -/
def wakeMemory (s : State) : State :=
  (s.ports.filter fun e => e.2.selfRefresh || e.2.sent.any fun r => r.op = .sre).foldl (fun s e => portEnqueue e.1 { op := .srx } s) s

/-! ## Management commands (R408 to R415) -/

/-- Answer of a command: RET, AUX, payload. -/
abbrev Ans := Nat × Nat × Bytes

def ansOk : Ans := (0, 0, [])
def ansRet (r : Nat) : Ans := (r, 0, [])

/-- Estimated ready time in ms (R413). -/
def readyEstimate (s : State) : Nat := max 1 (150 - since s.devtime s.rook.running0 / 1000000)

def isReduced (op : Nat) : Bool := op ∈ [0x01, 0x02, 0x03, 0x08, 0x09, 0x0A, 0x10, 0x11, 0x12, 0x13, 0x14]
def isHostOnly (op : Nat) : Bool := op ∈ [0x04, 0x30]
def knownOp (op : Nat) : Bool := isReduced op || isHostOnly op || op ∈ [0x20, 0x21, 0x22, 0x23, 0x31, 0x38]
/-- Commands that change state, which take effect in order (R410). -/
def changesState (op : Nat) : Bool :=
  op ∈ [0x04, 0x08, 0x09, 0x0A, 0x10, 0x11, 0x12, 0x13, 0x14, 0x22, 0x23, 0x30, 0x38]

def fromSideband (j : Job) : Bool := match j.src with
  | .sideband _ _ => true
  | _ => false

/-- What bars a command before its own rule applies: the path, the safe state, the Rook (R413, R415, R444). DESIGN CHOICE, log 29. -/
def barred (s : State) (j : Job) : Option Ans :=
  if (isHostOnly j.opcode && fromSideband j) || (j.opcode = 0x38 && !fromSideband j) then some (ansRet 9)
  else if s.flt.safe && !isReduced j.opcode then some (ansRet 4)
  else if s.rook.state = 2 || isReduced j.opcode then none
  else if s.rook.state = 4 then some (ansRet 5)
  else some (1, readyEstimate s, [])

def answer (id : Nat) (a : Ans) (s : State) : State :=
  { s with rook := { s.rook with jobs := mapWhere (fun j => decide (j.id = id)) (fun j => { j with ans := some a }) s.rook.jobs } }

/-- An unanswered command that changes state and came earlier (R410). -/
def mustWait (s : State) (j : Job) : Bool :=
  changesState j.opcode && s.rook.jobs.any fun k => k.id < j.id && k.ans.isNone && changesState k.opcode && knownOp k.opcode

/-- A command at which `p` holds runs and gets its answer. -/
def runJob (id : Nat) (p : Job → Bool) (s : State) (f : Job → State × Ans) : State :=
  match s.rook.jobs.find? fun j => j.id = id with
  | none => s
  | some j =>
    if j.ans.isSome || !p j || mustWait s j then s
    else match barred s j with
      | some a => answer id a s
      | none => let x := f j; answer id x.2 x.1

def isOp (op : Nat) (j : Job) : Bool := j.opcode = op
/-- A meaning of a command: Thimble or firmware runs it. -/
def job (id op : Nat) (s : State) (f : Job → State × Ans) : Host.Outcome State Fault Refusal :=
  live .aon s fun s => runJob id (isOp op) s f

def mgtStat (r : Rook) : W32 :=
  BitVec.ofNat 32 (r.state % 16 * 2 ^ 24 + min 0xFF r.restarts * 2 ^ 16 + r.slot % 2 * 2 ^ 8 + (if r.cfgRej then 4 else 0)
    + (if r.cfgOk then 2 else 0) + (if r.sigChk then 1 else 0))
def mgtFwver (r : Rook) : W32 := if r.state = 2 then r.fwver.setWidth 32 else 0

/-- GET_INFO (R412). -/
def execGetInfo (job_ : Nat) (s : State) := job job_ 0x01 s fun j =>
  (s, if j.payload ≠ [] then ansRet 3
      else (0, 0, leBytes 4 Config.idVersion.toNat ++ leBytes 4 (mgtStat s.rook).toNat ++ leBytes 4 (mgtFwver s.rook).toNat))

/-- Highest temperature as 16 bits (R412, R424, R480). -/
def tempBytes (p : Power) : Bytes := leBytes 2 (toBits 16 (if p.noSens then 0 else p.temp.toInt))

def healthBytes (s : State) : Bytes :=
  le64 s.devtime ++ tempBytes s.pwr
    ++ leBytes 2 ((if s.flt.safe then 1 else 0) + (if s.mem.lock then 2 else 0) + 4 * s.rook.qstate.toNat + (if s.pwr.fail ≠ 0 then 16 else 0))
    ++ leBytes 2 s.flt.pend ++ leBytes 2 (if s.flt.lost then 1 else 0)
/-- GET_HEALTH (R412, R432). -/
def execGetHealth (job_ : Nat) (s : State) := job job_ 0x02 s fun j =>
  (s, if j.payload ≠ [] then ansRet 3 else (0, 0, healthBytes s))

/-- The record at a position of FLT_RDSEL; zero when it holds none (R437). -/
def recAt (f : Flt) (pos : Nat) : Bytes :=
  let r := if pos = 0x100 then f.fatal else if pos < 0x100 then f.recs[pos]? else none
  (r.map Rec.bytes).getD (List.replicate 64 0)
/-- FAULT_READ (R412, R432). -/
def execFaultRead (job_ : Nat) (s : State) := job job_ 0x03 s fun j =>
  let n := num j.payload 2 2
  (s, if j.payload.length ≠ 4 || 60 < n then ansRet 3
      else (0, 0, (List.range n).flatMap fun i => recAt s.flt (num j.payload 0 2 + i)))

/-- A ring's context is enabled. -/
def ctxEnabled (s : State) (c : Nat) : Bool := bit (s.fe.ctxOf c).cfg 31

def faultRingE (j : Job) (s : State) : State × Ans :=
  let b := j.payload
  if b.length ≠ 24 then (s, ansRet 3)
  else if num b 8 8 = 0 then ({ s with rook := { s.rook with fring := none } }, ansOk)
  else if 4096 ≤ num b 0 2 || num b 2 1 < 4 || 12 < num b 2 1 || num b 3 5 ≠ 0 || num b 8 8 % 4096 ≠ 0 || num b 0x10 8 % 8 ≠ 0
      || !ctxEnabled s (num b 0 2) then (s, ansRet 3)
  else
    let r : FaultRing := { ctx := num b 0 2, log2n := num b 2 1, base := num b 8 8, tailAddr := num b 0x10 8 }
    ({ s with rook := { s.rook with fring := some r } }, ansOk)
/-- FAULT_RING (R434). -/
def execFaultRing (job_ : Nat) (s : State) := job job_ 0x04 s fun j => faultRingE j s

/-- A QUIESCE whose ACTION is `a`; ACTION 0 also stands for a payload that none accepts. -/
def isQuiesce (a : Nat) (j : Job) : Bool :=
  j.opcode = 0x08 && (if j.payload.length = 1 && num j.payload 0 1 < 4 then num j.payload 0 1 = a else a = 0)
def quiesceJob (id a : Nat) (s : State) (f : State → State × Ans) : Host.Outcome State Fault Refusal :=
  live .aon s fun s => runJob id (isQuiesce a) s fun j =>
    if j.payload.length ≠ 1 || 4 ≤ num j.payload 0 1 then (s, ansRet 3) else f s
/-- QUIESCE_START (R419). -/
def execQuiesceStart (job_ : Nat) (s : State) := quiesceJob job_ 0 s fun s =>
  if s.rook.qstate = 0 then (startQuiesce (graceOf s) s, ansOk) else (s, ansRet 4)
/-- QUIESCE_NOW (R419). -/
def execQuiesceNow (job_ : Nat) (s : State) := quiesceJob job_ 1 s fun s =>
  if s.rook.qstate = 0 || s.rook.qstate = 1 then (quiesceNowE s, ansOk) else (s, ansRet 4)
/-- QUIESCE_CANCEL (R419). -/
def execQuiesceCancel (job_ : Nat) (s : State) := quiesceJob job_ 2 s fun s =>
  if s.rook.qstate = 1 then ({ s with rook := { s.rook with qstate := 0 } }, ansOk) else (s, ansRet 4)
/-- QUIESCE_EXIT (R421). -/
def execQuiesceExit (job_ : Nat) (s : State) := quiesceJob job_ 3 s fun s =>
  if s.rook.qstate = 3 && !s.flt.safe then
    (releaseHeld (wakeMemory { s with rook := { s.rook with qstate := 0 }, fe := { s.fe with stopped := false } }), ansOk)
  else (s, ansRet 4)

/-- A one-byte payload of 0 or 1. -/
def onOff (j : Job) : Option Bool :=
  if j.payload.length = 1 && num j.payload 0 1 < 2 then some (num j.payload 0 1 = 1) else none
/-- LOCATE (R412, R422). -/
def execLocate (job_ : Nat) (s : State) := job job_ 0x09 s fun j => match onOff j with
  | some b => ({ s with rook := { s.rook with locate := b } }, ansOk)
  | none => (s, ansRet 3)
/-- POWER_CYCLE (R412, R458). -/
def execPowerCycle (job_ : Nat) (s : State) := job job_ 0x0A s fun j =>
  if j.payload ≠ [] then (s, ansRet 3) else ({ s with pwr := { s.pwr with pwrcyc := true } }, ansOk)

/-! ## Firmware update (R414) -/

def fwBeginE (j : Job) (s : State) : State × Ans :=
  let b := j.payload
  let k := num b 0 1
  let n := num b 4 4
  let other : Bool := match s.rook.session with
    | some x => x.owner ≠ j.src
    | none => false
  if b.length ≠ 8 || 2 ≤ k || num b 1 3 ≠ 0 || n < 256 || 0x100000 < n then (s, ansRet 3)
  else if (s.rook.loaded && s.rook.slot = k) || other then (s, ansRet 4)
  else
    let x : FwSession := { owner := j.src, slot := k, len := n, last := s.devtime }
    (emit (.flashErase k) { s with rook := { flashErase (slotBase k) 0x100000 s.rook with session := some x } }, ansOk)
/-- FW_BEGIN (R414). -/
def execFwBegin (job_ : Nat) (s : State) := job job_ 0x10 s fun j => fwBeginE j s

def fwDataE (j : Job) (s : State) : State × Ans :=
  let b := j.payload
  let off := num b 0 4
  let n := b.length - 4
  match s.rook.session with
  | none => (s, ansRet 4)
  | some x =>
    if x.owner ≠ j.src then (s, ansRet 4)
    else if b.length < 4 || 3836 < n || x.len < off + n then (s, ansRet 3)
    else ({ s with rook := { flashWrite (slotBase x.slot + off) (b.drop 4) s.rook with session := some { x with last := s.devtime } } }, ansOk)
/-- FW_DATA (R414). -/
def execFwData (job_ : Nat) (s : State) := job job_ 0x11 s fun j => fwDataE j s

def fwEndE (j : Job) (s : State) : State × Ans :=
  match s.rook.session with
  | none => (s, ansRet 4)
  | some x =>
    if x.owner ≠ j.src then (s, ansRet 4)
    else
      let t := { s with rook := { s.rook with session := none } }
      if j.payload ≠ [] then (t, ansRet 3)
      else if !imageValid s.rook x.slot then (t, ansRet 7)
      else if s.rook.loaded && imageSeq s.rook x.slot ≤ s.rook.imgSeq then (t, ansRet 4)
      else (t, ansOk)
/-- FW_END (R414). -/
def execFwEnd (job_ : Nat) (s : State) := job job_ 0x12 s fun j => fwEndE j s

/-- The Rook restarts under R402; every other command in progress ends with ABORTED (R404, R410). -/
def restartRook (keep : Nat) (s : State) : State :=
  let f (j : Job) : Job := if j.id ≠ keep && j.ans.isNone then { j with ans := some (ansRet 8) } else j
  { s with rook := { s.rook with state := 3, running0 := s.devtime, jobs := s.rook.jobs.map f } }

def fwActivateE (j : Job) (s : State) : State × Ans :=
  if j.payload ≠ [] then (s, ansRet 3)
  else if s.rook.session.isSome then (s, ansRet 4)
  else (setEvt 2 (restartRook j.id s), ansOk)
/-- FW_ACTIVATE (R414). -/
def execFwActivate (job_ : Nat) (s : State) := job job_ 0x13 s fun j => fwActivateE j s

/-- Reserved bytes and MAGIC of a configuration block (R403). -/
def cfgBlockBad (b : Bytes) : Bool :=
  b.length ≠ 64 || num b 0 4 ≠ 0x47464343 || 128 ≤ num b 0x11 1 || num b 0x12 2 ≠ 0 || anyByte b 0x1C 0x3B

def cfgWriteE (j : Job) (s : State) : State × Ans :=
  if cfgBlockBad j.payload then (s, ansRet 3)
  else
    let (k, seq) := match cfgBest s.rook with
      | some i => (1 - i, num (cfgCopy s.rook i) 4 4 + 1)
      | none => (0, 1)
    let b := j.payload.take 4 ++ leBytes 4 seq ++ slice j.payload 8 0x34
    ({ s with rook := flashWrite (0x10000 * k) (b ++ leBytes 4 (crc32c b)) s.rook }, ansOk)
/-- CFG_WRITE (R414): the other copy, with the next SEQ and its own CRC. -/
def execCfgWrite (job_ : Nat) (s : State) := job job_ 0x14 s fun j => cfgWriteE j s

def fwSessionTimeoutE (s : State) : State :=
  match s.rook.session with
  | none => s
  | some x =>
    if since s.devtime x.last < 60000000000 then s
    else emit (.flashErase x.slot) { s with rook := { flashErase (slotBase x.slot) 0x100000 s.rook with session := none } }
/-- FW_SESSION_TIMEOUT (R414): the slot is left erased. -/
def execFwSessionTimeout (s : State) := live .aon s fwSessionTimeoutE

/-! ## Supervision (R404) -/

/-- ROOK_HEARTBEAT (R404). -/
def execRookHeartbeat (s : State) := live .mgt s fun s =>
  if s.rook.state = 2 then { s with rook := { s.rook with beat := s.devtime } } else s

/-- No heartbeat for 1 s: a restart, at most 3 within 10 minutes, else FAILED (R404). -/
def heartbeatTimeoutE (s : State) : State :=
  if s.rook.state ≠ 2 || since s.devtime s.rook.beat < 1000000000 then s
  else
    let recent := s.rook.restartTimes.filter fun t => since s.devtime t < 600000000000
    let s := restartRook s.rook.nextJob s
    if 3 ≤ recent.length then { s with rook := { s.rook with state := 4, restartTimes := recent } }
    else
      let n := min 0xFF (s.rook.restarts + 1)
      let s := { s with rook := { s.rook with restarts := n, restartTimes := recent ++ [s.devtime] } }
      setEvt 1 (detect 8 (report 0x48 none locRook none n) s)
/-- HEARTBEAT_TIMEOUT (R404). -/
def execHeartbeatTimeout (s : State) := live .mgt s heartbeatTimeoutE

/-! ## Retained tables (R171) -/

/-- A catalogue entry (R170). -/
def CatEntry.bytes (e : CatEntry) : Bytes :=
  leBytes 2 e.table ++ leBytes 2 ((if e.okA then 1 else 0) + (if e.okB then 2 else 0)) ++ leBytes 4 e.desc.cfg.toNat
    ++ leBytes 4 e.desc.geom.toNat ++ leBytes 4 e.desc.shard.toNat ++ leBytes 8 (pair e.desc.rowsLo e.desc.rowsHi)
    ++ leBytes 4 e.desc.access.toNat ++ leBytes 4 e.desc.pg.toNat ++ leBytes 8 (pair e.desc.aLo e.desc.aHi)
    ++ leBytes 8 (pair e.desc.bLo e.desc.bHi) ++ le64 e.dgA ++ le64 e.dgB

def tableListAns (s : State) (start : Nat) : Ans :=
  let c := s.ret.list.getD { seq := 0, reason := 0, version := 0, entries := [] }
  let es := (c.entries.drop start).take 59
  (0, 0, le64 c.seq ++ leBytes 4 c.version.toNat ++ leBytes 1 c.reason ++ leBytes 1 es.length ++ leBytes 2 c.entries.length
    ++ es.flatMap CatEntry.bytes)
/-- TABLE_LIST (R171, R412). -/
def execTableList (job_ : Nat) (s : State) := job job_ 0x20 s fun j =>
  (s, if j.payload.length ≠ 2 then ansRet 3 else tableListAns s (num j.payload 0 2))

/-- The entry of a table in the catalogue list, from a two-byte payload. -/
def listed (s : State) (t : Nat) : Option CatEntry := (s.ret.list.map Catalogue.entries).getD [] |>.find? fun e => e.table = t

/-- A TABLE_* command: BAD_ARG for a payload that names no table, REFUSED for a table that the catalogue does not list. -/
def onEntry (j : Job) (s : State) (f : CatEntry → State × Ans) : State × Ans :=
  if j.payload.length ≠ 2 || Config.numTables ≤ num j.payload 0 2 then (s, ansRet 3)
  else match listed s (num j.payload 0 2) with
    | some e => f e
    | none => (s, ansRet 4)

/-- Digest of rows 0 to ROWS of a catalogued side, as the block reads them (R162). -/
def entryDigest (s : State) (e : CatEntry) (side : Nat) : W64 :=
  (List.range (e.desc.rows + 1)).foldl (fun (h : W64) r =>
    h + rowHash e.table r (devBytes s (shardHome e.table e.desc.shards r).2 (e.desc.rowAddr side r) e.desc.size)) 0
/-- TABLE_VERIFY (R171, R412). -/
def execTableVerify (job_ : Nat) (s : State) := job job_ 0x21 s fun j => onEntry j s fun e =>
  let res (ok : Bool) (side : Nat) (d : W64) : Byte := if !ok then 2 else if entryDigest s e side = d then 0 else 1
  let rec_ (ok : Bool) (side : Nat) (s : State) : State := if ok then recordNowhere e.table e.desc side s else s
  (rec_ e.okB 1 (rec_ e.okA 0 s), (0, 0, [res e.okA 0 e.dgA, res e.okB 1 e.dgB]))

/-- The entry becomes descriptor t, VALID; sides without a catalogued digest are scanned. -/
def adopt (e : CatEntry) (s : State) : State :=
  let d : TblDesc := { e.desc with cfg := e.desc.cfg ||| 0x80000000#32 }
  let dg (ok : Bool) (v : W64) : Digest := if ok then { st := .ok, val := v, cursor := 0 } else { st := .scanning, val := 0, cursor := 0 }
  let dig := fset {} (fset {} s.tbl.dig (digKey e.table 0) (dg e.okA e.dgA)) (digKey e.table 1) (dg e.okB e.dgB)
  { s with tbl := { s.tbl with desc := fset {} s.tbl.desc e.table d, dig := dig } }
/-- TABLE_ADOPT (R171). -/
def execTableAdopt (job_ : Nat) (s : State) := job job_ 0x22 s fun j => onEntry j s fun e =>
  let d : TblDesc := { e.desc with cfg := e.desc.cfg ||| 0x80000000#32 }
  if (tableOf s e.table).valid || commitRefused s.rat.com (tableOf s e.table) d then (s, ansRet 4) else (adopt e s, ansOk)
/-- TABLE_DISCARD (R171). -/
def execTableDiscard (job_ : Nat) (s : State) := job job_ 0x23 s fun j => onEntry j s fun e =>
  let f (c : Catalogue) : Catalogue := { c with entries := c.entries.filter fun x => x.table ≠ e.table }
  ({ s with ret := { s.ret with list := s.ret.list.map f } }, ansOk)

/-! ## Telemetry (R423, R424) -/

def telemRingE (j : Job) (s : State) : State × Ans :=
  let b := j.payload
  if b.length ≠ 16 then (s, ansRet 3)
  else if num b 4 2 = 0 then ({ s with rook := { s.rook with telem := none } }, ansOk)
  else if 4096 ≤ num b 0 2 || num b 2 1 < 4 || 12 < num b 2 1 || num b 3 1 ≠ 0 || 10000 < num b 4 2 || num b 6 2 ≠ 0
      || num b 8 8 % 256 ≠ 0 || !ctxEnabled s (num b 0 2) then (s, ansRet 3)
  else
    let r : TelemRing := { ctx := num b 0 2, log2n := num b 2 1, period := num b 4 2, base := num b 8 8 }
    ({ s with rook := { s.rook with telem := some r } }, ansOk)
/-- TELEM_RING (R423). -/
def execTelemRing (job_ : Nat) (s : State) := job job_ 0x30 s fun j => telemRingE j s

/-- TELEM_READ (R424); before the first snapshot nothing states what it returns. -/
def execTelemRead (job_ : Nat) (s : State) := job job_ 0x31 s fun j =>
  if j.payload ≠ [] then (s, ansRet 3)
  else if s.rook.latest ≠ [] then (s, (0, 0, s.rook.latest))
  else ({ s with freeCtr := s.freeCtr + 256 }, (0, 0, (List.range 256).map fun i => Config.freeBits 8 (s.freeCtr + i)))

/-- EVENT_ENABLE (R418). -/
def execEventEnable (job_ : Nat) (s : State) := job job_ 0x38 s fun j =>
  match onOff j, j.src with
  | some true, .sideband _ eid => ({ s with rook := { s.rook with eventEid := some eid } }, ansOk)
  | some false, _ => ({ s with rook := { s.rook with eventEid := none } }, ansOk)
  | _, _ => (s, ansRet 3)

/-- UNKNOWN_MAILBOX_OPCODE (R413). -/
def execUnknownMailboxOpcode (job_ : Nat) (s : State) := live .aon s fun s =>
  runJob job_ (fun j => !knownOp j.opcode) s fun _ => (s, ansRet 2)

/-- Growth of a press count since the last snapshot, modulo 2^48. -/
def pressGrowth (s : State) (c : Nat) : W64 :=
  ((fget 0 s.simt.busy c) - (fget 0 s.rook.counts.prsSeen c) : BitVec 48).setWidth 64

def takePress (s : State) : TelemCounts :=
  let k := s.rook.counts
  { k with
    press := (List.range 64).foldl (fun m c => fmod 0 m (c / 8) (· + pressGrowth s c)) k.press
    prsSeen := s.simt.busy }

/-- Power cap in force (R478, R480). -/
def capInForce (s : State) : Nat := if s.pwr.hot || s.pwr.noSens then 120 else fld (rget s 0x120000) 8 0

/-- Bytes 0x00 to 0xFB of the telemetry record. -/
def telemBody (s : State) (k : TelemCounts) : Bytes :=
  leBytes 4 k.seq.toNat ++ leBytes 2 0x100 ++ leBytes 2 0 ++ le64 s.devtime
    ++ leBytes 4 (if k.powerN = 0 then 0 else 1000 * k.powerAcc / k.powerN) ++ tempBytes s.pwr ++ leBytes 2 (capInForce s)
    ++ le64 k.ok ++ le64 k.resigned ++ le64 k.failed ++ le64 k.rows ++ le64 k.defaults
    ++ (List.range 8).flatMap (fun p => le64 (fget 0 k.press p)) ++ (List.range 8).flatMap (fun p => le64 (fget 0 k.near p))
    ++ le64 k.far ++ le64 k.dcHit ++ le64 k.dcMiss ++ leBytes 4 k.faults.toNat ++ leBytes 4 k.faultsLost.toNat
    ++ leBytes 4 k.commits.toNat ++ leBytes 4 k.migrations.toNat ++ leBytes 4 k.corrected.toNat ++ leBytes 4 k.skipped.toNat
    ++ List.replicate 12 0

def telemetrySnapshotE (s : State) : State :=
  let period := match s.rook.telem with
    | some r => r.period
    | none => 100
  if s.rook.state ≠ 2 || s.flt.safe || since s.devtime s.rook.snapAt < 1000000 * period then s
  else match s.rook.telem with
    | some { part := some _, .. } =>
      { s with rook := { s.rook with snapAt := s.devtime, counts := { s.rook.counts with skipped := s.rook.counts.skipped + 1 } } }
    | _ =>
      let k := takePress s
      let b := telemBody s { k with seq := k.seq + 1 }
      let s := { s with rook := { s.rook with
        snapAt := s.devtime
        counts := { k with powerAcc := 0, powerN := 0 }
        latest := b ++ leBytes 4 (crc32c b)
        telem := s.rook.telem.map fun r => { r with part := some 0 } } }
      telemPump s
/-- TELEMETRY_SNAPSHOT (R423, R424). -/
def execTelemetrySnapshot (s : State) := live .mgt s telemetrySnapshotE

/-! ## The host fault ring (R433, R434) -/

/-- The record that firmware mirrors next: one raised with NMI, else the oldest pending. -/
def nextMirror (f : Flt) : Option Rec :=
  match f.recs.find? fun r => r.pending && f.nmi.contains r.seq with
  | some r => some r
  | none => f.recs.find? Rec.pending

def releaseSeq (q : Nat) (f : Flt) : Flt :=
  { f with recs := mapWhere (fun r => decide (r.seq = q)) (fun r => { r with pending := false }) f.recs, nmi := f.nmi.filter (· ≠ q) }

/-- Writes a record to the ring; once the host has observed it, its SEQ to the tail word, and the record is released. -/
def faultRecordMirrorE (s : State) : State :=
  match s.rook.fring with
  | none => s
  | some r =>
    let put (m : Option Nat) (s : State) : State := { s with rook := { s.rook with fring := some { r with mirror := m } } }
    if s.rook.state ≠ 2 || s.flt.safe || quiesced s || whoOut s (.ring false) then s
    else match r.mirror with
      | some q =>
        ringWrite false r.ctx r.tailAddr s fun pa =>
          let s := put none (writePhys (.ring false) none pa (leBytes 8 q) s)
          { s with flt := releaseSeq q s.flt }
      | none => match nextMirror s.flt with
        | none => s
        | some x =>
          ringWrite false r.ctx (r.base + 64 * (x.seq % 2 ^ r.log2n)) s fun pa =>
            put (some x.seq) (writePhys (.ring false) none pa x.bytes s)
/-- FAULT_RECORD_MIRROR (R433, R434). -/
def execFaultRecordMirror (s : State) := live .mgt s faultRecordMirrorE

/-! ## Mailboxes (R408, R409) -/

def mbx (m off : Nat) : Nat := 0x100000 + 0x1000 * m + off

/-- The response of a mailbox: payload, RET, LEN, AUX, then BUSY and DONE in one step. -/
def postMailbox (m : Nat) (a : Ans) (s : State) : State :=
  let ctl := rget s (mbx m 4)
  let s := { s with rook := { s.rook with payload := memWrite s.rook.payload (placed (0x1000 * m + 0x100) a.2.2) } }
  let s := rset (mbx m 0xC) (BitVec.ofNat 32 (a.2.1 % 2 ^ 31)) (rset (mbx m 8) (BitVec.ofNat 32 (a.1 * 2 ^ 16 + a.2.2.length)) s)
  let s := rset (mbx m 4) ((ctl &&& 0x100#32) ||| 2#32) s
  if bit ctl 8 then mgtEvent s else s

def addJob (src : JobSrc) (op : Nat) (payload : Bytes) (s : State) : State :=
  { s with rook := { s.rook with
      nextJob := s.rook.nextJob + 1
      jobs := s.rook.jobs ++ [{ id := s.rook.nextJob, src := src, opcode := op, payload := payload }] } }

/-- GO of a mailbox: its command is taken; LEN above 3,840 ends at once. -/
def mbxGo (m : Nat) (s : State) : State :=
  let cmd := rget s (mbx m 0)
  let n := fld cmd 11 0
  let s := rset (mbx m 4) ((rget s (mbx m 4) &&& 0x100#32) ||| 4#32) s
  if 3840 < n then postMailbox m (ansRet 3) s
  else addJob (.mailbox m) (fld cmd 23 16) (memRead s.rook.payload (0x1000 * m + 0x100) n) s

def mbxBusy (s : State) (m : Nat) : Bool := bit (rget s (mbx m 4)) 2

/-- Write of a mailbox register other than payload. -/
def mbxWriteE (m off : Nat) (v : W32) (s : State) : State :=
  if off = 0 then (if mbxBusy s m then s else rset (mbx m 0) (v &&& 0x00FF0FFF#32) s)
  else if off = 4 then
    let r := rget s (mbx m 4)
    let r := if bit v 1 then r &&& 4#32 else r &&& 6#32
    let s := rset (mbx m 4) (r ||| (v &&& 0x100#32)) s
    if bit v 0 && !mbxBusy s m then mbxGo m s else s
  else s

/-- Enabled bytes of a payload word (R496); discarded while BUSY is 1 (R409). -/
def mbxPayloadWrite (m off : Nat) (v : W32) (be : BitVec 4) (s : State) : State :=
  if mbxBusy s m then s
  else
    let bs := (placed (0x1000 * m + off) (leBytes 4 v.toNat)).filter fun b => be.getLsbD (b.1 % 4)
    { s with rook := { s.rook with payload := memWrite s.rook.payload bs } }

def mailboxResponseE (id : Nat) (s : State) : State :=
  match s.rook.jobs.find? fun j => j.id = id with
  | none => s
  | some j => match j.ans with
    | none => s
    | some a =>
      let s := { s with rook := { s.rook with jobs := s.rook.jobs.filter fun k => k.id ≠ id } }
      match j.src with
      | .mailbox m => if up s .hif then postMailbox m a s else s
      | .sideband tag eid => emit .i3cIbi (emit (.sideband tag eid (sbMessage s.hif.ids j.opcode 1 a.1 a.2.1 a.2.2)) s)
      | .gone => s
/-- MAILBOX_RESPONSE (R409, R418). -/
def execMailboxResponse (job : Nat) (s : State) := live .aon s (mailboxResponseE job)

/-! ## The side-band (R415 to R418) -/

/-- Thimble answers from 20 ms after `PORST_N`, at an address that the bus has given it. DESIGN CHOICE, log 24. -/
def sbReady (s : State) : Bool := 20000000 ≤ s.devtime.toNat && s.rook.dynAddr.isSome

def sbReply (tag eid op : Nat) (a : Ans) (s : State) : State :=
  emit .i3cIbi (emit (.sideband tag eid (sbMessage s.hif.ids op 1 a.1 a.2.1 a.2.2)) s)

def sidebandRequestE (tag eid : Nat) (msg : Bytes) (s : State) : State :=
  let op := num msg 4 1
  let v := s.hif.ids.getD 0 0xFFFE
  if !sbReady s || 3852 < msg.length || msg.length < 12 || num msg 0 1 ≠ 0x7E || num msg 1 1 * 256 + num msg 2 1 ≠ v
      || num msg 5 1 % 4 ≠ 0 then s
  else if num msg 3 1 ≠ 1 then sbReply tag eid op (ansRet 3) s
  else if num msg 5 1 ≠ 0 || num msg 6 2 ≠ 0 || num msg 8 4 ≠ 0 then sbReply tag eid op (ansRet 3) s
  else if 4 ≤ (s.rook.jobs.filter fromSideband).length then sbReply tag eid op (ansRet 1) s
  else addJob (.sideband tag eid) op (msg.drop 12) s
/-- SIDEBAND_REQUEST (R417, R418). -/
def execSidebandRequest (tag eid : Nat) (msg : Bytes) (s : State) := live .aon s (sidebandRequestE tag eid msg)

/-- A control message answered with a completion code and its data, as DSP0236 lays it out (PRESUMED, log 32). -/
def control (cmd : Nat) (b : Bytes) (s : State) : State :=
  if sbReady s then emit (.mctpControl (BitVec.ofNat 8 cmd) b) s else s

/-- SET_ENDPOINT_ID (R417). -/
def execSetEndpointId (eid : Nat) (s : State) := live .aon s fun s =>
  if !sbReady s then s
  else if eid = 0 || 255 ≤ eid then control 1 (leBytes 1 2 ++ leBytes 1 0 ++ leBytes 1 s.rook.eid ++ leBytes 1 0) s
  else control 1 (leBytes 1 0 ++ leBytes 1 0 ++ leBytes 1 eid ++ leBytes 1 0) { s with rook := { s.rook with eid := eid } }
/-- GET_ENDPOINT_ID (R417). -/
def execGetEndpointId (s : State) := live .aon s fun s =>
  control 2 (leBytes 1 0 ++ leBytes 1 s.rook.eid ++ leBytes 1 0 ++ leBytes 1 0) s
/-- GET_MCTP_VERSION_SUPPORT (R417): one version, whose number the manual does not give. -/
def execGetMctpVersionSupport (kind : Byte) (s : State) := live .aon s fun s =>
  if kind = 0xFF#8 || kind = 0 then useFree (control 4 (leBytes 1 0 ++ leBytes 1 1 ++ leBytes 4 (freeVal 32 s).toNat) s)
  else control 4 (leBytes 1 0x80) s
/-- GET_MESSAGE_TYPE_SUPPORT (R417). -/
def execGetMessageTypeSupport (s : State) := live .aon s fun s => control 5 (leBytes 1 0 ++ leBytes 1 1 ++ leBytes 1 0x7E) s
/-- GET_VENDOR_DEFINED_MSG_SUPPORT (R417): the command set's type field is not given. -/
def execGetVendorDefinedMsgSupport (selector : Byte) (s : State) := live .aon s fun s =>
  let v := s.hif.ids.getD 0 0xFFFE
  if selector ≠ 0 then control 6 (leBytes 1 2) s
  else useFree (control 6
    (leBytes 1 0 ++ leBytes 1 0xFF ++ leBytes 1 0 ++ leBytes 1 (v / 256) ++ leBytes 1 v ++ leBytes 2 (freeVal 16 s).toNat) s)
/-- UNSUPPORTED_MCTP_CONTROL_COMMAND (R417): ERROR_UNSUPPORTED_CMD. -/
def execUnsupportedMctpControlCommand (cmd : Byte) (s : State) := live .aon s fun s =>
  if cmd ∈ [1#8, 2#8, 4#8, 5#8, 6#8] then s else control cmd.toNat (leBytes 1 5) s

/-- SETDASA (R416). -/
def execSetdasa (addr dyn : BitVec 7) (s : State) := live .aon s fun s =>
  if addr = s.rook.sbAddr && s.rook.dynAddr.isNone then { s with rook := { s.rook with dynAddr := some dyn } } else s
/-- SETAASA (R416). -/
def execSetaasa (s : State) := live .aon s fun s =>
  if s.rook.dynAddr.isNone then { s with rook := { s.rook with dynAddr := some s.rook.sbAddr } } else s

end Sys2Proof.Machine
end

