-- ==== Sys2Proof/Machine/Power.lean ====
section
/-! DEFINITION. Power domains, resets and straps (R462 to R468, R485 to R487), clock and PLL gating (R473, R474), the power cap
(R477 to R479), the temperature sensors (R480), and the retention sequence of `PERST_N` (R165, R166). -/

namespace Sys2Proof.Machine

/-! ## Switching domains (R463, R465) -/

def setDom (m : BitVec 11) (d : Nat) (b : Bool) : BitVec 11 :=
  if b then m ||| BitVec.ofNat 11 (2 ^ d) else m &&& ~~~(BitVec.ofNat 11 (2 ^ d))

/-- Thimble asserts `PDOM_EN[d]`, unless a domain has failed (R467). -/
def powerOn (d : Nat) (s : State) : State :=
  if s.pwr.fail ≠ 0 || s.pwr.en.getLsbD d then s
  else emit (.pdomEn d true) { s with pwr := { s.pwr with en := setDom s.pwr.en d true, enAt := s.devtime } }

/-- Thimble resets, isolates and switches off domain d. -/
def powerOff (d : Nat) (s : State) : State :=
  let p := s.pwr
  if p.en.getLsbD d then
    emit (.pdomEn d false) { s with pwr := { p with
      en := setDom p.en d false, iso := setDom p.iso d true, on := setDom p.on d false, lockd := setDom p.lockd d false } }
  else s

/-- The domain after d in the order of R465. -/
def domAfter (d : Nat) : Option Nat := if d = 0 then some 1 else if d = 1 then some 3 else if d = 2 then none else if d = 10 then some 2 else some (d + 1)

/-- Goes on with the domain after d; without FAB while `PERST_N` is low. -/
def powerNext (d : Nat) (s : State) : State :=
  match domAfter d with
  | some e => if s.pwr.perstLow then s else powerOn e s
  | none => { s with hif := { s.hif with linkHold := false } }

def pdomAckE (d : Nat) (up_ : Bool) (s : State) : State :=
  if 11 ≤ d then s
  else
    let s := { s with pwr := { s.pwr with ack := setDom s.pwr.ack d up_ } }
    if up_ && s.pwr.en.getLsbD d && !s.pwr.on.getLsbD d then
      powerNext d { s with pwr := { s.pwr with iso := setDom s.pwr.iso d false, on := setDom s.pwr.on d true } }
    else s
/-- PDOM_ACK (R463, R465). -/
def execPdomAck (d : Nat) (up : Bool) (s : State) := live .aon s (pdomAckE d up)

/-- Every unit of the domains of `PERST_N` is as after its reset; the AON registers and the Rook stay (R435, R466). DEDUCED, log 37. -/
def perstKeeps (off : Nat) : Bool :=
  (0x83000 ≤ off && off < 0x8300C) || off = 0xF0010 || (0x110000 ≤ off && off < 0x110100)

/-- The ports' queues are empty and the controllers keep what was written; the block holds no credit (R490). -/
def portsOff (refresh : Bool) (s : State) : State :=
  let put (s : State) (r : PReq) : State :=
    if r.op = .wr then { s with dram := memWrite s.dram r.bytes, poison := storePoison s.poison r } else s
  let s := (s.ports.flatMap fun e => e.2.queue.filter fun r => !r.cond).foldl put s
  let f (e : Nat × Port) : Nat × Port :=
    (e.1, { e.2 with credits := 0, queue := [], sent := [], ready := false, selfRefresh := refresh, passes := 0 })
  { s with ports := s.ports.map f }

/-- HIF, PART[7] to PART[0] and FAB go off (R466). -/
def domainsOff (s : State) : State :=
  [2, 10, 9, 8, 7, 6, 5, 4, 3, 1].foldl (fun s d => powerOff d s) (wipe perstKeeps { ids := s.hif.ids } s)

/-- PDOM_ACK_TIMEOUT (R467). -/
def pdomAckTimeoutE (d : Nat) (s : State) : State :=
  let p := s.pwr
  if 11 ≤ d || !p.en.getLsbD d || p.on.getLsbD d || since s.devtime p.enAt < 1000000 then s
  else
    let s := powerOff d s
    let s := { s with pwr := { s.pwr with fail := setDom s.pwr.fail d true }, flt := { s.flt with errn := true } }
    if d = 0 || d = 2 then s else domainsOff (portsOff false s)
def execPdomAckTimeout (d : Nat) (s : State) := live .aon s (pdomAckTimeoutE d)

/-- TRN to the ports of partition p once its domain runs: KEEP = 0 after `PORST_N`, KEEP = 1 to the ports present after a `PERST_N`
(R306, R307, R398). -/
def trainPorts (p : Nat) (s : State) : State :=
  let mine (n : Nat) : Bool := decide (partOfPort n = p)
  if !s.mem.mapped then ((List.range 144).filter mine).foldl (fun s n => portEnqueue n { op := .trn false } s) s
  else (presentPorts s.mem mine).foldl (fun s n => portEnqueue n { op := .trn true } s) s

/-- A domain's PLL locks and its reset is released; the Rook then reads its image (R398, R402, R463). -/
def pllLockE (d : Nat) (s : State) : State :=
  if 11 ≤ d || d = 2 || !s.pwr.on.getLsbD d || s.pwr.lockd.getLsbD d then s
  else
    let s := { s with pwr := { s.pwr with lockd := setDom s.pwr.lockd d true } }
    if d = 0 then (if s.rook.state = 0 then { s with rook := { s.rook with state := 1 } } else s)
    else if 3 ≤ d then trainPorts (d - 3) s
    else s
/-- PLL_LOCK (R463). -/
def execPllLock (d : Nat) (s : State) := live .aon s (pllLockE d)

/-! ## `PORST_N` (R465, R485) and the straps (R486, R487) -/

/-- Every domain is reset at once; pins, fuses and the flash are what they are, and memory is as after power-on (R468). -/
def porstAssertE (s : State) : State :=
  { State.reset with
    pending := s.pending
    freeCtr := s.freeCtr
    out := s.out
    rook := { State.reset.rook with
      flash := s.rook.flash, sbAddr := s.rook.sbAddr, testClosed := s.rook.testClosed, keyDigest := s.rook.keyDigest }
    pwr := { State.reset.pwr with perstLow := s.pwr.perstLow } }
/-- PORST_ASSERT (R485). -/
def execPorstAssert (s : State) : Host.Outcome State Fault Refusal := .next (porstAssertE s)

/-- PORST_DEASSERT (R465): DEVTIME starts at 0 and MGT is powered first. -/
def porstDeassertE (s : State) : State :=
  if s.pwr.porstLow then powerOn 0 { s with devtime := 0, pwr := { s.pwr with porstLow := false } } else s
def execPorstDeassert (s : State) : Host.Outcome State Fault Refusal := .next (porstDeassertE s)

/-- STRAP_SAMPLE (R486, R487): once, after `PORST_N`. -/
def strapSampleE (retain ftest : Bool) (s : State) : State :=
  if s.pwr.sampled then s
  else { s with pwr := { s.pwr with sampled := true, retain := retain, ftest := ftest && !s.rook.testClosed } }
def execStrapSample (retain ftest : Bool) (s : State) := live .aon s (strapSampleE retain ftest)

/-! ## `PERST_N` (R165, R166, R466) -/

/-- The sequence of R166, where the block runs; without `RETAIN_EN` memory is not retained. -/
def perstWork (s : State) : State :=
  if !up s .fab then portsOff s.pwr.retain s
  else
    let s := discardCommands { s with fe := { s.fe with stopped := true }, upd := {} }
    let s := if s.hif.linkUp then evictHost s else dropHost s
    if s.flt.safe then portsOff true s
    else if s.pwr.retain then portsOff true (retainSteps (some 1) s)
    else
      let s := portsOff false s
      { s with dram := [], poison := [] }

def perstAssertE (s : State) : State :=
  if s.pwr.perstLow then s
  else
    let s := { s with pwr := { s.pwr with perstLow := true } }
    if s.pwr.porstLow then s
    else
      let q := s.rook.qstate
      let s := domainsOff (perstWork s)
      if q = 1 || q = 2 then { s with rook := { s.rook with qstate := 3 } } else s
/-- PERST_ASSERT (R166, R421, R466). -/
def execPerstAssert (s : State) : Host.Outcome State Fault Refusal := .next (perstAssertE s)

/-- The domains are powered again; the block leaves the quiesced and the safe state (R421, R445). -/
def perstDeassertE (s : State) : State :=
  if !s.pwr.perstLow then s
  else
    let s := { s with pwr := { s.pwr with perstLow := false } }
    if s.pwr.porstLow then s
    else
      let s := { s with
        pwr := { s.pwr with bootAt := s.devtime }
        hif := { s.hif with cfgFrom := s.devtime }
        fe := { s.fe with stopped := false }
        rook := { s.rook with qstate := 0 }
        flt := if s.flt.safe then { s.flt with safe := false, errn := false } else s.flt }
      if s.pwr.on.getLsbD 0 then powerOn 1 s else s
/-- PERST_DEASSERT (R466). -/
def execPerstDeassert (s : State) : Host.Outcome State Fault Refusal := .next (perstDeassertE s)

/-- HOT_RESET (R395): an assertion and a deassertion of `PERST_N`. -/
def execHotReset (s : State) := live .hif s fun s => if s.hif.linkUp then perstDeassertE (perstAssertE s) else s

/-- REFCLK_LOSS (R472). -/
def execRefclkLoss (s : State) := live .aon s fun s => { s with pwr := { s.pwr with refLoss := true } }

/-! ## Gating (R473, R474) -/

/-- A group that could issue. -/
def groupReady (g : Group) : Bool := g.wait = .none && g.exited ≠ BitVec.allOnes 32

/-- A compute cluster meets the conditions of R473. -/
def clusterIdle (s : State) (k : Nat) : Bool :=
  let mine (c : Nat) : Bool := decide (c / 4 = k)
  !(s.simt.launches.any fun l => l.teams.any fun t => mine t.core && t.groups.any groupReady)
  && !(s.simt.streams.any fun e => mine (e.1 / 2) && (e.2.queue ≠ [] || e.2.running ≠ []))
  && !(s.mov.xfers.any fun x => match x.owner with
      | .simt _ _ _ c _ _ => mine c && x.rows.any fun r => !r.done
      | _ => false)
  && !(s.simt.cores.any fun e => mine e.1 && (e.2.miss ≠ [] || e.2.wb ≠ [] || e.2.notices ≠ []))
  && !(s.dc.slices.any fun e => e.2.txns.any fun t => (t.snoops ++ t.answers).any mine)
  && !(s.fe.cmds.any fun c => gpSpace c.bytes = 2 && mine (outCore c.bytes (c.home.getD 0)) && match c.work with
      | .gather g => g.stage = .landing
      | _ => false)

/-- A gather cluster holds no sub-request and no sequencer work. -/
def gatherIdle (s : State) (p : Nat) : Bool := !s.fe.cmds.any (gatherWorkIn p)

def clockStopE (k : Nat) (s : State) : State :=
  if 72 ≤ k || clusterInReset s k then s
  else if (if k < 64 then clusterIdle s k else gatherIdle s (k - 64)) then
    { s with pwr := { s.pwr with
        cluStop := fset false s.pwr.cluStop k true
        idleFrom := fset 0 s.pwr.idleFrom (partOfCluster k) s.devtime } }
  else s
/-- CLOCK_STOP (R473). -/
def execClockStop (cluster : Nat) (s : State) := live (.part (partOfCluster cluster)) s (clockStopE cluster)

/-- The conditions of R474 on a partition's work. -/
def partIdle (s : State) (p : Nat) : Bool :=
  (List.range 8).all (fun i => fget false s.pwr.cluStop (8 * p + i)) && fget false s.pwr.cluStop (64 + p)
  && !(s.dc.slices.any fun e => e.1 / 8 = p && (e.2.fills ≠ [] || e.2.txns ≠ [] || e.2.pfills ≠ [] || e.2.busy))
  && !(s.dc.writes.any fun w => lineHome w.line / 8 = p) && !(s.dc.want.any fun l => lineHome l / 8 = p)
  && !(s.simt.cores.any fun e => e.2.miss.any (fun m => lineHome m.line / 8 = p)
        || e.2.sb.any fun x => x.level = .core && lineHome x.line / 8 = p)
  && !(s.upd.staging.any fun r => r.slice / 8 = p)
  && !(s.ports.any fun e => partOfPort e.1 = p && e.2.queue ++ e.2.sent ≠ [])
  && !(s.mig.fwd.any fun f => fwdPart s f.table f.row = p && f.st ≠ .forwarded)
  && !(s.mig.waiting.any fun x => fwdPart s x.table x.row = p)
  && !partInReset s p

/-- PLLSTOP is 1 and the conditions have held for PLL_IDLE (R474, R475). -/
def mayStopPll (s : State) (p : Nat) : Bool :=
  let v := rget s (0x120100 + 4 * p)
  bit v 30 && partIdle s p && 1000 * fld v 15 0 ≤ since s.devtime (fget 0 s.pwr.idleFrom p)

/-- The L1s of a partition write back their lines in M and give up every other line. -/
def flushL1s (p : Nat) (s : State) : State :=
  (List.range 32).foldl (fun s i =>
    let c := 32 * p + i
    let s := writeBackL1 c s
    let s := (coreAt s c).l1.foldl (fun s l => dirRemove c l.line s) s
    modCore c (fun k => { k with l1 := [] }) s) s

def pllStopE (p : Nat) (s : State) : State :=
  if 8 ≤ p || !mayStopPll s p then s
  else
    let s := flushL1s p s
    let s := ((hostLines s).filter fun x => x.1 / 8 = p).foldl (fun s x => evictLine x.1 x.2 s) s
    let s := (s.ports.filter fun e => partOfPort e.1 = p && e.2.ready && !e.2.selfRefresh).foldl
      (fun s e => portEnqueue e.1 { op := .sre } s) s
    { s with pwr := { s.pwr with pllOff := s.pwr.pllOff ||| BitVec.ofNat 8 (2 ^ p) } }
/-- PLL_STOP (R474). -/
def execPllStop (part : Nat) (s : State) := live (.part part) s (pllStopE part)
/-- PLL_RESTART (R474). -/
def execPllRestart (part : Nat) (s : State) := live (.part part) s (wakePart part)

/-! ## Power cap (R471, R477 to R479) -/

/-- The step and the ticks below 0.9 of the cap, after a tick. -/
def Power.control (p : Power) (watts cap : Nat) : Power :=
  if cap < watts then { p with step := p.step - 1, below := 0 }
  else if 10 * watts < 9 * cap then
    (if 100 ≤ p.below + 1 then { p with step := min 9 (p.step + 1), below := 0 } else { p with below := p.below + 1 })
  else { p with below := 0 }

/-- A tick of the controller; the estimate is the tick's operand (R478; DESIGN CHOICE, log 35). -/
def powerControlTickE (watts : Nat) (s : State) : State :=
  let cap := capInForce s
  let s := { s with
    pwr := { s.pwr.control watts cap with samples := (watts :: s.pwr.samples).take 1000 }
    rook := { s.rook with counts := { s.rook.counts with
      powerAcc := s.rook.counts.powerAcc + watts, powerN := s.rook.counts.powerN + 1 } } }
  { s with pwr := { s.pwr with isOver := cap < watts && (List.range 64).all fun c => fcur s c = 0 } }
/-- POWER_CONTROL_TICK (R478). -/
def execPowerControlTick (watts : Nat) (s : State) := live .fab s (powerControlTickE watts)

/-- POWER: the average of the last 10 ms, in W (R481). -/
def avgPower (p : Power) : Nat := p.samples.foldl (· + ·) 0 / max 1 p.samples.length

/-! ## Temperature (R480) -/

/-- A sensor's last reading, and when it was valid last. -/
def takeReading (now : W64) (p : Power) (k : Nat) (r : Option (BitVec 12)) : Power :=
  match r with
  | some v => { p with sens := fset none p.sens k (some v), sensAt := fset 0 p.sensAt k now }
  | none => p

/-- Readings of the used sensors that count: valid within the last 100 ms. -/
def liveReadings (s : State) (p : Power) : List Int :=
  ((List.range 8).filter fun k => (fld (rget s 0x120004) 23 16).testBit k && since s.devtime (fget 0 p.sensAt k) < 100000000).filterMap
    fun k => (fget none p.sens k).map BitVec.toInt

def tempSampleE (rs : List (Option (BitVec 12))) (s : State) : State :=
  let p := (List.range 8).foldl (fun p k => takeReading s.devtime p k (rs.getD k none)) s.pwr
  let l := liveReadings s p
  match l with
  | [] => { s with pwr := { p with noSens := true, temp := 0 } }
  | x :: r =>
    let t := r.foldl max x
    let r4 := rget s 0x120004
    let hotAt : Int := 8 * (fld r4 7 0 : Nat)
    let hot := if hotAt ≤ t then true else if t ≤ hotAt - 40 then false else p.hot
    let s := { s with pwr := { p with noSens := false, temp := BitVec.ofInt 12 t, hot := hot } }
    if (8 * (fld r4 15 8 : Nat) : Int) ≤ t then quiesceNowE s else s
/-- TEMP_SAMPLE (R480). -/
def execTempSample (readings : List (Option (BitVec 12))) (s : State) := live .aon s (tempSampleE readings)

/-! ## Indicators and pins (R422, R440, R458) -/

/-- `IND_ATTN` (R422). -/
inductive Attn where
  | off | on | hz1 | hz4
deriving DecidableEq, Repr

def indAttn (s : State) : Attn :=
  if s.rook.qstate = 1 || s.rook.qstate = 2 then .hz4
  else if s.flt.safe || s.rook.state = 4 then .on
  else if s.rook.locate then .hz1 else .off
/-- `IND_SAFE` (R422). -/
def indSafe (s : State) : Bool := s.rook.qstate = 3
/-- `ERR_N` asserted (R440). -/
def errPin (s : State) : Bool := s.flt.errn
/-- `PWRCYC_REQ` (R458). -/
def powerCycleReq (s : State) : Bool := s.pwr.pwrcyc

end Sys2Proof.Machine
end

