-- ==== Sys2Proof/Machine/Clock.lean ====
section
/-! DEFINITION. One rising edge of `ACLK` (R469): DEVTIME advances (R482), the LFSRs of the running partitions take the 60 FCLK
cycles of 40 ns at 1.5 GHz (R260, R276, R470), the time with a fetch outstanding grows (R354), and a partition at work starts its
idle time anew (R474). It is no command: it is what
the block does when none waits (DESIGN CHOICE, log 1). -/

namespace Sys2Proof.Machine

/-- One FCLK cycle of a victim LFSR (R260). -/
def lfsrNext (x : W16) : W16 := (x >>> 1) ^^^ (if x.getLsbD 0 then 0xB400#16 else 0#16)

def lfsrSteps : Nat → W16 → W16
  | 0, x => x
  | n + 1, x => lfsrSteps n (lfsrNext x)

/-- FCLK of a partition runs: its domain is up, its PLL is not stopped, `REFCLK` is not lost. -/
def fclkRuns (s : State) (p : Nat) : Bool := up s (.part p) && !s.pwr.pllOff.getLsbD p && !s.pwr.refLoss

def tickSlices (s : State) : FMap Slice :=
  (List.range 64).foldl (fun m k =>
    if fclkRuns s (partOfSlice k) then fmod (sliceDef k) m k fun sl => { sl with lfsr := lfsrSteps 60 sl.lfsr } else m) s.dc.slices

def tickCores (s : State) : FMap Core :=
  (List.range 256).foldl (fun m c =>
    if fclkRuns s (partOfCore c) then fmod {} m c fun k => { k with lfsr := lfsrSteps 60 k.lfsr } else m) s.simt.cores

/-- A row fetch of a partition's gather engines is outstanding (R354). -/
def fetching (s : State) (p : Nat) : Bool :=
  s.fe.cmds.any fun c => match c.work with
    | .gather g => g.subs.contains (p, .received) && g.pos.any fun x => x.part = p && !x.done
    | _ => false

def tickCaps (s : State) : FMap GatherCap :=
  (List.range 8).foldl (fun m p => if fetching s p then fmod {} m p fun q => { q with busyNs := q.busyNs + 40 } else m) s.fe.caps

/-- Since when each partition has been idle (R474). -/
def tickIdle (s : State) : FMap W64 :=
  (List.range 8).foldl (fun m p => if partIdle s p then m else fset 0 m p (s.devtime + 40)) s.pwr.idleFrom

/-- The edge; `PORST_N` holds everything still. -/
def aclkTick (s : State) : State :=
  if s.pwr.porstLow then s
  else
    { s with
      devtime := s.devtime + 40
      dc := { s.dc with slices := tickSlices s }
      simt := { s.simt with cores := tickCores s }
      fe := { s.fe with caps := tickCaps s }
      pwr := { s.pwr with idleFrom := tickIdle s } }

end Sys2Proof.Machine
end

