-- ==== Sys2Proof/Machine/Flags.lean ====
section
/-! DEFINITION. What each word of CTLAP reads as (R492 to R494): the status words made from the state, the members of the commit
groups (R503), and the registers that hold what was written. -/

namespace Sys2Proof.Machine

def reg32 (n : Nat) : W32 := BitVec.ofNat 32 n
/-- A value at bit `i` of a word. -/
def sh (i n : Nat) : Nat := n * 2 ^ i
def flag (i : Nat) (b : Bool) : Nat := if b then 2 ^ i else 0

/-! ## Members of the commit groups: what a member reads as -/

def TblDesc.get (d : TblDesc) (o : Nat) : Option W32 :=
  match o with
  | 0x04 => some d.cfg
  | 0x08 => some d.geom
  | 0x0C => some d.rowsLo
  | 0x10 => some d.rowsHi
  | 0x14 => some d.shard
  | 0x18 => some d.access
  | 0x1C => some d.aLo
  | 0x20 => some d.aHi
  | 0x24 => some d.bLo
  | 0x28 => some d.bHi
  | 0x2C => some d.pg
  | _ => none

def WinRegs.get (d : WinRegs) (o : Nat) : Option W32 :=
  match o with
  | 0 => some d.ctl
  | 4 => some d.rowLo
  | 8 => some d.rowHi
  | _ => none

def PlcRegs.get (d : PlcRegs) (o : Nat) : Option W32 :=
  match o with
  | 0x04 => some d.cfg
  | 0x08 => some d.rowLo
  | 0x0C => some d.rowHi
  | 0x10 => some d.key
  | _ => none

def RatEnt.get (d : RatEnt) (o : Nat) : Option W32 :=
  match o with
  | 0x00 => some d.baseLo
  | 0x04 => some d.baseHi
  | 0x08 => some d.limLo
  | 0x0C => some d.limHi
  | 0x10 => some d.attr
  | _ => none

def Grant.get (d : Grant) (o : Nat) : Option W32 :=
  match o with
  | 4 => some d.lo
  | 8 => some d.hi
  | _ => none

def CtxRegs.get (d : CtxRegs) (o : Nat) : Option W32 :=
  match o with
  | 0x04 => some d.cfg
  | 0x08 => some d.pasid
  | 0x0C => some d.share
  | _ => none

def QRegs.get (d : QRegs) (o : Nat) : Option W32 :=
  match o with
  | 0x04 => some d.cfg
  | 0x08 => some d.aux
  | 0x0C => some d.baseLo
  | 0x10 => some d.baseHi
  | _ => none

/-- The committed members of a context. -/
def Ctx.regs (c : Ctx) : CtxRegs := { cfg := c.cfg, pasid := c.pasid, share := c.share }

/-- RESULT of a commit register, bits [9:8] (R88). -/
def resultWord (r : BitVec 2) : W32 := reg32 (sh 8 r.toNat)

/-! ## Status words -/

/-- `ID_ACCERR` (R494). -/
def accErr (a : Access) : W32 := reg32 (sh 28 a.reason.toNat + a.count.toNat)

/-- `UPW[w]_SEQ` (R139). -/
def seqWord (t : Target) : W32 := reg32 (sh 16 (t.openNo % 2 ^ 15) + t.doneNo % 2 ^ 15)

/-- `MIG[p]_STAT` (R156). -/
def migStat (s : State) (p : Nat) : W32 := reg32 (flag 30 (badPool s p) + forwardedIn s p)

/-- `RET_DG_SEL` (R164). -/
def digCode : DigState → Nat
  | .none => 0
  | .scanning => 1
  | .ok => 2
def dgSelected (s : State) : Digest :=
  let v := rget s 0x83010
  fget {} s.tbl.dig (digKey (fld v 13 0) (fld v 14 14))

/-- `DC[s]_WAYS` (R273). -/
def waysWord (sl : Slice) : W32 := reg32 (flag 31 sl.busy + sh 16 sl.result.toNat + sh 8 sl.scr + sl.off)

/-- `RAT_CMT` (R264). -/
def ratCmtWord (r : Rat) : W32 := reg32 (sh 8 r.result.toNat + flag 4 r.busy)

/-- `MEM_NMAP`, `MEM_FMAP`, `MEM_NLOC` (R296, R297). -/
def memNmap (m : MemMap) : W32 := reg32 (sh 24 m.npres.toNat + m.ncap.toNat)
def memFmap (m : MemMap) : W32 := reg32 (sh 16 m.fpres.toNat + m.fcap.toNat)
def memNloc (m : MemMap) : W32 := reg32 (flag 31 m.lock + flag 30 m.bad + m.nloc.toNat)

/-- `MEM_SCRUB` (R310). -/
def memScrub (s : State) : W32 := setFld (rget s 0xB0020) 7 0 (scrubPasses s % 256)

/-- `CTX_STAT` (R330), `QCTL_SQ_STAT` and `QCTL_CQ_STAT` (R336, R341). -/
def ctxStat (c : Ctx) : W32 := reg32 (sh 16 c.state.toNat + c.gen.toNat)
def qStat (head tail : Nat) (err : Bool) : W32 := reg32 (sh 16 (tail % 2 ^ 15) + flag 15 err + head % 2 ^ 15)

/-- `HIF_INTX` (R385). -/
def intxWord (h : Hif) : W32 := reg32 (flag 1 h.intxAsserted + flag 0 h.intxPend)

/-- `MGT_QCTL` (R406). -/
def mgtQctl (s : State) : W32 := setFld (rget s 0xF0010) 17 16 s.rook.qstate.toNat

/-- `FLT_QSTAT` (R436). -/
def fltQstat (f : Flt) : W32 :=
  reg32 (flag 30 f.lost + flag 29 f.safe + flag 28 f.fatal.isSome + sh 16 f.pend + f.recs.length)

/-- `FLT_REACT` of the source that `FLT_SRCSEL` names (R438, R439). -/
def fltReactWord (s : State) : W32 :=
  let src := fld (rget s 0x110014) 7 0
  match sourceClass src with
  | none => 0
  | some c =>
    let r := reactOf s.flt src
    reg32 (sh 8 r.reset + sh 4 c + flag 2 r.errn + flag 1 r.nmi + flag 0 r.irq)

/-- `FLT_CHKREQ` and `FLT_INJ` (R446, R448). -/
def fltChkreqWord (s : State) : W32 :=
  rget s 0x110024 ||| reg32 (flag 30 s.flt.chk.isSome + sh 28 s.flt.chkResult.toNat)
def fltInjWord (s : State) : W32 :=
  if s.pwr.ftest then rget s 0x110028 ||| reg32 (flag 30 s.flt.armed.isSome) else 0

/-- `PWR_STAT` (R481). -/
def pwrStat (s : State) : W32 :=
  let throt := (List.range 64).any fun c => s.pwr.step < fld (rget s (0x120200 + 4 * c)) 3 0
  reg32 (flag 30 s.pwr.retain + flag 29 s.pwr.ftest + flag 28 throt + flag 27 s.pwr.isOver + flag 26 s.pwr.hot
    + flag 25 s.pwr.noSens + flag 24 s.pwr.refLoss + sh 12 (min 511 (avgPower s.pwr)) + s.pwr.temp.toNat)

/-- `PWR_DOM` (R467). -/
def pwrDom (p : Power) : W32 := reg32 (sh 16 p.fail.toNat + p.on.toNat)

/-! ## The pages of CTLAP -/

def mngCounter (m : MngSite) (o : Nat) : Option W32 :=
  match o with
  | 0x00 => some (reg32 (flag 1 m.freeze))
  | 0x04 => some (m.cnt.setWidth 32)
  | 0x0C => some (m.sse.setWidth 32)
  | 0x14 => some (reg32 m.sat)
  | 0x18 => some (reg32 m.spec)
  | 0x1C => some (reg32 m.under)
  | 0x20 => some (reg32 m.pgcnt)
  | _ => none

/-- 0x60000 to 0x64FFF: Mangle counters and operand modes (R69, R75 to R79). -/
def readMangle (s : State) (off : Nat) : Option W32 :=
  let o := off - 0x60000
  if o < 0x280 then
    (if o % 0x40 = 0x08 || o % 0x40 = 0x10 then some (fget 0 s.latch off) else mngCounter (fget {} s.mng (o / 0x40)) (o % 0x40))
  else if 0x1000 ≤ o && o < 0x5000 then some (rget s off)
  else none

/-- 0x70000 to 0x7107F: the descriptor window and the default-row counters (R83, R98). -/
def readTables (s : State) (off : Nat) : Option W32 :=
  let o := off - 0x70000
  if o = 0 then some (reg32 s.tbl.sel)
  else if o = 0x30 then some (resultWord s.tbl.result)
  else if o < 0x800 then (tableOf s s.tbl.sel).get o
  else if o < 0x1000 then s.tbl.staged.get (o - 0x800)
  else if o < 0x1080 && o % 16 < 8 then some (rget s off)
  else none

def readWindow (s : State) (o : Nat) : Option W32 :=
  let w := fget {} s.upd.win (o / 0x40)
  let t := s.upd.target (o / 0x40)
  match o % 0x40 with
  | 0x0C => some (resultWord w.result)
  | 0x10 => some 0
  | 0x14 => some (seqWord t)
  | 0x18 => some (reg32 t.rows.length)
  | k => w.com.get k

/-- Key of a shard's load counts that `LOAD_SEL` names (R154). -/
def loadShown (s : State) : Load :=
  let v := rget s 0x82000
  fget {} s.mig.loadLast (8 * fld v 13 0 + fld v 16 14)

/-- 0x80000 to 0x8301F: update windows, placement regions, load counts, migration, digests, retention (R124 to R171). -/
def readLive (s : State) (off : Nat) : Option W32 :=
  let o := off - 0x80000
  if o < 0x400 then readWindow s o
  else if o < 0x410 then some (rget s off)
  else if 0x800 ≤ o && o < 0xC00 then (fget {} s.upd.win ((o - 0x800) / 0x40)).staged.get (o % 0x40)
  else if o = 0x1000 then some (reg32 s.upd.plcSel)
  else if o = 0x1014 then some (resultWord s.upd.plcResult)
  else if o = 0x1018 then some (rget s off)
  else if 0x1000 ≤ o && o < 0x1800 then (fget {} s.upd.plc s.upd.plcSel).get (o - 0x1000)
  else if 0x1800 ≤ o && o < 0x2000 then s.upd.plcStaged.get (o - 0x1800)
  else if o = 0x2004 then some (reg32 (sat31 (loadShown s).reads 0))
  else if o = 0x2008 then some (reg32 (sat31 (loadShown s).far 0))
  else if o = 0x200C then some (reg32 (sat31 (loadShown s).dflt 0))
  else if o = 0x2000 || o = 0x2020 then some (rget s off)
  else if 0x2040 ≤ o && o < 0x20C0 then
    (if o % 16 = 0xC then some (migStat s ((o - 0x2040) / 16)) else some (rget s off))
  else if o = 0x3000 then some (reg32 (flag 8 s.ret.busy) ||| (rget s off &&& 2#32))
  else if o = 0x3004 || o = 0x3008 then some (rget s off)
  else if o = 0x3010 then some (rget s off ||| reg32 (sh 16 (digCode (dgSelected s).st)))
  else if o = 0x3014 then some ((dgSelected s).val.setWidth 32)
  else if o = 0x3018 then some (((dgSelected s).val >>> 32).setWidth 32)
  else none

/-- 0x90000 to 0x903FF: press utilisation (R195). -/
def readPress (s : State) (off : Nat) : Option W32 :=
  let o := off - 0x90000
  if 0x400 ≤ o then none
  else if o % 16 = 0 then some ((fget 0 s.simt.busy (o / 16)).setWidth 32)
  else if o % 16 = 4 then some (fget 0 s.latch off)
  else none

/-- 0xA0000 to 0xA30FF: region attributes, way roles, LFSRs, atomic control, L1 control (R262 to R288). -/
def readCache (s : State) (off : Nat) : Option W32 :=
  let o := off - 0xA0000
  if o < 0x800 then (fget {} s.rat.com (o / 0x20)).get (o % 0x20)
  else if o < 0x1000 then (fget {} s.rat.staged ((o - 0x800) / 0x20)).get (o % 0x20)
  else if o = 0x1000 then some (ratCmtWord s.rat)
  else if 0x2000 ≤ o && o < 0x2400 then
    (let sl := s.dc.slice ((o - 0x2000) / 16)
     if o % 16 = 0 then some (waysWord sl) else if o % 16 = 4 then some (sl.lfsr.setWidth 32) else none)
  else if o = 0x2400 || (0x3000 ≤ o && o < 0x3100) then some (rget s off)
  else none

/-- 0xB0000 to 0xB1FFF: memory map, scrub, atomic grants (R296, R297, R310, R315). -/
def readMem (s : State) (off : Nat) : Option W32 :=
  match off - 0xB0000 with
  | 0x00 => some (memNmap s.mem)
  | 0x04 => some (memFmap s.mem)
  | 0x08 => some (memNloc s.mem)
  | 0x10 => some s.mem.hvdm0
  | 0x14 => some s.mem.hvdm1
  | 0x20 => some (memScrub s)
  | 0x1000 => some (reg32 (sh 12 (s.fe.atgSel % 8) + s.fe.atgSel / 8))
  | 0x100C => some (resultWord s.fe.atgResult)
  | o => if o < 0x1000 then none
    else if o < 0x1800 then (fget {} s.fe.atg s.fe.atgSel : Grant).get (o - 0x1000) else s.fe.atgStaged.get (o - 0x1800)

/-- 0xC0000 to 0xC7FFF: contexts and queues (R329, R335, R341, R343, R344). -/
def readQueues (s : State) (off : Nat) : Option W32 :=
  let o := off - 0xC0000
  let f := s.fe
  let sq := f.sqOf f.sqSel
  let cq := f.cqOf f.cqSel
  match o with
  | 0x0000 => some (reg32 f.ctxSel)
  | 0x0010 => some (resultWord f.ctxResult)
  | 0x0014 => some (ctxStat (f.ctxOf f.ctxSel))
  | 0x1000 => some (reg32 f.sqSel)
  | 0x1014 => some (resultWord f.sqResult)
  | 0x1018 => some (qStat sq.head sq.tail sq.err)
  | 0x2000 => some (reg32 f.cqSel)
  | 0x2014 => some (resultWord f.cqResult)
  | 0x2018 => some (qStat cq.head cq.tail cq.err)
  | 0x3000 => some (rget s off)
  | 0x3004 => some (rget s off)
  | 0x3008 => some (rget s off)
  | _ =>
    if o < 0x800 then (f.ctxOf f.ctxSel).regs.get o
    else if o < 0x1000 then f.ctxStaged.get (o - 0x800)
    else if o < 0x1800 then sq.regs.get (o - 0x1000)
    else if o < 0x2000 then f.sqStaged.get (o - 0x1800)
    else if o < 0x2800 then cq.regs.get (o - 0x2000)
    else if o < 0x3000 then f.cqStaged.get (o - 0x2800)
    else if 0x4000 ≤ o && o < 0x8000 then some (reg32 ((f.cqOf ((o - 0x4000) / 4)).head % 2 ^ 15))
    else none

/-- 0xD0000 to 0xF0013: latency sets, host interface, Rook (R363, R364, R384, R385, R389, R405, R406). -/
def readHost (s : State) (off : Nat) : Option W32 :=
  if off = 0xD0000 || (0xD0100 ≤ off && off < 0xD01D0) || off = 0xE0000 || (0xE1000 ≤ off && off < 0xE5000) || off = 0xF0008
    || off = 0xF000C then some (rget s off)
  else if off = 0xE0004 then some (intxWord s.hif)
  else if off = 0xF0000 then some (mgtStat s.rook)
  else if off = 0xF0004 then some (mgtFwver s.rook)
  else if off = 0xF0010 then some (mgtQctl s)
  else none

/-- 0x100000 to 0x10FFFF: mailboxes (R408). -/
def readMailbox (s : State) (off : Nat) : Option W32 :=
  let o := off - 0x100000
  if 0x100 ≤ o % 0x1000 then some (reg32 (leNat (memRead s.rook.payload o 4)))
  else if o % 0x1000 < 0x10 then some (rget s off)
  else none

/-- 0x110000 to 0x11010F: the fault collector and the reset requests (R435 to R452). -/
def readFaults (s : State) (off : Nat) : Option W32 :=
  match off - 0x110000 with
  | 0x00 => some (fltQstat s.flt)
  | 0x04 => some (reg32 (sat31 s.flt.ovf 0))
  | 0x08 => some (reg32 s.flt.seq)
  | 0x0C => some 0
  | 0x10 => some (rget s off)
  | 0x14 => some (rget s off)
  | 0x18 => some (fltReactWord s)
  | 0x1C => some (rget s off)
  | 0x20 => some (rget s off ||| reg32 (flag 0 s.flt.errn))
  | 0x24 => some (fltChkreqWord s)
  | 0x28 => some (fltInjWord s)
  | 0x100 => some (rget s off)
  | 0x104 => some (rget s off ||| reg32 (flag 30 (rstBusy s .cluster)))
  | 0x108 => some (rget s off ||| reg32 (flag 30 (rstBusy s .partition)))
  | 0x10C => some 0
  | o => if 0x40 ≤ o && o < 0x80 then some (reg32 (num (recAt s.flt (fld (rget s 0x110010) 8 0)) (o - 0x40) 4)) else none

/-- 0x120000 to 0x1202FF: power, temperature, clocks, DEVTIME (R467, R471, R475, R477, R480, R481, R484). -/
def readPower (s : State) (off : Nat) : Option W32 :=
  match off - 0x120000 with
  | 0x00 => some (rget s off)
  | 0x04 => some (rget s off)
  | 0x08 => some (pwrStat s)
  | 0x0C => some (pwrDom s.pwr)
  | 0x10 => some (s.devtime.setWidth 32)
  | 0x14 => some (fget 0 s.latch off)
  | o =>
    if 0x100 ≤ o && o < 0x120 then some (rget s off ||| reg32 (flag 24 (s.pwr.pllOff.getLsbD ((o - 0x100) / 4))))
    else if 0x200 ≤ o && o < 0x300 then some (rget s off ||| reg32 (sh 16 (fcur s ((o - 0x200) / 4))))
    else none

/-- The ID page (R493). -/
def readId (s : State) (off : Nat) : Option W32 :=
  match off with
  | 0x00 => some Config.idSig
  | 0x08 => some Config.idVersion
  | 0x10 => some (accErr s.acc)
  | 0x14 => some (s.acc.offset.setWidth 32)
  | _ => none

/-- The register at an offset of CTLAP and what it reads as; none at a reserved offset (R492). -/
def ctlReg (s : State) (off : Nat) : Option W32 :=
  if off < 0x1000 then readId s off
  else if 0x60000 ≤ off && off < 0x70000 then readMangle s off
  else if 0x70000 ≤ off && off < 0x80000 then readTables s off
  else if 0x80000 ≤ off && off < 0x90000 then readLive s off
  else if 0x90000 ≤ off && off < 0xA0000 then readPress s off
  else if 0xA0000 ≤ off && off < 0xB0000 then readCache s off
  else if 0xB0000 ≤ off && off < 0xC0000 then readMem s off
  else if 0xC0000 ≤ off && off < 0xD0000 then readQueues s off
  else if 0xD0000 ≤ off && off < 0x100000 then readHost s off
  else if 0x100000 ≤ off && off < 0x110000 then readMailbox s off
  else if 0x110000 ≤ off && off < 0x120000 then readFaults s off
  else if 0x120000 ≤ off && off < 0x130000 then readPower s off
  else none

/-- A read of a word of CTLAP: a reserved offset reads zero (R499). -/
def ctlRead (s : State) (off : Nat) : W32 := (ctlReg s off).getD 0

end Sys2Proof.Machine
end

