-- ==== Sys2Proof/Machine/Registers.lean ====
section
/-! DEFINITION. Reads of CTLAP with their side effects (R78, R495 to R498), and writes to the registers that have no row of their own
(R495 to R502). Writes to the rest of CTLAP reach the same effects that their own rows have. -/

namespace Sys2Proof.Machine

/-! ## Reads -/

/-- The offset of a latched `_HI` register, for the offset of its `_LO` (R78, R195, R484). -/
def hiOf (off : Nat) : Option Nat :=
  let o := off - 0x60000
  if 0x60000 ≤ off && o < 0x280 && (o % 0x40 = 0x04 || o % 0x40 = 0x0C) then some (off + 4)
  else if 0x90000 ≤ off && off < 0x90400 && off % 16 = 0 then some (off + 4)
  else if off = 0x120010 then some (off + 4)
  else none

/-- What a `_LO` read latches. -/
def hiValue (s : State) (off : Nat) : W32 :=
  if off < 0x90000 then
    let m := fget {} s.mng ((off - 0x60000) / 0x40)
    if (off - 0x60000) % 0x40 = 0x04 then (m.cnt >>> 32).setWidth 32 else (m.sse >>> 32).setWidth 32
  else if off < 0x120000 then ((fget 0 s.simt.busy ((off - 0x90000) / 16)) >>> 32).setWidth 32
  else (s.devtime >>> 32).setWidth 32

/-- Registers whose count is an RC field (R98, R140, R344). -/
def isRcCount (off : Nat) : Bool :=
  (0x71000 ≤ off && off < 0x71080) || (0x80400 ≤ off && off < 0x80410) || off = 0xC3000 || off = 0xC3004

/-- Side effects of a read (R498). -/
def readEffect (off : Nat) (s : State) : State :=
  match hiOf off with
  | some h => { s with latch := fset 0 s.latch h (hiValue s off) }
  | none =>
    if off = 0x10 then { s with acc := { s.acc with count := 0 } }
    else if isRcCount off then rset off 0 s
    else s

/-- The enabled bytes of a word (R496). -/
def enabled (v : W32) (be : BitVec 4) : W32 :=
  v &&& BitVec.ofNat 32 ((List.range 4).foldl (fun m i => m + if be.getLsbD i then 0xFF * 256 ^ i else 0) 0)

/-- The MSI-X structures and the CXL component registers, which follow the PCIe and CXL specifications (R492): the mask bit of a
vector and the PBA are state; the rest is not described, and what it reads as is free. DESIGN CHOICE, log 38. -/
def linkWord (s : State) (off : Nat) : W32 :=
  if 0x1900000 ≤ off && off < 0x1910000 && off % 16 = 12 then
    (freeVal 32 s &&& 0xFFFFFFFE#32) ||| reg32 (flag 0 (!fget false s.hif.unmasked ((off - 0x1900000) / 16)))
  else if 0x1910000 ≤ off && off < 0x1910200 then
    reg32 ((List.range 32).foldl (fun m i => m + flag i (fget false s.hif.pba (8 * (off - 0x1910000) + i))) 0)
  else freeVal 32 s

/-- One word of a read of CTLAP (R495, R496, R498). -/
def readWord (off : Nat) (be : BitVec 4) (s : State) : State :=
  if be = 0 then emit (.readData off 0) s
  else if 0x1800000 ≤ off then useFree (emit (.readData off (enabled (linkWord s off) be)) s)
  else readEffect off (emit (.readData off (enabled (ctlRead s off) be)) s)

/-- Words from offset `off` on, in ascending order (R495). -/
def readWords : Nat → List (BitVec 4) → State → State
  | _, [], s => s
  | off, be :: l, s => readWords (off + 4) l (readWord off be s)

/-- A read of CTLAP that the function does not decode ends with Unsupported Request (R372). -/
def ctlReadE (off : Nat) (bes : List (BitVec 4)) (s : State) : State :=
  if ctlReach s then readWords off bes s
  else if s.hif.linkUp && !s.hif.flr then emit .unsupported s else s

/-- LO_READ_LATCH (R78). -/
def execLoReadLatch (off : Nat) (be : BitVec 4) (s : State) := live .hif s (ctlReadE off [be])
/-- RC_READ (R498). -/
def execRcRead (off : Nat) (bes : List (BitVec 4)) (s : State) := live .hif s (ctlReadE off bes)

/-! ## Writes -/

/-- A field whose write of 0 keeps its value (R310, R389). -/
def keepZero (old v : W32) (hi lo : Nat) : W32 := if fld v hi lo = 0 then setFld v hi lo (fld old hi lo) else v

/-- Write of an RWL field of the plain registers: kept and counted while its lock is set (R502). -/
def lockedWrite (locked : Bool) (off : Nat) (mask v : W32) (s : State) : State :=
  if locked then countAcc 3 off s else rset off (v &&& mask) s

def writeLive (off : Nat) (v : W32) (s : State) : State :=
  let o := off - 0x80000
  if o < 0x400 then
    (if o % 0x40 = 0x0C then upwApplyE (o / 0x40) v s else if o % 0x40 = 0x10 then upwCloseE (o / 0x40) v s else s)
  else if o = 0x1000 then plcSelE v s
  else if o = 0x1014 then plcCmtE v s
  else if o = 0x1018 then plcCloseE v s
  else if o = 0x2000 then rset off (v &&& 0x1FFFF#32) s
  else if o = 0x2020 then migCtlWriteE v s
  else if 0x2040 ≤ o && o < 0x20C0 then
    (if o % 16 = 0 then lockedWrite (migLock s) off 0xFFFFF800#32 v s
     else if o % 16 = 4 then lockedWrite (migLock s) off 0xFFFFF#32 v s
     else if o % 16 = 8 then lockedWrite (migLock s) off 0x1FFFF#32 v s else s)
  else if o = 0x3000 then retCtlWrite v s
  else if o = 0x3004 then lockedWrite (bit (rget s 0x83000) 1) off 0xFFC00000#32 v s
  else if o = 0x3008 then lockedWrite (bit (rget s 0x83000) 1) off 0xFFFFF#32 v s
  else if o = 0x3010 then rset off (v &&& 0x7FFF#32) s
  else s

/-- `DC[s]_LFSR`: a write of 0 keeps the value (R262). -/
def lfsrWrite (k : Nat) (v : W32) (s : State) : State :=
  if fld v 15 0 = 0 then s else modSlice k (fun sl => { sl with lfsr := v.setWidth 16 }) s

def writeCache (off : Nat) (v : W32) (s : State) : State :=
  let o := off - 0xA0000
  if o = 0x1000 then ratCmtE v s
  else if 0x2000 ≤ o && o < 0x2400 then
    (if o % 16 = 0 then dcWaysWriteE ((o - 0x2000) / 16) v s
     else if o % 16 = 4 then lfsrWrite ((o - 0x2000) / 16) v s else s)
  else if o = 0x2400 then (if fld v 1 0 = 3 then s else rset off (v &&& 3#32) s)
  else if 0x3000 ≤ o && o < 0x3100 then l1ctlWriteE ((o - 0x3000) / 4) v s
  else s

def writeMem (off : Nat) (v : W32) (s : State) : State :=
  match off - 0xB0000 with
  | 0x08 => memNlocE v s
  | 0x10 => memHvdmE 0 v s
  | 0x14 => memHvdmE 1 v s
  | 0x20 => rset off (keepZero (rget s off) (v &&& 0x8000FF00#32) 15 8) s
  | 0x1000 => atgSelE v s
  | 0x100C => atgCmtE v s
  | _ => s

def writeQueues (off : Nat) (v : W32) (s : State) : State :=
  match off - 0xC0000 with
  | 0x0000 => ctxSelE v s
  | 0x0010 => ctxCmtE v s
  | 0x1000 => qctlSqSelE v s
  | 0x1014 => qctlSqCmtE v s
  | 0x2000 => qctlCqSelE v s
  | 0x2014 => qctlCqCmtE v s
  | 0x3008 => rset off (v &&& 0xFF#32) s
  | o => if 0x4000 ≤ o && o < 0x8000 then cqHeadWriteE ((o - 0x4000) / 4) v s else s

def writeHost (off : Nat) (v : W32) (s : State) : State :=
  if off = 0xD0000 then latSelE v s
  else if off = 0xE0000 then
    rset off (keepZero (rget s off) (keepZero (rget s off) (v &&& 0xC0FFFFFF#32) 23 16) 15 0) s
  else if off = 0xE0004 then hifIntxPendClearE v s
  else if 0xE1000 ≤ off && off < 0xE5000 then rset off (v &&& 0x00FFFFFF#32) s
  else if off = 0xF0008 then rset off (rget s off &&& ~~~v) s
  else if off = 0xF000C then rset off (v &&& 0x1FFF#32) s
  else if off = 0xF0010 then rset off (v &&& 0xFFFF#32) s
  else s

def writeFaults (off : Nat) (v : W32) (s : State) : State :=
  match off - 0x110000 with
  | 0x00 => if bit v 30 then { s with flt := { s.flt with lost := false } } else s
  | 0x0C => fltQrelE v s
  | 0x10 => rset off (v &&& 0x1FF#32) s
  | 0x14 => rset off (v &&& 0xFF#32) s
  | 0x18 => fltReactWriteE v s
  | 0x1C => rset off (v &&& 0x1FFF#32) s
  | 0x20 => fltCtlE v s
  | 0x24 => fltChkreqE v s
  | 0x28 => fltInjE v s
  | 0x100 => rstCtxE v s
  | 0x104 => rstCluE v s
  | 0x108 => rstPartE v s
  | 0x10C => rstBlkE v s
  | _ => s

/-- `CLU[c]_FREQ`: a write of 10 to 15 keeps FMAX (R471). -/
def writePower (off : Nat) (v : W32) (s : State) : State :=
  match off - 0x120000 with
  | 0x00 => rset off (reg32 (max 120 (min 420 (fld v 8 0)))) s
  | 0x04 => rset off (v &&& 0xFFFFFF#32) s
  | o =>
    if 0x100 ≤ o && o < 0x120 then partPwrctlWriteE ((o - 0x100) / 4) v s
    else if 0x200 ≤ o && o < 0x300 then (if 9 < fld v 3 0 then s else rset off (v &&& 0xF#32) s)
    else s

/-- The effect of a whole-word write on the register at an offset; members of commit groups are staged (R503). -/
def writeReg (off : Nat) (v : W32) (s : State) : State :=
  match stageWrite off v s with
  | some t => t
  | none =>
    if 0x60000 ≤ off && off < 0x60280 then (if off % 0x40 = 0 then mngCtlWrite ((off - 0x60000) / 0x40) v s else s)
    else if 0x61000 ≤ off && off < 0x65000 then rset off (v &&& 1#32) s
    else if off = 0x70000 then tblSelE v s
    else if off = 0x70030 then tblCmtE v s
    else if 0x80000 ≤ off && off < 0x90000 then writeLive off v s
    else if 0xA0000 ≤ off && off < 0xB0000 then writeCache off v s
    else if 0xB0000 ≤ off && off < 0xC0000 then writeMem off v s
    else if 0xC0000 ≤ off && off < 0xD0000 then writeQueues off v s
    else if 0xD0000 ≤ off && off < 0x100000 then writeHost off v s
    else if 0x100000 ≤ off && off < 0x110000 then mbxWriteE ((off - 0x100000) / 0x1000) (off % 0x1000) v s
    else if 0x110000 ≤ off && off < 0x120000 then writeFaults off v s
    else if 0x120000 ≤ off && off < 0x130000 then writePower off v s
    else s

/-- A write of MSI-X vector control masks or unmasks the vector (R383). -/
def linkWrite (off : Nat) (v : W32) (be : BitVec 4) (s : State) : State :=
  if 0x1900000 ≤ off && off < 0x1910000 && off % 16 = 12 && be.getLsbD 0 && ctlReach s then
    msixMaskE ((off - 0x1900000) / 16) (bit v 0) s
  else s

/-- One word of a write of CTLAP (R495, R496, R499): a reserved offset takes and counts nothing; mailbox payload takes the enabled
bytes. -/
def writeWord (off : Nat) (v : W32) (be : BitVec 4) (s : State) : State :=
  if 0x1800000 ≤ off then linkWrite off v be s
  else if (ctlReg s off).isNone then s
  else if isMboxPayload off then
    (if ctlReach s && be ≠ 0 then mbxPayloadWrite ((off - 0x100000) / 0x1000) (off % 0x1000) v be s else s)
  else ctlWord off be (writeReg off v) s

/-- Words from offset `off` on, in ascending order (R495). -/
def writeWords : Nat → List (W32 × BitVec 4) → State → State
  | _, [], s => s
  | off, (v, be) :: l, s => writeWords (off + 4) l (writeWord off v be s)

/-- REGISTER_WRITE (R495). -/
def execRegisterWrite (off : Nat) (words : Posted (List (W32 × BitVec 4))) (s : State) :=
  live .hif s (barWrite words (writeWords off))

end Sys2Proof.Machine
end

