-- ==== Sys2Proof/Machine/Dispatch.lean ====
section
/-! DEFINITION. One arm for each command of the opcode table, each a direct call of its meaning. -/

namespace Sys2Proof.Machine

open Sys2Proof (Instr)

def exec (i : Instr) (s : State) : Host.Outcome State Fault Refusal :=
  match i with
  | .nop id => Sys2Proof.Machine.execNop id s
  | .gatherPool id => Sys2Proof.Machine.execGatherPool id s
  | .seqPool id arr => Sys2Proof.Machine.execSeqPool id arr s
  | .launch id => Sys2Proof.Machine.execLaunch id s
  | .launchAttach id => Sys2Proof.Machine.execLaunchAttach id s
  | .move id desc => Sys2Proof.Machine.execMove id desc s
  | .castle id => Sys2Proof.Machine.execCastle id s
  | .commit id => Sys2Proof.Machine.execCommit id s
  | .fence id => Sys2Proof.Machine.execFence id s
  | .signal id => Sys2Proof.Machine.execSignal id s
  | .timestamp id => Sys2Proof.Machine.execTimestamp id s
  | .tailDoorbell sq data => Sys2Proof.Machine.execTailDoorbell sq data s
  | .dbapSlotWrite sq off data => Sys2Proof.Machine.execDbapSlotWrite sq off data s
  | .commandRead sq => Sys2Proof.Machine.execCommandRead sq s
  | .sqRingReadDone sq r => Sys2Proof.Machine.execSqRingReadDone sq r s
  | .admission id => Sys2Proof.Machine.execAdmit id s
  | .latePrediction id => Sys2Proof.Machine.execLatePrediction id s
  | .watchdogExpiry id => Sys2Proof.Machine.execWatchdogExpiry id s
  | .sqOrderWaitEnd id => Sys2Proof.Machine.execSqOrderWaitEnd id s
  | .completionRecordIssue id => Sys2Proof.Machine.execCompletionRecordIssue id s
  | .phaseTagLineIssue cq => Sys2Proof.Machine.execPhaseTagLineIssue cq s
  | .cqWaitTimeout id => Sys2Proof.Machine.execCqWaitTimeout id s
  | .cqHeadWrite q v be => Sys2Proof.Machine.execCqHeadWrite q v be s
  | .coalesceDelayExpiry vec => Sys2Proof.Machine.execCoalesceDelayExpiry vec s
  | .strideBoundary id => Sys2Proof.Machine.execStrideBoundary id s
  | .sequencerGrant id => Sys2Proof.Machine.execSequencerGrant id s
  | .bagListReadDone id list arrays => Sys2Proof.Machine.execBagListReadDone id list arrays s
  | .gatherSubrequest id part => Sys2Proof.Machine.execGatherSubrequest id part s
  | .rowSectorArrival id part pos sector => Sys2Proof.Machine.execRowSectorArrival id part pos sector s
  | .partialPoolArrival id part => Sys2Proof.Machine.execPartialPoolArrival id part s
  | .landingComplete id => Sys2Proof.Machine.execLandingComplete id s
  | .castleCommitPoint id => Sys2Proof.Machine.execCastleCommitPoint id s
  | .castleWarmDone id => Sys2Proof.Machine.execCastleWarmDone id s
  | .upapWrite off data => Sys2Proof.Machine.execUpapWrite off data s
  | .stagingWaitEnd => Sys2Proof.Machine.execStagingWaitEnd s
  | .upapRead off n => Sys2Proof.Machine.execUpapRead off n s
  | .plapWrite off reqid data => Sys2Proof.Machine.execPlapWrite off reqid data s
  | .plapRead off n => Sys2Proof.Machine.execPlapRead off n s
  | .upwApply w v be => Sys2Proof.Machine.execUpwApply w v be s
  | .upwClose w v be => Sys2Proof.Machine.execUpwClose w v be s
  | .plcClose v be => Sys2Proof.Machine.execPlcClose v be s
  | .plcSel v be => Sys2Proof.Machine.execPlcSel v be s
  | .plcCmt v be => Sys2Proof.Machine.execPlcCmt v be s
  | .rowCommit slice => Sys2Proof.Machine.execRowCommit slice s
  | .epochBoundary => Sys2Proof.Machine.execEpochBoundary s
  | .migrationCopyDone table side row => Sys2Proof.Machine.execMigrationCopyDone table side row s
  | .returnHomeDone table side row => Sys2Proof.Machine.execReturnHomeDone table side row s
  | .forwardingRelease table side => Sys2Proof.Machine.execForwardingRelease table side s
  | .migCtlWrite v be => Sys2Proof.Machine.execMigCtlWrite v be s
  | .digestScanDone table side => Sys2Proof.Machine.execDigestScanDone table side s
  | .catalogueWrite v be => Sys2Proof.Machine.execCatalogueWrite v be s
  | .catalogueWriteDone => Sys2Proof.Machine.execCatalogueWriteDone s
  | .retLock v be => Sys2Proof.Machine.execRetLock v be s
  | .tblSel v be => Sys2Proof.Machine.execTblSel v be s
  | .tblCmt v be => Sys2Proof.Machine.execTblCmt v be s
  | .ctxSel v be => Sys2Proof.Machine.execCtxSel v be s
  | .ctxCmt v be => Sys2Proof.Machine.execCtxCmt v be s
  | .qctlSqSel v be => Sys2Proof.Machine.execQctlSqSel v be s
  | .qctlSqCmt v be => Sys2Proof.Machine.execQctlSqCmt v be s
  | .qctlCqSel v be => Sys2Proof.Machine.execQctlCqSel v be s
  | .qctlCqCmt v be => Sys2Proof.Machine.execQctlCqCmt v be s
  | .atgSel v be => Sys2Proof.Machine.execAtgSel v be s
  | .atgCmt v be => Sys2Proof.Machine.execAtgCmt v be s
  | .ratCmt v be => Sys2Proof.Machine.execRatCmt v be s
  | .ratApplyDone => Sys2Proof.Machine.execRatApplyDone s
  | .stagedMemberWrite off v be => Sys2Proof.Machine.execStagedMemberWrite off v be s
  | .mngClear site v be => Sys2Proof.Machine.execMngClear site v be s
  | .mngFreeze site v be => Sys2Proof.Machine.execMngFreeze site v be s
  | .loReadLatch off be => Sys2Proof.Machine.execLoReadLatch off be s
  | .rcRead off bes => Sys2Proof.Machine.execRcRead off bes s
  | .latSel v be => Sys2Proof.Machine.execLatSel v be s
  | .dcWaysWrite slice v be => Sys2Proof.Machine.execDcWaysWrite slice v be s
  | .waysChangeDone slice => Sys2Proof.Machine.execWaysChangeDone slice s
  | .l1ctlWrite cluster v be => Sys2Proof.Machine.execL1ctlWrite cluster v be s
  | .partPwrctlWrite part v be => Sys2Proof.Machine.execPartPwrctlWrite part v be s
  | .registerWrite off words => Sys2Proof.Machine.execRegisterWrite off words s
  | .pldw x => Sys2Proof.Machine.execPldw x s
  | .pmma x => Sys2Proof.Machine.execPmma x s
  | .prq x => Sys2Proof.Machine.execPrq x s
  | .pwait x => Sys2Proof.Machine.execPwait x s
  | .pressInstrStart core strm => Sys2Proof.Machine.execPressInstrStart core strm s
  | .pressInstrComplete core strm opc => Sys2Proof.Machine.execPressInstrComplete core strm opc s
  | .nopInstr x => Sys2Proof.Machine.execNopInstr x s
  | .bra x => Sys2Proof.Machine.execBra x s
  | .brx x => Sys2Proof.Machine.execBrx x s
  | .call x => Sys2Proof.Machine.execCall x s
  | .ret x => Sys2Proof.Machine.execRet x s
  | .exit x => Sys2Proof.Machine.execExit x s
  | .bar x => Sys2Proof.Machine.execBar x s
  | .yield x => Sys2Proof.Machine.execYield x s
  | .trap x => Sys2Proof.Machine.execTrap x s
  | .gsync x => Sys2Proof.Machine.execGsync x s
  | .add x => Sys2Proof.Machine.execAdd x s
  | .sub x => Sys2Proof.Machine.execSub x s
  | .mul x => Sys2Proof.Machine.execMul x s
  | .mulhi x => Sys2Proof.Machine.execMulhi x s
  | .mulhu x => Sys2Proof.Machine.execMulhu x s
  | .mad x => Sys2Proof.Machine.execMad x s
  | .min x => Sys2Proof.Machine.execMin x s
  | .max x => Sys2Proof.Machine.execMax x s
  | .abs x => Sys2Proof.Machine.execAbs x s
  | .neg x => Sys2Proof.Machine.execNeg x s
  | .minu x => Sys2Proof.Machine.execMinu x s
  | .maxu x => Sys2Proof.Machine.execMaxu x s
  | .adds x => Sys2Proof.Machine.execAdds x s
  | .subs x => Sys2Proof.Machine.execSubs x s
  | .and x => Sys2Proof.Machine.execAnd x s
  | .or x => Sys2Proof.Machine.execOr x s
  | .xor x => Sys2Proof.Machine.execXor x s
  | .not x => Sys2Proof.Machine.execNot x s
  | .shl x => Sys2Proof.Machine.execShl x s
  | .shr x => Sys2Proof.Machine.execShr x s
  | .sar x => Sys2Proof.Machine.execSar x s
  | .rot x => Sys2Proof.Machine.execRot x s
  | .ones x => Sys2Proof.Machine.execOnes x s
  | .lead x => Sys2Proof.Machine.execLead x s
  | .fext x => Sys2Proof.Machine.execFext x s
  | .fins x => Sys2Proof.Machine.execFins x s
  | .rbit x => Sys2Proof.Machine.execRbit x s
  | .bysel x => Sys2Proof.Machine.execBysel x s
  | .pcmp x => Sys2Proof.Machine.execPcmp x s
  | .sel x => Sys2Proof.Machine.execSel x s
  | .plog x => Sys2Proof.Machine.execPlog x s
  | .p2v x => Sys2Proof.Machine.execP2v x s
  | .v2p x => Sys2Proof.Machine.execV2p x s
  | .mov x => Sys2Proof.Machine.execMov x s
  | .mulsh x => Sys2Proof.Machine.execMulsh x s
  | .madsh x => Sys2Proof.Machine.execMadsh x s
  | .mulshu x => Sys2Proof.Machine.execMulshu x s
  | .rshr x => Sys2Proof.Machine.execRshr x s
  | .satn x => Sys2Proof.Machine.execSatn x s
  | .bunp x => Sys2Proof.Machine.execBunp x s
  | .bpk x => Sys2Proof.Machine.execBpk x s
  | .bse x => Sys2Proof.Machine.execBse x s
  | .bsq x => Sys2Proof.Machine.execBsq x s
  | .badd x => Sys2Proof.Machine.execBadd x s
  | .bsub x => Sys2Proof.Machine.execBsub x s
  | .bmul x => Sys2Proof.Machine.execBmul x s
  | .bmulsh x => Sys2Proof.Machine.execBmulsh x s
  | .bmax x => Sys2Proof.Machine.execBmax x s
  | .bdp x => Sys2Proof.Machine.execBdp x s
  | .tli x => Sys2Proof.Machine.execTli x s
  | .gxch x => Sys2Proof.Machine.execGxch x s
  | .gpoll x => Sys2Proof.Machine.execGpoll x s
  | .gfold x => Sys2Proof.Machine.execGfold x s
  | .gpeer x => Sys2Proof.Machine.execGpeer x s
  | .gpre x => Sys2Proof.Machine.execGpre x s
  | .ld x => Sys2Proof.Machine.execLd x s
  | .st x => Sys2Proof.Machine.execSt x s
  | .pref x => Sys2Proof.Machine.execPref x s
  | .lds x => Sys2Proof.Machine.execLds x s
  | .sts x => Sys2Proof.Machine.execSts x s
  | .ats x => Sys2Proof.Machine.execAts x s
  | .atom x => Sys2Proof.Machine.execAtom x s
  | .red x => Sys2Proof.Machine.execRed x s
  | .ldr x => Sys2Proof.Machine.execLdr x s
  | .stc x => Sys2Proof.Machine.execStc x s
  | .fenceInstr x => Sys2Proof.Machine.execFenceInstr x s
  | .s2v x => Sys2Proof.Machine.execS2v x s
  | .waitge x => Sys2Proof.Machine.execWaitge x s
  | .wget x => Sys2Proof.Machine.execWget x s
  | .wdone x => Sys2Proof.Machine.execWdone x s
  | .tmov x => Sys2Proof.Machine.execTmov x s
  | .tout x => Sys2Proof.Machine.execTout x s
  | .twait x => Sys2Proof.Machine.execTwait x s
  | .undefinedEncoding x opc => Sys2Proof.Machine.execUndefinedEncoding x opc s
  | .groupWake launch team group => Sys2Proof.Machine.execGroupWake launch team group s
  | .teamPlace launch core => Sys2Proof.Machine.execTeamPlace launch core s
  | .launchEnd launch => Sys2Proof.Machine.execLaunchEnd launch s
  | .moverRowDelivered xfer n src bad => Sys2Proof.Machine.execMoverRowDelivered xfer n src bad s
  | .pageRequestGroup xfer => Sys2Proof.Machine.execPageRequestGroup xfer s
  | .prgResponse index code => Sys2Proof.Machine.execPrgResponse index code s
  | .prgResponseTimeout index => Sys2Proof.Machine.execPrgResponseTimeout index s
  | .translationCompletion req r => Sys2Proof.Machine.execTranslationCompletion req r s
  | .translationTimeout req => Sys2Proof.Machine.execTranslationTimeout req s
  | .atsInvalidationRequest itag pasid page pages => Sys2Proof.Machine.execAtsInvalidationRequest itag pasid page pages s
  | .invalidationCompletion itag => Sys2Proof.Machine.execInvalidationCompletion itag s
  | .readShared core line => Sys2Proof.Machine.execReadShared core line s
  | .readOwn core line => Sys2Proof.Machine.execReadOwn core line s
  | .writeThrough core => Sys2Proof.Machine.execWriteThrough core s
  | .write => Sys2Proof.Machine.execWrite s
  | .readCurrent line => Sys2Proof.Machine.execReadCurrent line s
  | .writeBack core => Sys2Proof.Machine.execWriteBack core s
  | .evictNotice core line => Sys2Proof.Machine.execEvictNotice core line s
  | .snoop core line => Sys2Proof.Machine.execSnoop core line s
  | .snoopResponse core line => Sys2Proof.Machine.execSnoopResponse core line s
  | .nakRetry core line => Sys2Proof.Machine.execNakRetry core line s
  | .l1Lost core line => Sys2Proof.Machine.execL1Lost core line s
  | .sideBufferExpiry slice line => Sys2Proof.Machine.execSideBufferExpiry slice line s
  | .reservationExpiry launch team group lane => Sys2Proof.Machine.execReservationExpiry launch team group lane s
  | .snpData pa => Sys2Proof.Machine.execSnpData pa s
  | .snpInv pa => Sys2Proof.Machine.execSnpInv pa s
  | .snpCur pa => Sys2Proof.Machine.execSnpCur pa s
  | .d2hResponse tag data grant => Sys2Proof.Machine.execD2hResponse tag data grant s
  | .d2hTimeout tag => Sys2Proof.Machine.execD2hTimeout tag s
  | .memRd hpa => Sys2Proof.Machine.execMemRd hpa s
  | .memRdData hpa => Sys2Proof.Machine.execMemRdData hpa s
  | .memWr hpa data poison => Sys2Proof.Machine.execMemWr hpa data poison s
  | .memWrPtl hpa data poison => Sys2Proof.Machine.execMemWrPtl hpa data poison s
  | .memSpecRd hpa => Sys2Proof.Machine.execMemSpecRd hpa s
  | .memInv hpa => Sys2Proof.Machine.execMemInv hpa s
  | .memInvNt hpa => Sys2Proof.Machine.execMemInvNt hpa s
  | .portCredit port => Sys2Proof.Machine.execPortCredit port s
  | .portReadData port tag status => Sys2Proof.Machine.execPortReadData port tag status s
  | .portWriteAck port tag => Sys2Proof.Machine.execPortWriteAck port tag s
  | .portSreAck port => Sys2Proof.Machine.execPortSreAck port s
  | .portSrxAck port => Sys2Proof.Machine.execPortSrxAck port s
  | .portReady port cap => Sys2Proof.Machine.execPortReady port cap s
  | .portLost port => Sys2Proof.Machine.execPortLost port s
  | .portAbsent => Sys2Proof.Machine.execPortAbsent s
  | .scrubRead port => Sys2Proof.Machine.execScrubRead port s
  | .configRequest r => Sys2Proof.Machine.execConfigRequest r s
  | .linkUp fmt => Sys2Proof.Machine.execLinkUp fmt s
  | .linkDown => Sys2Proof.Machine.execLinkDown s
  | .hotReset => Sys2Proof.Machine.execHotReset s
  | .l1IdleExpiry => Sys2Proof.Machine.execL1IdleExpiry s
  | .l0pWindowEnd tx rx capacity waiting => Sys2Proof.Machine.execL0pWindowEnd tx rx capacity waiting s
  | .d3hotEntry => Sys2Proof.Machine.execD3hotEntry s
  | .flr => Sys2Proof.Machine.execFlr s
  | .busMasterEnableSet => Sys2Proof.Machine.execBusMasterEnableSet s
  | .msixUnmask vec => Sys2Proof.Machine.execMsixUnmask vec s
  | .hifIntxPendClear v be => Sys2Proof.Machine.execHifIntxPendClear v be s
  | .hdmDecoderCommit k base size oneWay lawful => Sys2Proof.Machine.execHdmDecoderCommit k base size oneWay lawful s
  | .viral => Sys2Proof.Machine.execViral s
  | .ideCheckFail stream => Sys2Proof.Machine.execIdeCheckFail stream s
  | .doeRequest kind data => Sys2Proof.Machine.execDoeRequest kind data s
  | .getInfo job => Sys2Proof.Machine.execGetInfo job s
  | .getHealth job => Sys2Proof.Machine.execGetHealth job s
  | .faultRead job => Sys2Proof.Machine.execFaultRead job s
  | .faultRing job => Sys2Proof.Machine.execFaultRing job s
  | .quiesceStart job => Sys2Proof.Machine.execQuiesceStart job s
  | .quiesceNow job => Sys2Proof.Machine.execQuiesceNow job s
  | .quiesceCancel job => Sys2Proof.Machine.execQuiesceCancel job s
  | .quiesceExit job => Sys2Proof.Machine.execQuiesceExit job s
  | .locate job => Sys2Proof.Machine.execLocate job s
  | .powerCycle job => Sys2Proof.Machine.execPowerCycle job s
  | .fwBegin job => Sys2Proof.Machine.execFwBegin job s
  | .fwData job => Sys2Proof.Machine.execFwData job s
  | .fwEnd job => Sys2Proof.Machine.execFwEnd job s
  | .fwActivate job => Sys2Proof.Machine.execFwActivate job s
  | .cfgWrite job => Sys2Proof.Machine.execCfgWrite job s
  | .tableList job => Sys2Proof.Machine.execTableList job s
  | .tableVerify job => Sys2Proof.Machine.execTableVerify job s
  | .tableAdopt job => Sys2Proof.Machine.execTableAdopt job s
  | .tableDiscard job => Sys2Proof.Machine.execTableDiscard job s
  | .telemRing job => Sys2Proof.Machine.execTelemRing job s
  | .telemRead job => Sys2Proof.Machine.execTelemRead job s
  | .eventEnable job => Sys2Proof.Machine.execEventEnable job s
  | .unknownMailboxOpcode job => Sys2Proof.Machine.execUnknownMailboxOpcode job s
  | .mailboxResponse job => Sys2Proof.Machine.execMailboxResponse job s
  | .rookHeartbeat => Sys2Proof.Machine.execRookHeartbeat s
  | .heartbeatTimeout => Sys2Proof.Machine.execHeartbeatTimeout s
  | .fwSessionTimeout => Sys2Proof.Machine.execFwSessionTimeout s
  | .rookImageLoad => Sys2Proof.Machine.execRookImageLoad s
  | .configLoad => Sys2Proof.Machine.execConfigLoad s
  | .memNlocLock v be => Sys2Proof.Machine.execMemNlocLock v be s
  | .catalogueSelect => Sys2Proof.Machine.execCatalogueSelect s
  | .sidebandRequest tag eid msg => Sys2Proof.Machine.execSidebandRequest tag eid msg s
  | .setEndpointId eid => Sys2Proof.Machine.execSetEndpointId eid s
  | .getEndpointId => Sys2Proof.Machine.execGetEndpointId s
  | .getMctpVersionSupport kind => Sys2Proof.Machine.execGetMctpVersionSupport kind s
  | .getMessageTypeSupport => Sys2Proof.Machine.execGetMessageTypeSupport s
  | .getVendorDefinedMsgSupport selector => Sys2Proof.Machine.execGetVendorDefinedMsgSupport selector s
  | .setdasa addr dyn => Sys2Proof.Machine.execSetdasa addr dyn s
  | .setaasa => Sys2Proof.Machine.execSetaasa s
  | .telemetrySnapshot => Sys2Proof.Machine.execTelemetrySnapshot s
  | .faultRecordMirror => Sys2Proof.Machine.execFaultRecordMirror s
  | .svcReqPress => Sys2Proof.Machine.execSvcReqPress s
  | .graceExpiry => Sys2Proof.Machine.execGraceExpiry s
  | .quiesceDrainDone => Sys2Proof.Machine.execQuiesceDrainDone s
  | .faultReport buf hw => Sys2Proof.Machine.execFaultReport buf hw s
  | .fltQrel v be => Sys2Proof.Machine.execFltQrel v be s
  | .fltReactWrite v be => Sys2Proof.Machine.execFltReactWrite v be s
  | .errnClear v be => Sys2Proof.Machine.execErrnClear v be s
  | .fltChkreq v be => Sys2Proof.Machine.execFltChkreq v be s
  | .fltInj v be => Sys2Proof.Machine.execFltInj v be s
  | .endOverrun unit id sq ctx cid => Sys2Proof.Machine.execEndOverrun unit id sq ctx cid s
  | .resetOverrun kind index next nextIndex => Sys2Proof.Machine.execResetOverrun kind index next nextIndex s
  | .rstCtx v be => Sys2Proof.Machine.execRstCtx v be s
  | .rstClu v be => Sys2Proof.Machine.execRstClu v be s
  | .rstPart v be => Sys2Proof.Machine.execRstPart v be s
  | .rstBlk v be => Sys2Proof.Machine.execRstBlk v be s
  | .porstAssert => Sys2Proof.Machine.execPorstAssert s
  | .porstDeassert => Sys2Proof.Machine.execPorstDeassert s
  | .strapSample retain ftest => Sys2Proof.Machine.execStrapSample retain ftest s
  | .perstAssert => Sys2Proof.Machine.execPerstAssert s
  | .perstDeassert => Sys2Proof.Machine.execPerstDeassert s
  | .pdomAck d up => Sys2Proof.Machine.execPdomAck d up s
  | .pdomAckTimeout d => Sys2Proof.Machine.execPdomAckTimeout d s
  | .pllLock d => Sys2Proof.Machine.execPllLock d s
  | .refclkLoss => Sys2Proof.Machine.execRefclkLoss s
  | .configReady => Sys2Proof.Machine.execConfigReady s
  | .clockStop cluster => Sys2Proof.Machine.execClockStop cluster s
  | .pllStop part => Sys2Proof.Machine.execPllStop part s
  | .pllRestart part => Sys2Proof.Machine.execPllRestart part s
  | .powerControlTick watts => Sys2Proof.Machine.execPowerControlTick watts s
  | .tempSample readings => Sys2Proof.Machine.execTempSample readings s
  | .resetComplete kind index => Sys2Proof.Machine.execResetComplete kind index s
  | .flrComplete => Sys2Proof.Machine.execFlrComplete s
  | .checkerTestTimeout => Sys2Proof.Machine.execCheckerTestTimeout s
  | .unsupportedMctpControlCommand cmd => Sys2Proof.Machine.execUnsupportedMctpControlCommand cmd s
  | .hxPmStateChange v => Sys2Proof.Machine.execHxPmStateChange v s
  | .hxCsrAck data => Sys2Proof.Machine.execHxCsrAck data s

end Sys2Proof.Machine
end

