-- ==== Sys2Proof/Safety.lean ====
section
/-! DEFINITION. What a safe step is: one that answers a next state. The one stop of the model is the loss of `REFCLK`, after which
the behaviour of every domain but AON is not defined (R472). -/

namespace Sys2Proof.Machine

/-- A domain is running and its clock has not lost its reference (R463, R472). -/
abbrev Runs (d : Dom) (s : State) : Prop := s.pwr.refLoss = false ∧ up s d = true

/-- A whole-word write of a CTLAP register takes effect: HIF runs, the function decodes it (R372), the safe state lets it (R444),
no reset holds the register (R507), and no earlier write waits at the flit port (R129, R134). -/
abbrev CtlOpen (off : Nat) (s : State) : Prop :=
  Runs .hif s ∧ ctlReach s = true ∧ (s.flt.safe = false ∨ safeWritable off = true) ∧ heldInReset s off = false ∧ portHeld s = false

/-- A write of a partition's register restarts its stopped PLL first (R474). -/
def woken (off : Nat) (s : State) : State := match ctlPart off with
  | some p => wakePart p s
  | none => s

/-- `c` is the command with number `id`, of an opcode, in a phase. -/
abbrev InPhase (s : State) (id : Nat) (op : Op) (ph : Phase) (c : Cmd) : Prop :=
  s.fe.cmd id = some c ∧ c.op = op ∧ c.phase = ph

/-- A path issues a word that takes effect: its domain runs, the word is fetched and defined (R221, R223), some guard is true (R207).
The path holds its group as it issues (R210, R237). -/
def Issues (s : State) (opc : Nat) (x : Issue) (p : Path) : Prop :=
  Runs (simtDom s x.launch x.team) s ∧ (pathOf s opc x).map Path.issue = some p ∧ allowed s p.pc 8 = true ∧ wordOk p.l.regs p.w = true ∧ p.act ≠ []

/-- A path has issued: its group counts it (R210, R237), and the clock of its cluster runs (R473). -/
def clocked (p : Path) (s : State) : State := onGroup p (fun _ => p.g) { s with pwr := s.pwr.startClk (p.t.core / 4) }

/-- A management command waits for its meaning: it is unanswered, no earlier one that changes state is, and nothing bars it (R410,
R413, R415). -/
abbrev Waiting (s : State) (id op : Nat) (j : Job) : Prop :=
  s.pwr.porstLow = false ∧ (s.rook.jobs.find? fun j => j.id = id) = some j ∧ j.ans = none ∧ j.opcode = op ∧ mustWait s j = false
    ∧ barred s j = none

/-- Offset and byte enables of a command that writes one register. -/
def regRow : Instr → Option (Nat × BitVec 4)
  | .cqHeadWrite q _ be => some (0xC4000 + 4 * q, be)
  | .hifIntxPendClear _ be => some (0xE0004, be)
  | .migCtlWrite _ be => some (0x82020, be)
  | .catalogueWrite _ be => some (0x83000, be)
  | .retLock _ be => some (0x83000, be)
  | .fltQrel _ be => some (0x11000C, be)
  | .fltReactWrite _ be => some (0x110018, be)
  | .errnClear _ be => some (0x110020, be)
  | .fltChkreq _ be => some (0x110024, be)
  | .fltInj _ be => some (0x110028, be)
  | .rstCtx _ be => some (0x110100, be)
  | .rstClu _ be => some (0x110104, be)
  | .rstPart _ be => some (0x110108, be)
  | .rstBlk _ be => some (0x11010C, be)
  | .memNlocLock _ be => some (0xB0008, be)
  | .tblSel _ be => some (0x70000, be)
  | .tblCmt _ be => some (0x70030, be)
  | .ctxSel _ be => some (0xC0000, be)
  | .ctxCmt _ be => some (0xC0010, be)
  | .qctlSqSel _ be => some (0xC1000, be)
  | .qctlSqCmt _ be => some (0xC1014, be)
  | .qctlCqSel _ be => some (0xC2000, be)
  | .qctlCqCmt _ be => some (0xC2014, be)
  | .atgSel _ be => some (0xB1000, be)
  | .atgCmt _ be => some (0xB100C, be)
  | .ratCmt _ be => some (0xA1000, be)
  | .stagedMemberWrite off _ be => some (off, be)
  | .dcWaysWrite k _ be => some (0xA2000 + 16 * k, be)
  | .l1ctlWrite k _ be => some (0xA3000 + 4 * k, be)
  | .partPwrctlWrite p _ be => some (0x120100 + 4 * p, be)
  | .mngClear k _ be => some (0x60000 + 0x40 * k, be)
  | .mngFreeze k _ be => some (0x60000 + 0x40 * k, be)
  | .latSel _ be => some (0xD0000, be)
  | .upwApply w _ be => some (0x8000C + 0x40 * w, be)
  | .upwClose w _ be => some (0x80010 + 0x40 * w, be)
  | .plcClose _ be => some (0x81018, be)
  | .plcSel _ be => some (0x81000, be)
  | .plcCmt _ be => some (0x81014, be)
  | _ => none

/-- A step answered a next state. -/
def Completes (o : Host.Outcome State Fault Refusal) : Prop := ∃ t, o = .next t

/-- `PORST_N` is asserted and nothing is powered or locked (R485). -/
def AllOff (s : State) : Prop := s.pwr.porstLow = true ∧ s.pwr.on = 0 ∧ s.pwr.lockd = 0 ∧ s.pwr.refLoss = false

/-- The commands of AON and of the reset pins, which need no clock made from `REFCLK` (R462, R472). -/
def onAon : Instr → Bool
  | .portAbsent | .getInfo _ | .getHealth _ | .faultRead _ | .faultRing _ | .quiesceStart _ | .quiesceNow _
    | .quiesceCancel _ | .quiesceExit _ | .locate _ | .powerCycle _ | .fwBegin _ | .fwData _ | .fwEnd _
    | .fwActivate _ | .cfgWrite _ | .tableList _ | .tableVerify _ | .tableAdopt _ | .tableDiscard _ | .telemRing _
    | .telemRead _ | .eventEnable _ | .unknownMailboxOpcode _ | .mailboxResponse _ | .fwSessionTimeout
    | .sidebandRequest _ _ _ | .setEndpointId _ | .getEndpointId | .getMctpVersionSupport _ | .getMessageTypeSupport
    | .getVendorDefinedMsgSupport _ | .setdasa _ _ | .setaasa | .svcReqPress | .graceExpiry | .faultReport _ _
    | .resetOverrun _ _ _ _ | .porstAssert | .porstDeassert | .strapSample _ _ | .perstAssert | .perstDeassert
    | .pdomAck _ _ | .pdomAckTimeout _ | .pllLock _ | .refclkLoss | .tempSample _ | .checkerTestTimeout
    | .unsupportedMctpControlCommand _ => true
  | _ => false

/-- The block is as `PORST_N` leaves it: the reset state, but for the queue, what has left the block, the free values used, the flash,
the identity of the side-band and the security anchor, and the level of `PERST_N` (R465, R485). -/
def HeldByPorst (s : State) : Prop :=
  s = { State.reset with
    pending := s.pending
    freeCtr := s.freeCtr
    out := s.out
    rook := { State.reset.rook with
      flash := s.rook.flash, sbAddr := s.rook.sbAddr, testClosed := s.rook.testClosed, keyDigest := s.rook.keyDigest }
    pwr := { State.reset.pwr with perstLow := s.pwr.perstLow } }

end Sys2Proof.Machine
end

