-- ==== Sys2Proof/WellFormed.lean ====
section
/-! DEFINITION. The values that the operands of a command may take: the numbers of queues, windows, tables, slices, cores,
clusters, partitions, ports, vectors and domains of version 2.3 (R25, R28), the offsets of the apertures (R373), and the lengths
of transfers. A command outside them is none that the block can receive. -/

namespace Sys2Proof.WellFormed

def sqOk (n : Nat) : Bool := decide (n < 16384)
def cqOk (n : Nat) : Bool := decide (n < 4096)
def ctxOk (n : Nat) : Bool := decide (n < 4096)
def windowOk (n : Nat) : Bool := decide (n < 16)
def tableOk (n : Nat) : Bool := decide (n < 16384)
def sideOk (n : Nat) : Bool := decide (n < 2)
def siteOk (n : Nat) : Bool := decide (n < 10)
def sliceOk (n : Nat) : Bool := decide (n < 64)
def coreOk (n : Nat) : Bool := decide (n < 256)
def streamOk (n : Nat) : Bool := decide (n < 2)
/-- Compute clusters 0 to 63 and gather clusters 64 to 71. -/
def clusterOk (n : Nat) : Bool := decide (n < 72)
def partOk (n : Nat) : Bool := decide (n < 8)
def portOk (n : Nat) : Bool := decide (n < 144)
def vecOk (n : Nat) : Bool := decide (n < 4096)
def laneOk (n : Nat) : Bool := decide (n < 32)
def domOk (n : Nat) : Bool := decide (n < 11)
/-- Page request groups (R317). -/
def prgOk (n : Nat) : Bool := decide (n < 512)
def eidOk (n : Nat) : Bool := decide (n < 256)
/-- An offset of a 4-B word of CTLAP (R495). -/
def offOk (off : Nat) : Bool := decide (off % 4 = 0 ∧ off < 2 ^ 25)
/-- A run of bytes within an aperture of `size` bytes. -/
def spanOk (size off n : Nat) : Bool := decide (off + n ≤ size)
/-- In the windows, or in what lies above them up to PLAP (R373). -/
def upapOk (off n : Nat) : Bool := spanOk (2 ^ 24) off n || (decide (2 ^ 24 ≤ off) && spanOk (2 ^ 28) off n)
/-- A 64-B address of CXL.cache and CXL.mem. -/
def halfOk (a : Nat) : Bool := decide (a % 64 = 0)
def lineDataOk (n : Nat) : Bool := decide (n = 64)
def resetOk : ResetKind → Nat → Bool
  | .context, i => ctxOk i
  | .cluster, i => clusterOk i
  | .partition, i => partOk i
  | .block, i => decide (i = 0)
def cfgOk : CfgReq → Bool
  | .msixMask vec _ => vecOk vec
  | .read _ | .command _ _ _ | .msixControl _ _ | .linkControl _ _ | .priStatusClear | .priAllocation _ | .completionTimeout _
  | .linkRead _ | .linkWrite _ _ | .powerState _ => true

end Sys2Proof.WellFormed

namespace Sys2Proof

open Sys2Proof.WellFormed

/-- The operands of a command lie within the block. -/
def Instr.wellFormed : Instr → Bool
  | .nop _ | .gatherPool _ | .seqPool _ _ | .launch _ | .launchAttach _ | .move _ _ | .castle _ | .commit _ | .fence _
    | .signal _ | .timestamp _ | .admission _ | .latePrediction _ | .watchdogExpiry _ | .sqOrderWaitEnd _
    | .completionRecordIssue _ | .cqWaitTimeout _ | .strideBoundary _ | .sequencerGrant _ | .bagListReadDone _ _ _
    | .landingComplete _ | .castleCommitPoint _ | .castleWarmDone _ | .stagingWaitEnd | .plcClose _ _ | .plcSel _ _
    | .plcCmt _ _ | .epochBoundary | .migCtlWrite _ _ | .catalogueWrite _ _ | .catalogueWriteDone | .retLock _ _
    | .tblSel _ _ | .tblCmt _ _ | .ctxSel _ _ | .ctxCmt _ _ | .qctlSqSel _ _ | .qctlSqCmt _ _ | .qctlCqSel _ _
    | .qctlCqCmt _ _ | .atgSel _ _ | .atgCmt _ _ | .ratCmt _ _ | .ratApplyDone | .latSel _ _ | .groupWake _ _ _
    | .launchEnd _ | .moverRowDelivered _ _ _ _ | .pageRequestGroup _ | .translationCompletion _ _
    | .translationTimeout _ | .write | .readCurrent _ | .d2hTimeout _ | .portAbsent | .linkUp _ | .linkDown
    | .hotReset | .l1IdleExpiry | .l0pWindowEnd _ _ _ _ | .d3hotEntry | .flr | .busMasterEnableSet
    | .hifIntxPendClear _ _ | .viral | .doeRequest _ _ | .getInfo _ | .getHealth _ | .faultRead _ | .faultRing _
    | .quiesceStart _ | .quiesceNow _ | .quiesceCancel _ | .quiesceExit _ | .locate _ | .powerCycle _ | .fwBegin _
    | .fwData _ | .fwEnd _ | .fwActivate _ | .cfgWrite _ | .tableList _ | .tableVerify _ | .tableAdopt _
    | .tableDiscard _ | .telemRing _ | .telemRead _ | .eventEnable _ | .unknownMailboxOpcode _ | .mailboxResponse _
    | .rookHeartbeat | .heartbeatTimeout | .fwSessionTimeout | .rookImageLoad | .configLoad | .memNlocLock _ _
    | .catalogueSelect | .getEndpointId | .getMctpVersionSupport _ | .getMessageTypeSupport
    | .getVendorDefinedMsgSupport _ | .setdasa _ _ | .setaasa | .telemetrySnapshot | .faultRecordMirror | .svcReqPress
    | .graceExpiry | .quiesceDrainDone | .fltQrel _ _ | .fltReactWrite _ _ | .errnClear _ _ | .fltChkreq _ _
    | .fltInj _ _ | .rstCtx _ _ | .rstClu _ _ | .rstPart _ _ | .rstBlk _ _ | .porstAssert | .porstDeassert
    | .strapSample _ _ | .perstAssert | .perstDeassert | .refclkLoss | .configReady | .powerControlTick _
    | .flrComplete | .checkerTestTimeout | .unsupportedMctpControlCommand _ | .hxPmStateChange _ | .hxCsrAck _ => true
  | .tailDoorbell sq data => sqOk sq && decide (data.data.length = 4)
  | .dbapSlotWrite sq off data => sqOk sq && spanOk 0x1000 off data.data.length
  | .commandRead sq | .sqRingReadDone sq _ => sqOk sq
  | .phaseTagLineIssue cq => cqOk cq
  | .cqHeadWrite q _ _ => cqOk q
  | .coalesceDelayExpiry vec | .msixUnmask vec => vecOk vec
  | .gatherSubrequest _ part | .partialPoolArrival _ part | .partPwrctlWrite part _ _ | .pllStop part
    | .pllRestart part => partOk part
  | .rowSectorArrival _ part _ sector => partOk part && decide (sector < 64)
  | .upapWrite off data => upapOk off data.data.length
  | .upapRead off n => upapOk off n
  | .plapWrite off _ data => spanOk (2 ^ 28) off data.data.length
  | .plapRead off n => spanOk (2 ^ 28) off n
  | .upwApply w _ _ | .upwClose w _ _ => windowOk w
  | .rowCommit slice | .dcWaysWrite slice _ _ | .waysChangeDone slice | .sideBufferExpiry slice _ => sliceOk slice
  | .migrationCopyDone table side _ | .returnHomeDone table side _ | .forwardingRelease table side
    | .digestScanDone table side => tableOk table && sideOk side
  | .stagedMemberWrite off _ _ | .loReadLatch off _ => offOk off
  | .mngClear site _ _ | .mngFreeze site _ _ => siteOk site
  | .rcRead off bes => offOk off && decide (off + 4 * bes.length ≤ 2 ^ 25)
  | .l1ctlWrite cluster _ _ => decide (cluster < 64)
  | .registerWrite off words => offOk off && decide (off + 4 * words.data.length ≤ 2 ^ 25)
  | .pldw x | .pmma x | .prq x | .pwait x | .nopInstr x | .bra x | .brx x | .call x | .ret x | .exit x | .bar x
    | .yield x | .trap x | .gsync x | .add x | .sub x | .mul x | .mulhi x | .mulhu x | .mad x | .min x | .max x
    | .abs x | .neg x | .minu x | .maxu x | .adds x | .subs x | .and x | .or x | .xor x | .not x | .shl x | .shr x
    | .sar x | .rot x | .ones x | .lead x | .fext x | .fins x | .rbit x | .bysel x | .pcmp x | .sel x | .plog x
    | .p2v x | .v2p x | .mov x | .mulsh x | .madsh x | .mulshu x | .rshr x | .satn x | .bunp x | .bpk x | .bse x
    | .bsq x | .badd x | .bsub x | .bmul x | .bmulsh x | .bmax x | .bdp x | .tli x | .gxch x | .gpoll x | .gfold x
    | .gpeer x | .gpre x | .ld x | .st x | .pref x | .lds x | .sts x | .ats x | .atom x | .red x | .ldr x | .stc x
    | .fenceInstr x | .s2v x | .waitge x | .wget x | .wdone x | .tmov x | .tout x | .twait x | .undefinedEncoding x _ => laneOk x.lane
  | .pressInstrStart core strm | .pressInstrComplete core strm _ => coreOk core && streamOk strm
  | .teamPlace _ core | .readShared core _ | .readOwn core _ | .writeThrough core | .writeBack core
    | .evictNotice core _ | .snoop core _ | .snoopResponse core _ | .nakRetry core _ | .l1Lost core _ => coreOk core
  | .prgResponse index code => prgOk index && decide (code < 16)
  | .prgResponseTimeout index => prgOk index
  | .atsInvalidationRequest itag pasid _ pages => decide (itag < 32) && decide (pasid < 2 ^ 20) && decide (0 < pages)
  | .invalidationCompletion itag => decide (itag < 32)
  | .reservationExpiry _ _ _ lane => laneOk lane
  | .snpData pa | .snpInv pa | .snpCur pa => halfOk pa
  | .d2hResponse _ data _ => lineDataOk data.length || decide (data = [])
  | .memRd hpa | .memRdData hpa | .memSpecRd hpa | .memInv hpa | .memInvNt hpa => halfOk hpa
  | .memWr hpa data _ | .memWrPtl hpa data _ => halfOk hpa && lineDataOk data.length
  | .portCredit port | .portWriteAck port _ | .portSreAck port | .portSrxAck port | .portReady port _ | .portLost port
    | .scrubRead port => portOk port
  | .portReadData port _ status => portOk port && decide (status.length = 4)
  | .configRequest r => cfgOk r
  | .hdmDecoderCommit k _ _ _ _ => decide (k < 2)
  | .ideCheckFail stream => decide (stream < 4)
  | .sidebandRequest tag eid _ => decide (tag < 8) && eidOk eid
  | .setEndpointId eid => eidOk eid
  | .faultReport buf _ => decide (buf < 9)
  | .endOverrun _ _ sq ctx _ => sqOk sq && ctxOk ctx
  | .resetOverrun kind index next nextIndex => resetOk kind index && resetOk next nextIndex
  | .pdomAck d _ | .pdomAckTimeout d | .pllLock d => domOk d
  | .clockStop cluster => clusterOk cluster
  | .tempSample readings => decide (readings.length = 8)
  | .resetComplete kind index => resetOk kind index

end Sys2Proof
end

