-- ==== Sys2Proof/Certificates/Slice0/Obligations.lean ====
section
/-! DEFINITION. The statements about the block, for the provers. Each names the rules of spec/ it follows. -/

open Sys2Proof Sys2Proof.Machine

/-- The command at the front of the queue runs with the queue's rest. -/
def Obligations.StepRunsFrontCommand : Prop :=
  ∀ (s : State) (c : Instr) (rest : List Instr), s.pending = c :: rest → step s = exec c { s with pending := rest }

/-- The model's choice (log 1): with no command waiting a step is one rising edge of `ACLK`, which adds 40 to DEVTIME (R482) and
moves nothing but the LFSRs of the slices and L1s (R260, R276), the fetch time of R354 and the idle times of R474. -/
def Obligations.IdleStepIsOneAclkEdge : Prop :=
  ∀ s : State, s.pending = [] → s.pwr.porstLow = false →
    ∃ slices cores caps idle, step s = .next { s with
      devtime := s.devtime + 40
      dc := { s.dc with slices := slices }
      simt := { s.simt with cores := cores }
      fe := { s.fe with caps := caps }
      pwr := { s.pwr with idleFrom := idle } }

/-- The reset state: `PORST_N` asserted, no domain powered or locked, the isolations set, DEVTIME 0, no fault record, no context
enabled, every plain register at its reset value, no command waiting. `PORST_ASSERT` puts every state under the invariant (R485),
with the queue, what has left the block, the flash and what the security anchor holds. -/
def Obligations.ResetStateIsOffAndReached : Prop :=
  (AllOff State.reset ∧ State.reset.pending = [] ∧ State.reset.pwr.iso = 0x7FF#11 ∧ State.reset.devtime = 0
      ∧ State.reset.flt.recs = [] ∧ State.reset.flt.safe = false ∧ (∀ k, (State.reset.fe.ctxOf k).state = 0)
      ∧ (∀ off, rget State.reset off = regReset off)) ∧
  (∀ s : State, ∃ t, exec .porstAssert s = .next t ∧ HeldByPorst t ∧ t.pending = s.pending ∧ t.out = s.out
      ∧ t.rook.flash = s.rook.flash ∧ t.regs = [] ∧ t.poison = [] ∧ t.flt = {} ∧ t.fe = {} ∧ t.tbl = {})

/-- While `PORST_N` is asserted and no command releases it, every step keeps the block in its reset state, whatever is commanded:
only the queue moves and `PERST_N` is followed. -/
def Obligations.PorstHoldsTheResetState : Prop :=
  ∀ s t : State, HeldByPorst s → (∀ c ∈ s.pending, c ≠ .porstDeassert) → step s = .next t →
    HeldByPorst t ∧ (∀ c ∈ t.pending, c ≠ .porstDeassert) ∧ t.dram = [] ∧ t.devtime = 0

/-- The reset state meets the invariant. -/
def Obligations.ResetStateIsHeldByPorst : Prop :=
  HeldByPorst State.reset ∧ ∀ c ∈ State.reset.pending, c ≠ .porstDeassert

/-- With REFLOSS set every command of the domains other than AON stops with the fault of log 4, since R472 leaves the behaviour of
the block undefined; every command of AON and of the reset pins goes on. -/
def Obligations.LostReferenceStopsTheOtherDomains : Prop :=
  ∀ (s : State) (c : Instr), s.pwr.refLoss = true →
    (onAon c = false → exec c s = .fault .refclkLost) ∧ (onAon c = true → Completes (exec c s))

/-- With its reference no command of the block stops. -/
def Obligations.NoCommandStopsWithItsReference : Prop :=
  ∀ (s : State) (c : Instr), s.pwr.refLoss = false → Completes (exec c s)

/-- Admission (R27, R354, R355): a refused command ends with its status; one that fits its deadline, or has none, takes its home,
the moment, the settings of its context and its prediction, and does what its opcode does at admission; one that does not fit
resigns with RESIGNED_PREDICT. -/
def Obligations.AdmissionTakesHomeOrRefuses : Prop :=
  (∀ (s : State) (id : Nat) (c : Cmd), Runs .fab s → s.fe.cmd id = some c → c.op ≠ .move → admittable s c = true →
    pdtWaits s c = false → admitStatus s c (chooseHome s (s.fe.ctxOf c.ctx).pmask) ≠ 0 →
    exec (.admission id) s = .next (modCmd id (fun d =>
      { d.finish (admitStatus s c (chooseHome s (s.fe.ctxOf c.ctx).pmask)) with tAdmit := s.devtime }) s)) ∧
  (∀ (s : State) (id home : Nat) (c : Cmd), Runs .fab s → s.fe.cmd id = some c → c.op ≠ .move → admittable s c = true →
    pdtWaits s c = false → chooseHome s (s.fe.ctxOf c.ctx).pmask = some home → admitStatus s c (some home) = 0 →
    (hdrDeadline c.bytes = 0 ∨ resignableOp c.op = false ∨
      (s.devtime.toNat < hdrDeadline c.bytes ∧ (s.fe.ctxOf c.ctx).pred = false)) →
    ∃ p : W64,
      let d := { c with home := some home, tAdmit := s.devtime, tables := s.tbl.desc, cfg := (s.fe.ctxOf c.ctx).cfg,
                        share := (s.fe.ctxOf c.ctx).share, common := commonNow s c.ctx, strideStart := s.devtime,
                        nAdmit := s.fe.nextAdmit + 1, landTo := landTeams s c.ctx c.bytes home (admitDims s c.bytes c.op), pred := p }
      ((s.fe.ctxOf c.ctx).pred = false → p = 0) ∧
      exec (.admission id) s = .next (atAdmission d (modCmd id (fun _ => { d with phase := .admitted })
        { s with fe := { s.fe with nextAdmit := s.fe.nextAdmit + 1 } }))) ∧
  (∀ (s : State) (id home : Nat) (c : Cmd), Runs .fab s → s.fe.cmd id = some c → c.op = .gatherPool → admittable s c = true →
    chooseHome s (s.fe.ctxOf c.ctx).pmask = some home → admitStatus s c (some home) = 0 → hdrDeadline c.bytes ≠ 0 →
    hdrDeadline c.bytes ≤ s.devtime.toNat →
    ∃ p : W64, exec (.admission id) s = .next (modCmd id (fun _ =>
      { c with home := some home, tAdmit := s.devtime, tables := s.tbl.desc, cfg := (s.fe.ctxOf c.ctx).cfg,
               share := (s.fe.ctxOf c.ctx).share, common := commonNow s c.ctx, strideStart := s.devtime,
               nAdmit := s.fe.nextAdmit + 1, landTo := landTeams s c.ctx c.bytes home (admitDims s c.bytes c.op), pred := p,
               phase := .ready, status := 1, work := .none }) { s with fe := { s.fe with nextAdmit := s.fe.nextAdmit + 1 } })) ∧
  (∀ (s : State) (id home : Nat) (c : Cmd), Runs .fab s → s.fe.cmd id = some c → c.op = .nop → admittable s c = true →
    chooseHome s (s.fe.ctxOf c.ctx).pmask = some home → admitStatus s c (some home) = 0 →
    ∃ t d, exec (.admission id) s = .next t ∧ t.fe.cmd id = some d ∧ d.phase = .admitted ∧ d.home = some home ∧
      d.tAdmit = s.devtime ∧ d.bytes = c.bytes)

/-- Admitted NOP, FENCE, SIGNAL, TIMESTAMP, COMMIT and CASTLE (R349, R350, R141, R149): a NOP ends with OK, the three ordering
points wait for the earlier commands of their SQ, a COMMIT runs until its batch is done, a CASTLE takes its place at the castling
sequencers. Admitted GATHER_POOL and SEQ_POOL (R104, R107, R114): the list form reads its bag list first; the in-line form sends a
sub-request to every partition that holds a position; a SEQ_POOL with RANGE waits for a pooling sequencer with its positions. -/
def Obligations.OpcodesStart : Prop :=
  (∀ (s : State) (id : Nat) (c : Cmd), Runs .fab s → InPhase s id .nop .admitted c →
    exec (.nop id) s = .next (modCmd id (fun d => d.finish 0) s)) ∧
  (∀ (s : State) (id : Nat) (c : Cmd), Runs .fab s → InPhase s id .fence .admitted c →
    exec (.fence id) s = .next (modCmd id (fun d => { d with phase := .orderWait }) s)) ∧
  (∀ (s : State) (id : Nat) (c : Cmd), Runs .fab s → InPhase s id .signal .admitted c →
    exec (.signal id) s = .next (modCmd id (fun d => { d with phase := .orderWait }) s)) ∧
  (∀ (s : State) (id : Nat) (c : Cmd), Runs .fab s → InPhase s id .timestamp .admitted c →
    exec (.timestamp id) s = .next (modCmd id (fun d => { d with phase := .orderWait }) s)) ∧
  (∀ (s : State) (id : Nat) (c : Cmd), Runs .fab s → InPhase s id .commit .admitted c →
    exec (.commit id) s = .next (settleCommits (modCmd id (fun d => { d with phase := .running }) s))) ∧
  (∀ (s : State) (id : Nat) (c : Cmd), Runs .fab s → InPhase s id .castle .admitted c →
    exec (.castle id) s = .next (modCmd id (fun d => { d with phase := .waitSeq }) s)) ∧
  (∀ (s : State) (id : Nat) (c : Cmd), Runs .fab s → InPhase s id .gatherPool .admitted c → hdrForm c.bytes = true →
    exec (.gatherPool id) s = .next (modCmd c.id (fun d => { d with phase := .running, work := .gather { stage := .list } }) s)) ∧
  (∀ (s : State) (id : Nat) (c : Cmd), Runs .fab s → InPhase s id .gatherPool .admitted c → hdrForm c.bytes = false →
    (inlinePos c).any (fun x => decide (x.part < 8)) = true →
    exec (.gatherPool id) s = .next (modCmd c.id (fun _ => { c with phase := .running, work := .gather {
      stage := .gather
      bags := (inlineLens c.bytes).map fun n => (gpTable c.bytes, n)
      pos := inlinePos c
      subs := ((List.range 8).filter fun p => (inlinePos c).any fun x => x.part = p).map fun p => (p, .sent) } }) s)) ∧
  (∀ (s : State) (id : Nat) (arr : ReadBack) (c : Cmd), Runs .fab s → InPhase s id .seqPool .admitted c → gpRange c.bytes = true →
    exec (.seqPool id arr) s = .next (modCmd c.id (fun _ => { c with phase := .waitSeq, work := .gather {
      stage := .gather
      bags := [(gpTable c.bytes, spCount c.bytes)]
      pos := rangePos c.bytes (gpTable c.bytes) (c.table (gpTable c.bytes))
      subs := ((List.range 8).filter fun p => (rangePos c.bytes (gpTable c.bytes) (c.table (gpTable c.bytes))).any fun x =>
        x.part = p).map fun p => (p, .sent) } }) s))

/-- The ends of the ordering points (R350, R349): with no earlier command of the SQ left, a FENCE ends with OK; a SIGNAL and a
TIMESTAMP with a device address write their 8 bytes and end. A resignation in flight ends the command with RESIGNED_LATE once
its deadline has passed (R355); a watchdog that has run out ends it with TIMEOUT, after the record of source 0x10 has been sent to
the collector (R359, R449). -/
def Obligations.OrderingPointsAndLimitsEndCommands : Prop :=
  (∀ (s : State) (id : Nat) (c : Cmd), Runs .fab s → InPhase s id .fence .orderWait c →
    (∀ d ∈ s.fe.cmds, d.sq = c.sq → c.id ≤ d.id) →
    exec (.sqOrderWaitEnd id) s = .next (modCmd id (fun d => d.finish 0) s)) ∧
  (∀ (s : State) (id : Nat) (c : Cmd), Runs .fab s → InPhase s id .signal .orderWait c →
    (∀ d ∈ s.fe.cmds, d.sq = c.sq → c.id ≤ d.id) → c.wrote = false → sgSpace c.bytes = 1 → allowed s (sgAddr c.bytes) 8 = true →
    exec (.sqOrderWaitEnd id) s = .next (modCmd id (fun d => d.finish 0)
      (writeDevice (.cmd id) (some id) (sgAddr c.bytes) (leBytes 8 (sgValue c.bytes))
        (modCmd id (fun _ => { c with wrote := true, strideStart := s.devtime }) s)))) ∧
  (∀ (s : State) (id : Nat) (c : Cmd), Runs .fab s → InPhase s id .timestamp .orderWait c →
    (∀ d ∈ s.fe.cmds, d.sq = c.sq → c.id ≤ d.id) → c.wrote = false → sgSpace c.bytes = 1 → allowed s (sgAddr c.bytes) 8 = true →
    exec (.sqOrderWaitEnd id) s = .next (modCmd id (fun d => d.finish 0)
      (writeDevice (.cmd id) (some id) (sgAddr c.bytes) (leBytes 8 s.devtime.toNat)
        (modCmd id (fun _ => { c with wrote := true, strideStart := s.devtime }) s)))) ∧
  (∀ (s : State) (id : Nat) (c : Cmd), Runs .fab s → InPhase s id .signal .orderWait c →
    (∀ d ∈ s.fe.cmds, d.sq = c.sq → c.id ≤ d.id) → c.wrote = false → sgSpace c.bytes = 1 → allowed s (sgAddr c.bytes) 8 = false →
    exec (.sqOrderWaitEnd id) s = .next (faultCmd { c with wrote := true, strideStart := s.devtime } 0x16 (some (sgAddr c.bytes))
        (modCmd id (fun _ => { c with wrote := true, strideStart := s.devtime }) s))) ∧
  (∀ (s : State) (id : Nat) (c : Cmd), Runs .fab s → s.fe.cmd id = some c → resignable s c = true → bit c.cfg 29 = true →
    hdrDeadline c.bytes ≠ 0 → hdrDeadline c.bytes ≤ s.devtime.toNat →
    exec (.latePrediction id) s = .next (endCommand id 2 s)) ∧
  (∀ (s : State) (id : Nat) (c : Cmd), Runs .fab s → s.fe.cmd id = some c → c.home.isSome = true → c.phase ≠ .checked →
    unfinished s c = true → launchEnding s c = false → wdogLimit c ≤ s.devtime.toNat - c.tAdmit.toNat →
    exec (.watchdogExpiry id) s = .next (endCommand id 0x22
      (detectFor id ((locPartOf (watchdogReport s c).loc).getD 8) (watchdogReport s c) s)))

/-- The front end reads the slots at HEAD (R340, R347, R357): where its arbiter may serve the SQ, the command that `newCmd` makes of
them joins the commands in flight, HEAD moves past its slots, and the bytes read from a ring are used up; while another context is due
a command and the SQ's is not, nothing is read. The bytes of a ring that a read brings back are kept for the command. -/
def Obligations.CommandsAreReadAtHead : Prop :=
  (∀ (s : State) (sq : Nat), Runs .fab s → headReady s sq = true →
    s.fe.mayServe .front (frontReqs s) ((s.fe.sqOf sq).ctx, sq) = true →
    ∃ recv, exec (.commandRead sq) s = .next { s with fe := {
        s.fe.serve .front (frontReqs s) ((s.fe.sqOf sq).ctx, sq) 1 with
        cmds := s.fe.cmds ++ [newCmd s sq (cmdAtHead s.fe sq)]
        nextId := s.fe.nextId + 1
        ring := fset [] s.fe.ring sq []
        sq := fset {} s.fe.sq sq { s.fe.sqOf sq with head := (newCmd s sq (cmdAtHead s.fe sq)).sqHead, recv := recv } } }) ∧
  (∀ (s : State) (sq ctx : Nat), Runs .fab s → headReady s sq = true → s.fe.isDue .front (frontReqs s) (s.fe.sqOf sq).ctx = false →
    ctx ∈ reqCtxs (frontReqs s) → s.fe.isDue .front (frontReqs s) ctx = true → exec (.commandRead sq) s = .next s) ∧
  (∀ (s : State) (sq : Nat) (b : Bytes), Runs .fab s → (s.fe.sqOf sq).en = true → (s.fe.sqOf sq).isRing = true →
    (s.fe.sqOf sq).err = false →
    exec (.sqRingReadDone sq (.data b)) s = .next { s with fe := { s.fe with ring := fset [] s.fe.ring sq b } })

/-- A DBAP write stores its enabled slot bytes; a whole doorbell word with a legal tail gives the queue its new TAIL (R338, R339).
A doorbell of a queue that is not enabled counts and does nothing else. -/
def Obligations.DoorbellsAndSlots : Prop :=
  (∀ (s : State) (sq off : Nat) (data : Masked), Runs .hif s → ctlReach s = true → s.flt.safe = false → portHeld s = false →
    sq < 16384 → 0x40 ≤ off → exec (.dbapSlotWrite sq off ⟨data, false⟩) s = .next { s with fe := { s.fe with
      dbap := memWrite s.fe.dbap (((placedMasked off data).filter fun b => 0x40 ≤ b.1 && b.1 < 0x1000).map fun b =>
        (sq * 0x1000 + b.1, b.2)) } }) ∧
  (∀ (s : State) (sq : Nat) (b0 b1 b2 b3 : Byte), Runs .hif s → ctlReach s = true → s.flt.safe = false → portHeld s = false → sq < 16384 →
    (s.fe.sqOf sq).en = true → (s.fe.sqOf sq).err = false → s.rook.qstate ≠ 3 → leNat [b0, b1, b2, b3] < 2 ^ 15 →
    leNat [b0, b1, b2, b3] < (s.fe.sqOf sq).size →
    exec (.tailDoorbell sq ⟨[some b0, some b1, some b2, some b3], false⟩) s = .next { s with fe := { s.fe with
      sq := fset {} s.fe.sq sq ((s.fe.sqOf sq).setTail (leNat [b0, b1, b2, b3]) s.devtime) } }) ∧
  (∀ (s : State) (sq : Nat) (b0 b1 b2 b3 : Byte), Runs .hif s → ctlReach s = true → s.flt.safe = false → portHeld s = false → sq < 16384 →
    (s.fe.sqOf sq).en = false →
    exec (.tailDoorbell sq ⟨[some b0, some b1, some b2, some b3], false⟩) s = .next (rcount 0xC3000 1 s))

/-- Completion records (R343, R351, R244, R353, R382). A ready command whose writes have gone out puts lines 1 and 2 of its record
at TAIL of its device CQ and leaves line 0 for the phase tag; line 0 follows once they are visible. A CQ that stays full for 10 ms
is reported once. A head write within the queue moves the head. A vector whose delay has run out is raised. -/
def Obligations.CompletionRecordsAreIssued : Prop :=
  (∀ (s : State) (id : Nat) (c : Cmd), Runs .fab s → s.fe.cmd id = some c → c.phase = .ready → s.flt.safe = false →
    c.waitsReport = false → releaseInForce s c = false → recordMayIssue (untag id s) c = true →
    (s.fe.cqOf c.cq).en = true → (s.fe.cqOf c.cq).err = false → (s.fe.cqOf c.cq).full = false → (s.fe.cqOf c.cq).dev = true →
    (∀ i ∈ [0, 1, 2], allowed (untag id s) ((s.fe.cqOf c.cq).base + 192 * (s.fe.cqOf c.cq).tail + 64 * i) 64 = true) →
    exec (.completionRecordIssue id) s = .next (issueRecord c ((s.fe.cqOf c.cq).base + 192 * (s.fe.cqOf c.cq).tail)
      ((s.fe.cqOf c.cq).base + 192 * (s.fe.cqOf c.cq).tail + 64) ((s.fe.cqOf c.cq).base + 192 * (s.fe.cqOf c.cq).tail + 128)
      (untag id s))) ∧
  (∀ (s : State) (cq : Nat) (t : TagLine), Runs .fab s → s.flt.safe = false →
    (s.fe.tags.find? fun x => x.cq = cq && !x.sent && !whoOut s (.record x.id)) = some t → t.failed = false →
    exec (.phaseTagLineIssue cq) s = .next (settleTags (recordWrite t.dev (.tagLine t.id) t.addr t.line0
      { s with fe := { s.fe with tags := mapWhere (fun x => x.id = t.id) (fun x => { x with sent := true }) s.fe.tags } }))) ∧
  (∀ (s : State) (id : Nat) (c : Cmd), Runs .fab s → s.fe.cmd id = some c → c.phase = .ready → c.cqWaited = true →
    c.cqLate = false → 10000000 < s.devtime.toNat - c.cqSince.toNat → (s.fe.cqOf c.cq).full = true →
    exec (.cqWaitTimeout id) s = .next (detect 8 (report 0x2A none locFront none (c.cq + 2 ^ 16))
      (modCmd id (fun d => { d with cqLate := true }) s))) ∧
  (∀ (s : State) (q : Nat) (v : W32), CtlOpen (0xC4000 + 4 * q) s → q < 4096 → fld v 14 0 < (s.fe.cqOf q).size →
    exec (.cqHeadWrite q v 0xF#4) s = .next { s with fe := { s.fe with
      cq := fset {} s.fe.cq q { s.fe.cqOf q with head := fld v 14 0 } } }) ∧
  (∀ (s : State) (q : Nat) (v : W32), CtlOpen (0xC4000 + 4 * q) s → q < 4096 → (s.fe.cqOf q).en = true →
    (s.fe.cqOf q).size ≤ fld v 14 0 →
    exec (.cqHeadWrite q v 0xF#4) s = .next (detect 8 (report 0x2A none locFront none (q + fld v 14 0 * 2 ^ 32)) s)) ∧
  (∀ (s : State) (vec : Nat), Runs .hif s → 0 < (fget {} s.hif.coal vec).n →
    1000 * fld (rget s (0xE1000 + 4 * vec)) 15 0 ≤ s.devtime.toNat - (fget {} s.hif.coal vec).first.toNat →
    exec (.coalesceDelayExpiry vec) s = .next (raiseVec vec { s with hif := { s.hif with coal := fset {} s.hif.coal vec {} } }))

/-- Sequencers (R360): a waiter that the arbiter serves takes a free sequencer and runs; at the end of a stride a routine whose
kind has no waiter goes on, and one that is no more entitled than a waiter yields to it. At every arbiter of R357 no context is owed
more than one grant after a grant, where none was before and at most the one served was due. -/
def Obligations.SequencersGrantAndYield : Prop :=
  (∀ (s : State) (id : Nat) (c : Cmd), Runs .fab s → s.fe.cmd id = some c → c.phase = .waitSeq →
    seqHeld s.fe (seqKind c) < seqCount c.op → (bestWaiter s.fe (seqKind c)).map Cmd.id = some id →
    exec (.sequencerGrant id) s = .next { modCmd c.id (fun d => d.run s) s with
      fe := grantStride c (s.fe.modCmd c.id fun d => d.run s) }) ∧
  (∀ (s : State) (id : Nat) (c : Cmd), Runs .fab s → s.fe.cmd id = some c → atBoundary s c = true →
    bestWaiter s.fe (seqKind c) = none →
    exec (.strideBoundary id) s = .next (grant c s)) ∧
  (∀ (s : State) (id : Nat) (c w : Cmd), Runs .fab s → s.fe.cmd id = some c → atBoundary s c = true →
    bestWaiter s.fe (seqKind c) = some w → entitled s.fe (seqKind c) c.ctx w.ctx = false →
    exec (.strideBoundary id) s = .next (grant w (modCmd id (fun d => { d with phase := .yielded, yields := d.yields + 1 }) s))) ∧
  (∀ (f : FrontEnd) (a : Arb) (reqs : List (Nat × Nat)) (r : Nat × Nat), r ∈ reqs → (∀ x ∈ reqs, x.1 < 4096) →
    (∀ c ∈ reqCtxs reqs, f.owedAt a c ≤ f.weightSum reqs ∧ (c ≠ r.1 → f.isDue a reqs c = false)) →
    ∀ c ∈ reqCtxs reqs, (f.serve a reqs r 1).owedAt a c ≤ (f.serve a reqs r 1).weightSum reqs)

/-- Integer arithmetic (R214, R219): each executing thread's Vd takes the result of its operands, the path goes on by one word and
nothing else of the group changes (`writeRd`). Minimum and maximum by the signed and by the unsigned order, and the two saturating
sums (R214, R219). -/
def Obligations.IntegerAndSaturatingArithmetic : Prop :=
  (∀ (s : State) (x : Issue) (p : Path),
    (Issues s 0x10 x p → exec (.add x) s = .next (writeRd p (fun i => p.a i + p.b i) (clocked p s))) ∧
    (Issues s 0x11 x p → exec (.sub x) s = .next (writeRd p (fun i => p.a i - p.b i) (clocked p s))) ∧
    (Issues s 0x12 x p → exec (.mul x) s = .next (writeRd p (fun i => BitVec.ofInt 32 ((p.a i).toInt * (p.b i).toInt)) (clocked p s))) ∧
    (Issues s 0x13 x p → exec (.mulhi x) s =
      .next (writeRd p (fun i => BitVec.ofInt 32 ((p.a i).toInt * (p.b i).toInt / 2 ^ 32)) (clocked p s))) ∧
    (Issues s 0x14 x p → exec (.mulhu x) s =
      .next (writeRd p (fun i => BitVec.ofNat 32 ((p.a i).toNat * (p.b i).toNat / 2 ^ 32)) (clocked p s))) ∧
    (Issues s 0x15 x p → exec (.mad x) s = .next (writeRd p (fun i => p.a i * p.b i + p.c i) (clocked p s))) ∧
    (Issues s 0x19 x p → exec (.neg x) s = .next (writeRd p (fun i => BitVec.ofInt 32 (-(p.a i).toInt)) (clocked p s))) ∧
    (Issues s 0x18 x p → exec (.abs x) s =
      .next (writeRd p (fun i => BitVec.ofInt 32 ((p.a i).toInt.natAbs : Int)) (clocked p s)))) ∧
  (∀ (s : State) (x : Issue) (p : Path),
    (Issues s 0x16 x p → exec (.min x) s =
      .next (writeRd p (fun i => BitVec.ofInt 32 (min (p.a i).toInt (p.b i).toInt)) (clocked p s))) ∧
    (Issues s 0x17 x p → exec (.max x) s =
      .next (writeRd p (fun i => BitVec.ofInt 32 (max (p.a i).toInt (p.b i).toInt)) (clocked p s))) ∧
    (Issues s 0x1A x p → exec (.minu x) s =
      .next (writeRd p (fun i => BitVec.ofNat 32 (min (p.a i).toNat (p.b i).toNat)) (clocked p s))) ∧
    (Issues s 0x1B x p → exec (.maxu x) s =
      .next (writeRd p (fun i => BitVec.ofNat 32 (max (p.a i).toNat (p.b i).toNat)) (clocked p s))) ∧
    (Issues s 0x1C x p → exec (.adds x) s = .next (writeRd p (fun i =>
      BitVec.ofInt 32 (max (-2147483648) (min 2147483647 ((p.a i).toInt + (p.b i).toInt)))) (clocked p s))) ∧
    (Issues s 0x1D x p → exec (.subs x) s = .next (writeRd p (fun i =>
      BitVec.ofInt 32 (max (-2147483648) (min 2147483647 ((p.a i).toInt - (p.b i).toInt)))) (clocked p s))))

/-- Logic and bit instructions (R214, R215). Shifts (R214) by less than 32; a shift by 32 or more completes too, with a value that
is free (log 3). The values of FEXT, FINS and BYSEL, bit by bit (R215): FEXT takes MOD[4:0] + 1 bits from bit b on, zero-extended;
FINS puts as many bits there; a selector digit with its top bit set gives a zero byte, and BYSEL with the selectors 0 to 3 is its
first operand. -/
def Obligations.LogicShiftsAndBitFields : Prop :=
  (∀ (s : State) (x : Issue) (p : Path),
    (Issues s 0x20 x p → exec (.and x) s = .next (writeRd p (fun i => p.a i &&& p.b i) (clocked p s))) ∧
    (Issues s 0x21 x p → exec (.or x) s = .next (writeRd p (fun i => p.a i ||| p.b i) (clocked p s))) ∧
    (Issues s 0x22 x p → exec (.xor x) s = .next (writeRd p (fun i => p.a i ^^^ p.b i) (clocked p s))) ∧
    (Issues s 0x23 x p → exec (.not x) s = .next (writeRd p (fun i => ~~~(p.a i)) (clocked p s))) ∧
    (Issues s 0x27 x p → exec (.rot x) s = .next (writeRd p (fun i => (p.a i).rotateLeft ((p.b i).toNat % 32)) (clocked p s))) ∧
    (Issues s 0x28 x p → exec (.ones x) s =
      .next (writeRd p (fun i => BitVec.ofNat 32 ((List.range 32).filter fun k => (p.a i).getLsbD k).length) (clocked p s))) ∧
    (Issues s 0x29 x p → exec (.lead x) s =
      .next (writeRd p (fun i => if p.a i = 0 then 32 else BitVec.ofNat 32 (31 - Nat.log2 (p.a i).toNat)) (clocked p s))) ∧
    (Issues s 0x2A x p → exec (.fext x) s = .next (writeRd p (fun i => fextOf (p.a i) (p.b i) p.m) (clocked p s))) ∧
    (Issues s 0x2B x p → exec (.fins x) s = .next (writeRd p (fun i => finsOf (p.a i) (p.b i) (p.c i) p.m) (clocked p s))) ∧
    (Issues s 0x2C x p → exec (.rbit x) s = .next (writeRd p (fun i => (p.a i).reverse) (clocked p s))) ∧
    (Issues s 0x2D x p → exec (.bysel x) s = .next (writeRd p (fun i => byselOf (p.a i) (p.b i) (p.c i)) (clocked p s)))) ∧
  (∀ (s : State) (x : Issue) (p : Path),
    (Issues s 0x24 x p → ∃ f : Nat → W32, (∀ i, (p.b i).toNat < 32 → f i = p.a i <<< (p.b i).toNat) ∧
      exec (.shl x) s = .next (writeRd p f { clocked p s with freeCtr := s.freeCtr + 32 })) ∧
    (Issues s 0x25 x p → ∃ f : Nat → W32, (∀ i, (p.b i).toNat < 32 → f i = p.a i >>> (p.b i).toNat) ∧
      exec (.shr x) s = .next (writeRd p f { clocked p s with freeCtr := s.freeCtr + 32 })) ∧
    (Issues s 0x26 x p → ∃ f : Nat → W32, (∀ i, (p.b i).toNat < 32 → f i = (p.a i).sshiftRight (p.b i).toNat) ∧
      exec (.sar x) s = .next (writeRd p f { clocked p s with freeCtr := s.freeCtr + 32 }))) ∧
  (∀ (a b : W32) (m k : Nat), m < 32 → k < 32 →
    (fextOf a b m).getLsbD k = (decide (k ≤ m) && a.getLsbD (b.toNat % 32 + k))) ∧
  (∀ (a b c : W32) (m k : Nat), k < 32 → finsOf a b c m =
    finsOf a b c (m % 32) ∧ (finsOf a b c m).getLsbD k =
      if b.toNat % 32 ≤ k ∧ k ≤ b.toNat % 32 + m % 32 then a.getLsbD (k - b.toNat % 32) else c.getLsbD k) ∧
  (∀ a b : W32, byselOf a b 0x3210#32 = a ∧ byselOf a b 0x7654#32 = b ∧ byselOf a b 0x8888#32 = 0)

/-- Compare, select and move (R214, R215, R219). The comparisons of PCMP (R215): codes 0 to 5 are equal, not equal, less, less or
equal, greater, greater or equal; MOD[3] makes them unsigned. -/
def Obligations.CompareSelectAndMove : Prop :=
  (∀ (s : State) (x : Issue) (p : Path),
    (Issues s 0x30 x p → exec (.pcmp x) s = .next (writePd p (fun i => compareOf p.m (p.a i) (p.b i)) (clocked p s))) ∧
    (Issues s 0x31 x p → exec (.sel x) s = .next (writeRd p (fun i => if p.g.pred i p.m then p.a i else p.b i) (clocked p s))) ∧
    (Issues s 0x32 x p → exec (.plog x) s = .next (writePd p (fun i =>
      p.m.testBit (2 * (p.g.pred i (wRa p.w)).toNat + (p.g.pred i (wRb p.w)).toNat)) (clocked p s))) ∧
    (Issues s 0x33 x p → ∃ f : Nat → W32, (∀ i k, (f i).getLsbD k = (decide (k < 8) && p.g.pred i k)) ∧
      exec (.p2v x) s = .next (writeRd p f (clocked p s))) ∧
    (Issues s 0x34 x p → exec (.v2p x) s = .next (onGroup p (fun g => (p.act.foldl (fun g i =>
      ((((((g.setPred i 1 ((p.a i).getLsbD 1)).setPred i 2 ((p.a i).getLsbD 2)).setPred i 3 ((p.a i).getLsbD 3)).setPred i 4
        ((p.a i).getLsbD 4)).setPred i 5 ((p.a i).getLsbD 5)).setPred i 6 ((p.a i).getLsbD 6)).setPred i 7 ((p.a i).getLsbD 7)) g).next p)
      (clocked p s))) ∧
    (Issues s 0x35 x p → exec (.mov x) s = .next (writeRd p (fun i => p.b i) (clocked p s)))) ∧
  (∀ a b : W32, compareOf 0 a b = decide (a = b) ∧ compareOf 1 a b = decide (a ≠ b)
      ∧ compareOf 2 a b = a.slt b ∧ compareOf 3 a b = a.sle b ∧ compareOf 4 a b = b.slt a ∧ compareOf 5 a b = b.sle a
      ∧ compareOf 10 a b = a.ult b ∧ compareOf 11 a b = a.ule b ∧ compareOf 12 a b = b.ult a ∧ compareOf 13 a b = b.ule a)

/-- Fixed point (R216): a shift of MOD[5:0] with rounding to nearest even; MOD[7] saturates. Block-scale instructions (R217):
sums, products and the maximum on IB32 codes, the dot product of pairs, packing and quantising; an element number beyond the word
completes with a free value (log 3). -/
def Obligations.FixedPointAndBlockScale : Prop :=
  (∀ (s : State) (x : Issue) (p : Path),
    (Issues s 0x40 x p → exec (.mulsh x) s = .next (writeRd p (fun i =>
      fixed p.m false (rneScale ((p.a i).toInt * (p.b i).toInt) 1 (-(p.m % 64 : Nat)))) (clocked p s))) ∧
    (Issues s 0x41 x p → exec (.madsh x) s = .next (writeRd p (fun i =>
      fixed p.m false (rneScale ((p.a i).toInt * (p.b i).toInt) 1 (-(p.m % 64 : Nat)) + (p.c i).toInt)) (clocked p s))) ∧
    (Issues s 0x42 x p → exec (.mulshu x) s = .next (writeRd p (fun i =>
      fixed p.m true (rneScale (((p.a i).toNat * (p.b i).toNat : Nat) : Int) 1 (-(p.m % 64 : Nat)))) (clocked p s))) ∧
    (Issues s 0x43 x p → exec (.rshr x) s = .next (writeRd p (fun i =>
      fixed p.m false (rneScale (p.a i).toInt 1 (-(p.m % 64 : Nat)))) (clocked p s))) ∧
    (Issues s 0x44 x p → 0 < p.m → exec (.satn x) s = .next (writeRd p (fun i =>
      BitVec.ofInt 32 (max (-(2 ^ (p.m - 1) : Nat)) (min ((2 ^ (p.m - 1) - 1 : Nat) : Int) (p.a i).toInt))) (clocked p s)))) ∧
  (∀ (s : State) (x : Issue) (p : Path),
    (Issues s 0x50 x p → ∃ f : Nat → W32, (∀ i, elemIn p.m (p.b i).toNat = true → f i = bunpOf (p.a i) (p.b i).toNat p.m) ∧
      exec (.bunp x) s = .next (writeRd p f { clocked p s with freeCtr := s.freeCtr + 32 })) ∧
    (Issues s 0x51 x p → ∃ f : Nat → W32, (∀ i, elemIn p.m (p.b i).toNat = true →
        f i = bpkOf (p.g.reg i (wRd p.w)) (p.a i) (p.b i).toNat p.m) ∧
      exec (.bpk x) s = .next (writeRd p f { clocked p s with freeCtr := s.freeCtr + 32 })) ∧
    (Issues s 0x53 x p → exec (.bsq x) s = .next (writeRd p (fun i => bsqOf (p.a i) (p.b i).toInt (p.c i).toInt p.m) (clocked p s))) ∧
    (Issues s 0x54 x p → exec (.badd x) s = .next (writeRd p (fun i => ib32 (addCod (cod32 (p.a i)) (cod32 (p.b i)))) (clocked p s))) ∧
    (Issues s 0x55 x p → exec (.bsub x) s =
      .next (writeRd p (fun i => ib32 (addCod (cod32 (p.a i)) (negCod (cod32 (p.b i))))) (clocked p s))) ∧
    (Issues s 0x56 x p → exec (.bmul x) s = .next (writeRd p (fun i => ib32 (mulCod (cod32 (p.a i)) (cod32 (p.b i)))) (clocked p s))) ∧
    (Issues s 0x57 x p → exec (.bmulsh x) s = .next (writeRd p (fun i => ib32 (match mulCod (cod32 (p.a i)) (cod32 (p.b i)) with
        | .int v => .int (rneScale v 1 (-(p.m % 64 : Nat)))
        | c => c)) (clocked p s))) ∧
    (Issues s 0x58 x p → exec (.bmax x) s = .next (writeRd p (fun i => w32Of (maxCod (cod32 (p.a i)) (cod32 (p.b i)))) (clocked p s))) ∧
    (Issues s 0x59 x p → exec (.bdp x) s = .next (writeRd p (fun i =>
      w32Of (pairCod (codOf 0 (toBits 8 (p.a i).toInt)) (codOf 0 (toBits 8 (p.b i).toInt)))) (clocked p s))))

/-- What a result register write leaves (R207, R214): in a group whose registers are in canonical form, Vd of the executing
threads takes the values, every other register of every thread, the predicates and the call stacks stay, and the threads of the
path stand at the next word while all others stay where they are. -/
def Obligations.ResultsGoToVdAlone : Prop :=
  ∀ (p : Path) (f : Nat → W32) (g : Group), fwf (fun _ => (0 : W32)) g.regs = true → fwf (fun _ => g.pc0) g.pcs = true →
    wRd p.w < 256 →
    let t := (p.act.foldl (fun g i => g.setReg i (wRd p.w) (f i)) g).next p
    (∀ i n, n < 256 → t.reg i n = if i ∈ p.act ∧ n = wRd p.w then f i else g.reg i n)
    ∧ (∀ i, t.pc i = if i ∈ p.lanes then (p.pc + 8) % 2 ^ 52 else g.pc i)
    ∧ t.preds = g.preds ∧ t.callStacks = g.callStacks ∧ t.exited = g.exited ∧ t.resv = g.resv ∧ t.wait = .none

/-- Group collectives (R211, R215, R217): when every named thread has come or exited, each executing thread takes its result
over the threads that its mask names, those that have exited counting as zero; a GFOLD with one missing waits. TLI (R218, R223):
with every table inside the launch's allocations each executing thread takes its interpolated value; a table outside ends the
launch with source 0x06. -/
def Obligations.CollectivesAndInterpolation : Prop :=
  (∀ (s : State) (x : Issue) (p : Path), ((∀ i ∈ p.act, metAll p i = true) →
    (Issues s 0x70 x p → exec (.gxch x) s = .next (writeRd p (fun i =>
      if (p.c i).getLsbD ((p.b i).toNat % 32) then memberVal p ((p.b i).toNat % 32) else 0) (clocked p s))) ∧
    (Issues s 0x71 x p → exec (.gpoll x) s = .next (writeRd p (fun i =>
      laneMask ((members p i).filter fun k => !p.g.isExited k && p.g.pred k (wRa p.w))) (clocked p s))) ∧
    (Issues s 0x72 x p → exec (.gfold x) s = .next (writeRd p (fun i => foldVals p.m ((members p i).map (memberVal p))) (clocked p s))) ∧
    (Issues s 0x73 x p → exec (.gpeer x) s = .next (writeRd p (fun i =>
      laneMask ((members p i).filter fun k => memberVal p k = p.a i)) (clocked p s))) ∧
    (Issues s 0x74 x p → exec (.gpre x) s = .next (writeRd p (fun i =>
      foldVals p.m (((members p i).filter (· ≤ i)).map (memberVal p))) (clocked p s))) ∧
    (Issues s 0x52 x p → exec (.bse x) s = .next (writeRd p (fun i =>
      match idealExp (fmtLo p.m) (fmtHi p.m) ((members p i).map (bseVal p)) with
      | some e => BitVec.ofInt 32 e
      | none => 0x80000000#32) (clocked p s)))) ∧
    (Issues s 0x72 x p → (∀ i ∈ p.act, metAll p i = false) → p.act = p.lanes →
      exec (.gfold x) s = .next (onGroup p (fun g => { g with wait := .coll }) (clocked p s)))) ∧
  (∀ (s : State) (x : Issue) (p : Path),
    (Issues s 0x60 x p → ∀ f : Nat → W32, (∀ i ∈ p.act, tliOf (clocked p s) p.l p.t.core (p.a i) (p.b i) = .val (f i)) →
      exec (.tli x) s = .next (writeRd p (fun i => if i ∈ p.act then f i else 0) (clocked p s))) ∧
    (Issues s 0x60 x p → ∀ i o, p.act = [i] → tliOf (clocked p s) p.l p.t.core (p.a i) (p.b i) = .out o →
      exec (.tli x) s = .next (pathFault p 0x06 (some p.pc) (o % 2 ^ 19) (clocked p s))))

/-- Control (R210, R211, R214, R219, R223, R233, R236). Threads that leave or meet (R201, R206, R210, R211, R236): EXIT ends the
executing threads, BAR makes them wait for their team, GSYNC those that their mask names, and the team is settled afterwards. -/
def Obligations.ControlAndBarriers : Prop :=
  (∀ (s : State) (x : Issue) (p : Path),
    (Issues s 0x00 x p → exec (.nopInstr x) s = .next (onGroup p (fun g => g.next p) (clocked p s))) ∧
    (Issues s 0x01 x p → exec (.bra x) s = .next (onGroup p (fun g => (g.next p).goto p.act (braTarget p)) (clocked p s))) ∧
    (Issues s 0x02 x p → exec (.brx x) s = .next (onGroup p (fun g =>
      p.act.foldl (fun g i => g.goto [i] (p.g.reg64 i (wRa p.w) % 2 ^ 52)) (g.next p)) (clocked p s))) ∧
    (Issues s 0x03 x p → (∀ i ∈ p.act, (fget [] p.g.callStacks i).length < 16) →
      exec (.call x) s = .next (onGroup p (fun g => { (g.next p).goto p.act (braTarget p) with
        callStacks := p.act.foldl (fun m i => fset [] m i (((p.pc + 8) % 2 ^ 52) :: fget [] m i)) g.callStacks }) (clocked p s))) ∧
    (Issues s 0x03 x p → (∃ i ∈ p.act, 16 ≤ (fget [] p.g.callStacks i).length) →
      exec (.call x) s = .next (pathFault p 0x06 (some p.pc) 0 (clocked p s))) ∧
    (Issues s 0x04 x p → (∀ i ∈ p.act, fget [] p.g.callStacks i ≠ []) → exec (.ret x) s = .next (onGroup p (fun g =>
      let h := p.act.foldl (fun g i => g.goto [i] ((fget [] p.g.callStacks i).headD 0)) (g.next p)
      { h with callStacks := p.act.foldl (fun m i => fset [] m i (fget [] m i).tail) h.callStacks }) (clocked p s))) ∧
    (Issues s 0x04 x p → (∃ i ∈ p.act, fget [] p.g.callStacks i = []) →
      exec (.ret x) s = .next (pathFault p 0x06 (some p.pc) 0 (clocked p s))) ∧
    (Issues s 0x07 x p → exec (.yield x) s = .next (onGroup p (fun g => (g.next p).endResv p.act) (clocked p s))) ∧
    (Issues s 0x08 x p → exec (.trap x) s = .next (pathFault p 0x07 (some p.pc) (bits p.w 39 24) (clocked p s)))) ∧
  (∀ (s : State) (x : Issue) (p : Path),
    (Issues s 0x05 x p → exec (.exit x) s = .next (settleTeam p.l.id p.t.num (onGroup p (fun g =>
      (({ (g.next p).endResv p.act with exited := g.exited ||| laneMask p.act }).releaseGs).settleWait) (clocked p s)))) ∧
    (Issues s 0x06 x p → exec (.bar x) s = .next (settleTeam p.l.id p.t.num (onGroup p (fun g =>
      ({ ((g.next p).goto p.act p.pc).endResv p.act with arrived := g.arrived ||| laneMask p.act }).settleWait) (clocked p s)))) ∧
    (Issues s 0x09 x p → (∀ i ∈ p.act, (p.c i).getLsbD i = true) → p.g.gs = [] →
      ∃ h : Group → Group, (∀ g : Group, g.gs = [] →
        h g = ({ (g.next p).goto p.act p.pc with gs := p.act.map fun i => (i, p.c i &&& ~~~(laneMask p.act)) }).releaseGs) ∧
      exec (.gsync x) s = .next (onGroup p h (clocked p s))))

/-- Words that do not execute (R207, R220, R221, R223): a word outside the regions that the core may fetch ends the launch with
source 0x04, an undefined encoding with source 0x01, and a word whose guards are all false only moves the path on. -/
def Obligations.FetchAndDecodeOfWords : Prop :=
  (∀ (s : State) (x : Issue) (p : Path) (opc : Byte), Runs (simtDom s x.launch x.team) s → pathOf s opc.toNat x = some p →
    allowed s p.pc 8 = true → wordOk p.l.regs p.w = false →
    exec (.undefinedEncoding x opc) s = .next (pathFault p 0x01 (some p.pc) p.w s)) ∧
  (∀ (s : State) (x : Issue) (p : Path), Runs (simtDom s x.launch x.team) s →
    (pathOf s 0x10 x).map Path.issue = some p → allowed s p.pc 8 = false →
    exec (.add x) s = .next (pathFault p 0x04 (some p.pc) 0 (clocked p s))) ∧
  (∀ (s : State) (x : Issue) (p : Path), Runs (simtDom s x.launch x.team) s →
    (pathOf s 0x10 x).map Path.issue = some p → allowed s p.pc 8 = true → wordOk p.l.regs p.w = false →
    exec (.add x) s = .next (pathFault p 0x01 (some p.pc) p.w (clocked p s))) ∧
  (∀ (s : State) (x : Issue) (p : Path), Runs (simtDom s x.launch x.team) s →
    (pathOf s 0x10 x).map Path.issue = some p → allowed s p.pc 8 = true → wordOk p.l.regs p.w = true → p.act = [] →
    exec (.add x) s = .next (onGroup p (fun g => g.next p) (clocked p s)))

/-- A gather's way (R104, R114 to R119, R121, R257): a bag list that can be read and passes the checks of R511 gives its
positions; a partition that receives its sub-request fetches its rows; a sector that has arrived joins its position; the last
partial lets the output be made, an earlier one is combined; a landing in the launch's allocation is written and counted. A sector
joins its position (R96, R121): one that is neither the last nor shows the row ABSENT is kept, and poison is noted. -/
def Obligations.GathersPoolTheirPositions : Prop :=
  (∀ (s : State) (id : Nat) (list : ReadBack) (arrays : List ReadBack) (c : Cmd) (g : Gather) (b : Bytes), Runs .fab s →
    InPhase s id .gatherPool .running c → c.work = .gather g → g.stage = .list →
    ∀ devs, poolRead s c (gpSrc c.bytes) (16 * gpBags c.bytes) list = .ok b devs →
    bagListStatus s c ((List.range (gpBags c.bytes)).map (bagEnt c.bytes b)) ≠ 0 →
    exec (.bagListReadDone id list arrays) s = .next (modCmd id (fun d => d.finish
      (bagListStatus s c ((List.range (gpBags c.bytes)).map (bagEnt c.bytes b)))) (doneRanges devs s))) ∧
  (∀ (s : State) (id : Nat) (list : ReadBack) (arrays : List ReadBack) (c : Cmd) (g : Gather) (b y : Bytes) (es : List BagEnt),
    Runs .fab s → InPhase s id .gatherPool .running c → c.work = .gather g → g.stage = .list →
    ∀ ds devs, poolRead s c (gpSrc c.bytes) (16 * gpBags c.bytes) list = .ok b ds →
    es = (List.range (gpBags c.bytes)).map (bagEnt c.bytes b) → bagListStatus s c es = 0 → bagArrays s c es arrays = .ok y devs →
    exec (.bagListReadDone id list arrays) s = .next (startGather
      { c with landTo := landTeams s c.ctx c.bytes (c.home.getD 0) (es.map fun e => (c.table e.table).dim) } .running
      (es.map fun e => (e.table, e.len)) (bagsPos c es 0 y) (doneRanges (ds ++ devs) s))) ∧
  (∀ (s : State) (id part : Nat) (c : Cmd) (g : Gather), Runs (.part part) s → clusterInReset s (64 + part) = false →
    s.fe.cmd id = some c → c.phase = .running → c.work = .gather g → g.stage = .gather → g.subs.contains (part, .sent) = true →
    s.fe.mayServe (.gather part) (gatherReqs s part) (c.ctx, c.sq) = true →
    exec (.gatherSubrequest id part) s = .next (modCmd id (fun d => { d with work := .gather { g with
        subs := g.subs.map fun y => if y.1 = part then (part, .received) else y } })
      ((g.pos.filter fun x => x.part = part && !x.done).foldl (fun s x => fetchPos true c s x)
        (wakePart part { s with
          fe := s.fe.serve (.gather part) (gatherReqs s part) (c.ctx, c.sq) (g.pos.filter fun x => x.part = part && !x.done).length
          pwr := s.pwr.startClk (64 + part) })))) ∧
  (∀ (s : State) (id part pos sec k a : Nat) (c : Cmd) (g : Gather) (x : Pos) (b : Bytes) (bad : Bool), Runs (.part part) s →
    clusterInReset s (64 + part) = false → s.fe.cmd id = some c → c.phase = .running → c.work = .gather g → g.pos[pos]? = some x →
    x.part = part → x.done = false → g.subs.contains (part, .received) = true → sec < ((c.table x.table).size + 31) / 32 →
    (x.got.any fun e => e.1 = sec) = false → (sec = 0 ∨ (x.got.any fun e => e.1 = 0) = true) → posAddr s c x = (k, a) →
    sectorNow s k (a + 32 * sec) = .data b bad →
    exec (.rowSectorArrival id part pos sec) s = .next (sectorArrives c g pos x sec k a b bad s)) ∧
  (∀ (s : State) (id part : Nat) (c : Cmd) (g : Gather), Runs .fab s → s.fe.cmd id = some c → c.phase = .running →
    c.work = .gather g → g.stage = .gather → g.subs.contains (part, .received) = true →
    (g.pos.all fun x => x.part ≠ part || x.done) = true →
    let h : Gather := { g with subs := g.subs.map fun y => if y.1 = part then (part, .combined) else y }
    exec (.partialPoolArrival id part) s = .next
      (if h.subs.all fun y => y.2 = .combined then finishGather c h s else modCmd id (fun d => { d with work := .gather h }) s)) ∧
  (∀ (s : State) (id : Nat) (c : Cmd) (g : Gather) (l t : Nat) (rest : List (Nat × Nat)), Runs .fab s → s.fe.cmd id = some c →
    c.phase = .running → c.work = .gather g → g.stage = .landing → c.landTo = (l, t) :: rest →
    (∀ x ∈ c.landTo, teamHeld s (outCore c.bytes (c.home.getD 0)) x.1 x.2 = true) →
    exec (.landingComplete id) s = .next (modCmd id (fun d => d.finish 0)
      (modCore (outCore c.bytes (c.home.getD 0)) (fun k => { k with land := fmod 0 k.land l (· + 1) })
        ((gatherOut c g).foldl (fun s x => writeLs (outCore c.bytes (c.home.getD 0)) (outLs c.bytes + x.1) x.2.1 s)
          (countOut c ((gatherOut c g).flatMap fun x => x.2.2) s))))) ∧
  (∀ (s : State) (c : Cmd) (g : Gather) (i sec k a : Nat) (x : Pos) (b : Bytes) (bad : Bool), 0 < sec →
      (s.dc.slice k).side = [] →
      ((List.range (((c.table x.table).size + 31) / 32)).all fun j => ((sec, b) :: x.got).any fun e => e.1 = j) = false →
      sectorArrives c g i x sec k a b bad s = modCmd c.id (fun d => { d with work := .gather { g with
        pos := g.pos.set i { x with got := (sec, b) :: x.got, bad := x.bad || bad } } }) s)

/-- Live update writes and reads (R128 to R131, R142 to R146): a write to an enabled window or to a region whose key admits the
requester is taken row by row; one to a disabled window or region is counted and dropped, and a wrong requester also logs an
Unsupported Request; reads of a disabled window give zeros, reads of PLAP Unsupported Request. Raw bytes staged for a row replace
the current ones, byte for byte, and the rest of the row stays (R135). -/
def Obligations.LiveWritesReadsAndCommits : Prop :=
  (∀ (s : State) (off : Nat) (data : Masked), Runs .hif s → ctlReach s = true → s.flt.safe = false → s.rook.qstate ≠ 3 →
    off < 2 ^ 24 → (s.upd.set (off / 2 ^ 20)).en = true →
    exec (.upapWrite off ⟨data, false⟩) s = .next (targetWrite (off / 2 ^ 20) (off % 2 ^ 20) data (info21 (off / 2 ^ 20) 0) s)) ∧
  (∀ (s : State) (off : Nat) (data : Masked), Runs .hif s → ctlReach s = true → s.flt.safe = false → off < 2 ^ 24 →
    (s.upd.set (off / 2 ^ 20)).en = false →
    exec (.upapWrite off ⟨data, false⟩) s = .next (rcount 0x80408 1 s)) ∧
  (∀ (s : State) (off : Nat) (reqid : W16) (data : Masked), Runs .hif s → ctlReach s = true → s.flt.safe = false →
    s.rook.qstate ≠ 3 → off < 2 ^ 28 →
    let r := fget {} s.upd.plc (off / 2 ^ 18)
    r.set.en = true → (reqid &&& (r.key >>> 16).setWidth 16) = (r.key.setWidth 16 &&& (r.key >>> 16).setWidth 16) →
    exec (.plapWrite off reqid ⟨data, false⟩) s =
      .next (targetWrite (16 + off / 2 ^ 18) (off % 2 ^ 18) data (info21 (16 + off / 2 ^ 18) reqid) s)) ∧
  (∀ (s : State) (off : Nat) (reqid : W16) (data : Masked), Runs .hif s → ctlReach s = true → s.flt.safe = false →
    s.rook.qstate ≠ 3 → off < 2 ^ 28 → (fget {} s.upd.plc (off / 2 ^ 18)).set.en = false →
    exec (.plapWrite off reqid ⟨data, false⟩) s =
      .next (rcount 0x80408 1 { s with hif := { s.hif with aer :=
        s.hif.aer ++ [.unsupportedRequest { bar := 4, offset := 0x10000000 + off, reqid := reqid, length := data.length }] } })) ∧
  (∀ (s : State) (off n : Nat), Runs .hif s → ctlReach s = true → off < 2 ^ 24 → (s.upd.set (off / 2 ^ 20)).en = false →
    exec (.upapRead off n) s = .next (emit (.readBytes 4 off (List.replicate n 0) false) s)) ∧
  (∀ (s : State) (off n : Nat) (w : WinSet), Runs .hif s → ctlReach s = true → off < 2 ^ 24 → w = s.upd.set (off / 2 ^ 20) →
    w.en = true → 0 < n → off % 64 + n ≤ 64 → off % 2 ^ 20 % w.sstride + n ≤ w.sstride →
    let d := tableOf s w.table
    let r := w.row + off % 2 ^ 20 / w.sstride
    rowWaits s (rowCopy s w.table d w.side r).1 d.size = false →
    exec (.upapRead off n) s = .next (upapPiece w d off r (off % 2 ^ 20 % w.sstride) n s)) ∧
  (∀ (s : State) (w : WinSet) (d : TblDesc) (off r b n : Nat), w.conv = false → r ≤ d.rows → b + n ≤ rowSpan d w →
    let k := (shardHome w.table d.shards r).2
    let a := (rowCopy s w.table d w.side r).1
    (∀ i, i < n → rowNowhere s (a + (b + i)) 1 = false ∧ devPoison s k (a + (b + i)) 1 = false) →
    upapPiece w d off r b n s =
      emit (.readBytes 4 off ((List.range n).map fun i => (devBytes s k a d.size).getD (b + i) 0) false) s) ∧
  (∀ (s : State) (w : WinSet) (d : TblDesc) (off r b n : Nat), d.rows < r →
    upapPiece w d off r b n s = emit (.readBytes 4 off (List.replicate n 0) false) s) ∧
  (∀ (s : State) (off n : Nat), Runs .hif s → exec (.plapRead off n) s = .next (emit .unsupported s)) ∧
  (∀ (s : State) (p : RowPart) (rest : List RowPart), Runs .hif s → s.upd.held = p :: rest →
    exec .stagingWaitEnd s = .next (stagePart p rest { s with upd := { s.upd with held := [] } })) ∧
  (∀ (s : State) (slice : Nat) (r : StagedRow), Runs (.part (partOfSlice slice)) s → commitWaiting s slice = some r →
    bgTurn s slice (decide (15 ≤ (s.dc.slice slice).gapCommit)) r.at_ 50000 = true →
    exec (.rowCommit slice) s = .next (commitStaged slice r (modSlice slice (fun sl => { sl with gapCommit := 0 }) s))) ∧
  (∀ (size : Nat) (cur : Bytes) (bad : List Nat) (i : Nat) (b : Byte), i < size →
      (rawRow size cur bad [(i, b)]).img.length = size ∧ (rawRow size cur bad [(i, b)]).img.getD i 0 = b ∧
      (∀ j, j < size → j ≠ i → (rawRow size cur bad [(i, b)]).img.getD j 0 = cur.getD j 0) ∧
      (rawRow size cur bad [(i, b)]).refused = false)

/-- Window and region settings (R126, R127, R139, R143): an apply or a commit with CMT closes the open batch and takes the staged
members, or is refused as a whole; a close closes the batch alone; a select stages the region's entry. -/
def Obligations.WindowsAndRegionsCommit : Prop :=
  (∀ (s : State) (w : Nat) (v : W32), CtlOpen (0x8000C + 0x40 * w) s → w < 16 → bit v 0 = true →
    setBad s (fget {} s.upd.win w).staged.set = false →
    let t := closeTarget w none s
    exec (.upwApply w v 0xF#4) s = .next { t with upd := { t.upd with
      win := fset {} t.upd.win w { fget {} s.upd.win w with com := (fget {} s.upd.win w).staged, result := 1 } } }) ∧
  (∀ (s : State) (w : Nat) (v : W32), CtlOpen (0x8000C + 0x40 * w) s → w < 16 → bit v 0 = true →
    setBad s (fget {} s.upd.win w).staged.set = true →
    exec (.upwApply w v 0xF#4) s = .next { s with upd := { s.upd with
      win := fset {} s.upd.win w { fget {} s.upd.win w with result := 2 } } }) ∧
  (∀ (s : State) (w : Nat) (v : W32), CtlOpen (0x80010 + 0x40 * w) s → w < 16 → bit v 0 = true →
    exec (.upwClose w v 0xF#4) s = .next (closeTarget w none s)) ∧
  (∀ (s : State) (v : W32), CtlOpen 0x81018 s → bit v 31 = true →
    exec (.plcClose v 0xF#4) s = .next (closeTarget (16 + fld v 9 0) none (rset 0x81018 (v &&& 0x3FF#32) s))) ∧
  (∀ (s : State) (v : W32), CtlOpen 0x81000 s →
    exec (.plcSel v 0xF#4) s = .next { s with upd := { s.upd with
      plcSel := fld v 9 0, plcStaged := fget {} s.upd.plc (fld v 9 0), plcResult := 0 } }) ∧
  (∀ (s : State) (v : W32), CtlOpen 0x81014 s → bit v 0 = true → setBad s s.upd.plcStaged.set = false →
    let t := closeTarget (16 + s.upd.plcSel) none s
    exec (.plcCmt v 0xF#4) s = .next { t with upd := { t.upd with
      plc := fset {} t.upd.plc t.upd.plcSel t.upd.plcStaged, plcResult := 1 } }) ∧
  (∀ (s : State) (v : W32), CtlOpen 0x81014 s → bit v 0 = true → setBad s s.upd.plcStaged.set = true →
    exec (.plcCmt v 0xF#4) s = .next { s with upd := { s.upd with plcResult := 2 } })

/-- Hot-row migration (R154 to R161, R163): the control register with a period other than 0 takes its written bits; at an epoch
boundary the load counts of the epoch are kept and begun anew, in the safe state that is all, and with nothing forwarded and
migration off the settings of the epoch are taken; a finished copy is forwarded to and counted; a row on its way back is written
home; a released side gives up its forwarded and sticky rows; a finished scan gives the side its digest. -/
def Obligations.MigrationAndDigests : Prop :=
  (∀ (s : State) (v : W32), CtlOpen 0x82020 s → fld v 7 0 ≠ 0 →
    exec (.migCtlWrite v 0xF#4) s = .next (rset 0x82020 (v &&& 0xC0FFFFFF#32) s)) ∧
  (∀ s : State, Runs .fab s → epochOver s = false → exec .epochBoundary s = .next s) ∧
  (∀ s : State, Runs .fab s → epochOver s = true → s.flt.safe = true → exec .epochBoundary s = .next { s with
    mig := { s.mig with loadLast := s.mig.load, load := [], epochAt := s.devtime }
    fe := { s.fe with caps := (List.range 8).foldl (fun m p => fmod {} m p GatherCap.epoch) s.fe.caps } }) ∧
  (∀ s : State, Runs .fab s → epochOver s = true → s.flt.safe = false → s.mig.fwd = [] → s.mig.sticky = [] →
    bit (rget s 0x82020) 31 = false →
    exec .epochBoundary s = .next { s with
      mig := halveCounts { s.mig with
        loadLast := s.mig.load, load := [], epochAt := s.devtime, running := false, stickyOn := bit (rget s 0x82020) 30
        promoteAt := 16 * fld (rget s 0x82020) 23 16, demoteAt := 16 * fld (rget s 0x82020) 15 8
        epoch := fld (rget s 0x82020) 7 0, waiting := [] }
      fe := { s.fe with caps := (List.range 8).foldl (fun m p => fmod {} m p GatherCap.epoch) s.fe.caps } }) ∧
  (∀ (s : State) (t side row k : Nat) (f : Fwd), Runs .fab s → s.mig.entry t side row = some f → f.st = .copying →
    warmOn s.fe f.cmd = true → k = fwdSlice s t row →
    migTurn s f k ((tableOf s t).rowAddr side row) (tableOf s t).size = true →
    let v := modSlice k (fun sl => { sl with gapMig := 0 }) s
    let u := copyRow k ((tableOf s t).rowAddr side row) (slotAddr s f) (tableOf s t).stride v
    let go (g : Fwd) : Fwd := { g with st := .forwarded, cmd := none }
    exec (.migrationCopyDone t side row) s = .next { u with
      mig := { u.mig with fwd := mapWhere (isRow t side row) go u.mig.fwd }
      fe := countWarm f.cmd (restartReads t side row u.fe)
      rook := { u.rook with counts := { u.rook.counts with migrations := u.rook.counts.migrations + 1 } } }) ∧
  (∀ (s : State) (t side row : Nat) (f : Fwd), Runs .fab s → s.mig.entry t side row = some f → f.st = .returning →
    migTurn s f (fwdSlice s t row) (slotAddr s f) (tableOf s t).size = true →
    exec (.returnHomeDone t side row) s =
      .next (startWaiting (returnHome f (modSlice (fwdSlice s t row) (fun sl => { sl with gapMig := 0 }) s)))) ∧
  (∀ (s : State) (t side : Nat), Runs .fab s → sideReleased s t side = true → s.flt.safe = false →
    let v : State := { s with mig := { s.mig with waiting := s.mig.waiting.filter fun x => !(x.table = t && x.side = side) } }
    let u := (v.mig.fwd.filter fun f => f.table = t && f.side = side).foldl (fun s f => demote f s) v
    exec (.forwardingRelease t side) s =
      .next ((u.mig.sticky.filter fun x => x.table = t && x.side = side).foldl (fun s x => unmarkSticky x s) u)) ∧
  (∀ (s : State) (t side : Nat), Runs .fab s → (fget {} s.tbl.dig (digKey t side)).st = .scanning → s.flt.safe = false →
    exec (.digestScanDone t side) s = .next (recordNowhere t (tableOf s t) side { s with tbl := { s.tbl with
      dig := fset {} s.tbl.dig (digKey t side) { st := .ok, val := sideDigest s t side, cursor := 0 } } })) ∧
  (∀ (s : State) (t side : Nat) (d : TblDesc), (∀ r, r ≤ d.rows → rowNowhere s (rowCopy s t d side r).1 d.size = false) →
    recordNowhere t d side s = s)

/-- Castling (R149 to R153): when its batches are drained and no earlier castle shares a table, a CASTLE whose tables are valid
and its context's switches CUR of all of them at once and, without a warm phase, ends with OK; else it ends with BAD_TABLE; a warm
phase ends when no row of the new sides is being copied. -/
def Obligations.CastlesSwitchTables : Prop :=
  (∀ (s : State) (id : Nat) (c : Cmd) (drain : List (Nat × Nat)), Runs .fab s → InPhase s id .castle .running c →
    c.work = .castle false drain → drained s.upd drain = true → castlesBefore s.fe c = false →
    ((caEntries c.bytes).all fun e => (tableOf s e.1).valid && (tableOf s e.1).owner = c.ctx) = true → caWarm c.bytes = false →
    exec (.castleCommitPoint id) s = .next (modCmd id (fun d => d.finish 0)
      { s with tbl := switchTables (caEntries c.bytes) s.tbl })) ∧
  (∀ (s : State) (id : Nat) (c : Cmd) (drain : List (Nat × Nat)), Runs .fab s → InPhase s id .castle .running c →
    c.work = .castle false drain → drained s.upd drain = true → castlesBefore s.fe c = false →
    ((caEntries c.bytes).all fun e => (tableOf s e.1).valid && (tableOf s e.1).owner = c.ctx) = false →
    exec (.castleCommitPoint id) s = .next (modCmd id (fun d => d.finish 0x14) s)) ∧
  (∀ (s : State) (id : Nat) (c : Cmd) (drain : List (Nat × Nat)), Runs .fab s → InPhase s id .castle .running c →
    c.work = .castle true drain → s.mig.waiting = [] → (s.mig.fwd.any fun f => f.st = .copying && f.cmd = some id) = false →
    exec (.castleWarmDone id) s = .next (modCmd id (fun d => d.finish 0) s))

/-- The catalogue (R165 to R171): a trigger with a base starts a write with reason 4 and the moment, a lock stays set; the write
done is ended; the valid slot with the higher number is offered, and with no base none is. -/
def Obligations.CatalogueRegistersAndEvents : Prop :=
  (∀ (s : State) (v : W32), CtlOpen 0x83000 s → bit v 1 = false → bit v 0 = true → s.ret.busy = false → catBase s ≠ 0 →
    exec (.catalogueWrite v 0xF#4) s = .next { s with ret := { s.ret with busy := true, reason := 4, start := s.devtime } }) ∧
  (∀ (s : State) (v : W32), CtlOpen 0x83000 s → bit v 1 = true → bit v 0 = false →
    exec (.retLock v 0xF#4) s = .next (rset 0x83000 (rget s 0x83000 ||| 2#32) s)) ∧
  (∀ s : State, Runs .fab s → s.ret.busy = true → s.flt.safe = false →
    let u := writeCatalogue s.ret.reason s.ret.start s
    exec .catalogueWriteDone s = .next { u with ret := { u.ret with busy := false } }) ∧
  (∀ s : State, Runs .mgt s → catBase s ≠ 0 →
    exec .catalogueSelect s = .next { s with ret := { s.ret with list := (bestSlot s).map Prod.snd } }) ∧
  (∀ s : State, Runs .mgt s → catBase s = 0 → exec .catalogueSelect s = .next { s with ret := { s.ret with list := none } })

/-- Selects of the commit windows (R15, R84, R329, R335, R341, R315): the selected entry's committed members become the staged
ones and RESULT is 0; nothing else changes. Staged members (R15, R503): a write keeps the member's defined bits and leaves the
committed state alone; a table's CFG and an SQ's BIND stand for all. -/
def Obligations.SelectsAndStagedMembers : Prop :=
  (∀ (s : State) (v : W32),
    (CtlOpen 0x70000 s → exec (.tblSel v 0xF#4) s = .next { s with tbl := { s.tbl with
      sel := fld v 13 0, staged := fget {} s.tbl.desc (fld v 13 0), result := 0 } }) ∧
    (CtlOpen 0xC0000 s → exec (.ctxSel v 0xF#4) s = .next { s with fe := { s.fe with
      ctxSel := fld v 11 0, ctxResult := 0, ctxStaged := {
        cfg := (fget {} s.fe.ctx (fld v 11 0)).cfg
        pasid := (fget {} s.fe.ctx (fld v 11 0)).pasid
        share := (fget {} s.fe.ctx (fld v 11 0)).share } } }) ∧
    (CtlOpen 0xC1000 s → exec (.qctlSqSel v 0xF#4) s = .next { s with fe := { s.fe with
      sqSel := fld v 13 0, sqStaged := (fget {} s.fe.sq (fld v 13 0)).regs, sqResult := 0 } }) ∧
    (CtlOpen 0xC2000 s → exec (.qctlCqSel v 0xF#4) s = .next { s with fe := { s.fe with
      cqSel := fld v 11 0, cqStaged := (fget {} s.fe.cq (fld v 11 0)).regs, cqResult := 0 } }) ∧
    (CtlOpen 0xB1000 s → exec (.atgSel v 0xF#4) s = .next { s with fe := { s.fe with
      atgSel := 8 * fld v 11 0 + fld v 14 12, atgStaged := fget {} s.fe.atg (8 * fld v 11 0 + fld v 14 12), atgResult := 0 } })) ∧
  (∀ (s : State) (v : W32),
    (CtlOpen 0x70004 s → exec (.stagedMemberWrite 0x70004 v 0xF#4) s = .next { s with tbl := { s.tbl with
      staged := { s.tbl.staged with cfg := v &&& 0x90000F1F#32 } } }) ∧
    (CtlOpen 0xC1008 s → exec (.stagedMemberWrite 0xC1008 v 0xF#4) s = .next { s with fe := { s.fe with
      sqStaged := { s.fe.sqStaged with aux := v &&& 0x0FFF0FFF#32 } } }) ∧
    (CtlOpen 0xA0000 s → exec (.stagedMemberWrite 0xA0000 v 0xF#4) s = .next { s with rat := { s.rat with
      staged := fset {} s.rat.staged 0 { fget {} s.rat.staged 0 with baseLo := v &&& 0xFFE00000#32 } } }))

/-- Commits of the windows with CMT = 1 (R16, R85, R89, R331, R332, R337, R342, R315, R264 to R266): one that breaks no rule takes
the staged members as a whole, with RESULT 1 (the region attribute table goes busy until it is applied); one that breaks a rule
changes RESULT to 2 and nothing else; a write with CMT = 0 changes nothing. Enabling a context gives its commands a new
generation; an SQ starts afresh when it is enabled (R332, R337). -/
def Obligations.CommitsTakeAllOrNothingOfAGroup : Prop :=
  (∀ (s : State) (v : W32), bit v 0 = true →
    (CtlOpen 0x70030 s → commitRefused s.rat.com (tableOf s s.tbl.sel) s.tbl.staged = false →
      exec (.tblCmt v 0xF#4) s = .next { s with tbl := { s.tbl.apply s.tbl.sel s.tbl.staged with result := 1 } }) ∧
    (CtlOpen 0x70030 s → commitRefused s.rat.com (tableOf s s.tbl.sel) s.tbl.staged = true →
      exec (.tblCmt v 0xF#4) s = .next { s with tbl := { s.tbl with result := 2 } }) ∧
    (CtlOpen 0xC0010 s → ctxRefused s.fe s.fe.ctxSel s.fe.ctxStaged = false →
      exec (.ctxCmt v 0xF#4) s = .next { s with fe := { s.fe with
        ctxResult := 1
        ctx := fset {} s.fe.ctx s.fe.ctxSel ((fget {} s.fe.ctx s.fe.ctxSel).apply s.fe.ctxStaged) } }) ∧
    (CtlOpen 0xC0010 s → ctxRefused s.fe s.fe.ctxSel s.fe.ctxStaged = true →
      exec (.ctxCmt v 0xF#4) s = .next { s with fe := { s.fe with ctxResult := 2 } }) ∧
    (CtlOpen 0xC1014 s → sqRefused s.fe (s.fe.sqOf s.fe.sqSel).regs s.fe.sqStaged = false → (s.fe.sqOf s.fe.sqSel).en = true →
      bit s.fe.sqStaged.cfg 31 = true →
      exec (.qctlSqCmt v 0xF#4) s = .next { s with fe := { s.fe with
        sqResult := 1
        sq := fset {} s.fe.sq s.fe.sqSel ((s.fe.sqOf s.fe.sqSel).apply s.fe.sqStaged) } }) ∧
    (CtlOpen 0xC1014 s → sqRefused s.fe (s.fe.sqOf s.fe.sqSel).regs s.fe.sqStaged = true →
      exec (.qctlSqCmt v 0xF#4) s = .next { s with fe := { s.fe with sqResult := 2 } }) ∧
    (CtlOpen 0xC2014 s → cqRefused s.fe s.fe.cqSel (s.fe.cqOf s.fe.cqSel).regs s.fe.cqStaged = false →
      exec (.qctlCqCmt v 0xF#4) s = .next { s with fe := { s.fe with
        cqResult := 1
        cq := fset {} s.fe.cq s.fe.cqSel ((s.fe.cqOf s.fe.cqSel).apply s.fe.cqStaged) } }) ∧
    (CtlOpen 0xB100C s → s.fe.atgStaged.bad = false →
      exec (.atgCmt v 0xF#4) s = .next { s with fe := { s.fe with
        atgResult := 1
        atg := fset {} s.fe.atg s.fe.atgSel s.fe.atgStaged } }) ∧
    (CtlOpen 0xB100C s → s.fe.atgStaged.bad = true →
      exec (.atgCmt v 0xF#4) s = .next { s with fe := { s.fe with atgResult := 2 } }) ∧
    (CtlOpen 0xA1000 s → s.rat.busy = false → ratRefused s s.rat.staged = false →
      exec (.ratCmt v 0xF#4) s = .next { s with rat := { s.rat with result := 0, busy := true, applying := s.rat.staged } }) ∧
    (CtlOpen 0xA1000 s → s.rat.busy = false → ratRefused s s.rat.staged = true →
      exec (.ratCmt v 0xF#4) s = .next { s with rat := { s.rat with result := 2 } })) ∧
  (∀ (c : Ctx) (r : CtxRegs), bit r.cfg 31 = true → bit c.cfg 31 = false →
    (c.apply r).gen = c.gen + 1 ∧ (c.apply r).state = 1) ∧
  (∀ (c : Ctx) (r : CtxRegs), bit r.cfg 31 = bit c.cfg 31 → (c.apply r).gen = c.gen) ∧
  (∀ (q : Sq) (r : QRegs), bit r.cfg 31 = true → q.en = false → (q.apply r).head = 0 ∧ (q.apply r).tail = 0
    ∧ (q.apply r).err = false ∧ (q.apply r).estGather = 0 ∧ (q.apply r).regs = r) ∧
  (∀ (q : Cq) (r : QRegs), bit r.cfg 31 = true → q.en = false → (q.apply r).head = 0 ∧ (q.apply r).tail = 0
    ∧ (q.apply r).phase = true ∧ (q.apply r).regs = r)

/-- The region attribute table, way roles, L1 enables, power control, Mangle counters and latency sets (R264 to R266, R274, R278,
R475, R76, R78, R363). -/
def Obligations.UnitRegistersTakeEffect : Prop :=
  (∀ s : State, Runs .fab s → s.rat.busy = true → ratBusy s = false → exec .ratApplyDone s = .next (answerReads (ratApply s))) ∧
  (∀ (s : State) (k : Nat) (v : W32), CtlOpen (0xA2000 + 16 * k) s → k < 64 → (s.dc.slice k).busy = false →
    (8 < fld v 11 8 ∨ 10 < fld v 11 8 + fld v 3 0) →
    exec (.dcWaysWrite k v 0xF#4) s = .next (modSlice k (fun sl => { sl with result := 2 }) (wakePart (k / 8) s))) ∧
  (∀ (s : State) (k : Nat) (v : W32), CtlOpen (0xA2000 + 16 * k) s → k < 64 → (s.dc.slice k).busy = false →
    fld v 11 8 ≤ 8 → fld v 11 8 + fld v 3 0 ≤ 10 →
    let t := wakePart (k / 8) s
    let keep := min (t.dc.slice k).scr (fld v 11 8) * 0x20000
    exec (.dcWaysWrite k v 0xF#4) s = .next (modSlice k (fun sl => { sl with
      scr := fld v 11 8, off := fld v 3 0, busy := true }) { t with dc := { t.dc with
        scratch := t.dc.scratch.filter fun b => b.1 / 0x100000 ≠ k || b.1 % 0x100000 < keep
        scratchBad := t.dc.scratchBad.filter fun b => 8 * b.1 / 0x100000 ≠ k || 8 * b.1 % 0x100000 < keep } })) ∧
  (∀ (s : State) (k : Nat), Runs (.part (partOfSlice k)) s → (s.dc.slice k).busy = true →
    (∀ l ∈ (s.dc.slice k).lines, (s.dc.slice k).cacheWays ≤ l.way → (s.dc.slice k).inTxn l.line = false) →
    exec (.waysChangeDone k) s = .next (modSlice k (fun sl => { sl with busy := false, result := 1 }) (cleanWays k s))) ∧
  (∀ (s : State) (c : Nat) (v : W32), CtlOpen (0xA3000 + 4 * c) s → c < 64 →
    rget s (0xA3000 + 4 * c) &&& 0xF#32 = 0#32 →
    exec (.l1ctlWrite c v 0xF#4) s = .next (rset (0xA3000 + 4 * c) (v &&& 0xF#32) (wakePart (c / 8) s))) ∧
  (∀ (s : State) (p : Nat) (v : W32), CtlOpen (0x120100 + 4 * p) s → p < 8 → bit v 30 = true → 10 ≤ fld v 15 0 →
    exec (.partPwrctlWrite p v 0xF#4) s = .next (rset (0x120100 + 4 * p) (v &&& 0x4000FFFF#32) s)) ∧
  (∀ (s : State) (k : Nat) (v : W32), CtlOpen (0x60000 + 0x40 * k) s → k < 10 → bit v 0 = true →
    exec (.mngClear k v 0xF#4) s = .next { s with
      mng := fset {} s.mng k { freeze := bit v 1 }
      latch := fset 0 (fset 0 s.latch (0x60008 + 0x40 * k) 0) (0x60010 + 0x40 * k) 0 }) ∧
  (∀ (s : State) (k : Nat) (v : W32), CtlOpen (0x60000 + 0x40 * k) s → k < 10 → bit v 0 = false →
    exec (.mngFreeze k v 0xF#4) s = .next { s with
      mng := fset {} s.mng k { fget {} s.mng k with freeze := bit v 1 } }) ∧
  (∀ (s : State) (v : W32), CtlOpen 0xD0000 s → fwf regReset s.regs = true → ∃ t, exec (.latSel v 0xF#4) s = .next t ∧
    t.fe.lat = (List.range 52).foldl (fun m k => fset 0 m (64 * fld v 9 0 + k) 0) s.fe.lat ∧
    rget t 0xD0000 = v &&& 0x3FF#32 ∧ t.dram = s.dram ∧ t.fe.cmds = s.fe.cmds)

/-- Local store (R213, R223): a load, a store and an atomic inside the launch's allocations complete; one outside ends the launch
with source 0x06. -/
def Obligations.LocalStoreAccesses : Prop :=
  ∀ (s : State) (x : Issue) (p : Path),
  (Issues s 0x90 x p → lsOut p (accBytes (wMod p.w)) = none → lsBadRead (clocked p s) p (accBytes (wMod p.w)) = false →
    accBytes (wMod p.w) % 4 = 0 →
    exec (.lds x) s = .next (onGroup p (fun g => (p.act.foldl (fun g i =>
      g.putBytes i (wRd p.w) (lsRead s p.t.core (p.a i).toNat (accBytes (wMod p.w))) (freeLane s i)) g).next p)
      { clocked p s with freeCtr := s.freeCtr + 32 })) ∧
  (Issues s 0x91 x p → lsOut p (accBytes (wMod p.w)) = none →
    exec (.sts x) s = .next (onGroup p (fun g => g.next p) (p.act.foldl (fun s i =>
      writeLs p.t.core (p.a i).toNat (p.g.regBytes i (wRb p.w) (accBytes (wMod p.w))) s) (clocked p s)))) ∧
  (∀ i, Issues s 0x92 x p → p.act = [i] → lsOut p (atomSize (wMod p.w)) = none →
    lsBadRead (clocked p s) p (atomSize (wMod p.w)) = false →
    let n := atomSize (wMod p.w)
    let old := lsRead s p.t.core (p.a i).toNat n
    exec (.ats x) s = .next (onGroup p (fun _ => (p.g.putBytes i (wRd p.w) old 0).next p)
      (writeLs p.t.core (p.a i).toNat (leBytes n
        (atomOp (wMod p.w % 8) n (leNat old) (atomArgs p i).1 (atomArgs p i).2)) (clocked p s)))) ∧
  (∀ o, Issues s 0x91 x p → lsOut p (accBytes (wMod p.w)) = some o →
    exec (.sts x) s = .next (pathFault p 0x06 (some p.pc) (o % 2 ^ 19) (clocked p s)))

/-- Global loads (R212, R235, R238, R314): with its pages translated, its lines at hand and no poison a load of four bytes or
more puts its bytes into Vd and the next ones; LDR takes a reservation for each thread besides; a misaligned LDR ends the launch
with source 0x0A, a load of a denied page with source 0x02. Global stores (R212, R230, R232, R235 to R237): a store without
release enters the core's store buffer; one to a denied page ends the launch with source 0x03; a conditional store without
release, aligned and translated, whose threads hold no reservation stores nothing, puts 1 in Vd and ends the reservations. -/
def Obligations.GlobalLoadsAndStores : Prop :=
  (∀ (s : State) (x : Issue) (p : Path) (ps : List Piece),
    (Issues s 0x80 x p → planOf (clocked p s) p.l false (vaAccess p (accBytes (wMod p.w))) = .ok ps →
      (∀ l ∈ linesOf ps, pieceMask ps l &&& ~~~coreMask (clocked p s) p.t.core l = 0) →
      (∀ y ∈ ps, piecePoison (clocked p s) p.t.core y = false) → 4 ≤ accBytes (wMod p.w) →
      exec (.ld x) s = .next (onGroup p (fun g => (p.act.foldl (fun g i =>
          g.putBytes i (wRd p.w) (laneBytes (clocked p s) p.t.core i ps) (freeLane s i)) g).next p)
        (modCore p.t.core (fun k => { k with ret := k.ret.filter fun r => !(linesOf ps).contains r.line }) (clocked p s)))) ∧
    (Issues s 0xA2 x p → misaligned p (accBytes (wMod p.w)) = none →
      planOf (clocked p s) p.l false (vaAccess p (accBytes (wMod p.w))) = .ok ps →
      storesTo (clocked p s) p.t.core (linesOf ps) = false →
      (∀ l ∈ linesOf ps, pieceMask ps l &&& ~~~coreMask (clocked p s) p.t.core l = 0) →
      (∀ y ∈ ps, piecePoison (clocked p s) p.t.core y = false) → 4 ≤ accBytes (wMod p.w) →
      exec (.ldr x) s = .next (onGroup p (fun g => ((p.act.foldl (fun g i =>
          g.putBytes i (wRd p.w) (laneBytes (clocked p s) p.t.core i ps) (freeLane s i)) g).next p).reserve ps s.devtime)
        (modCore p.t.core (fun k => { k with ret := k.ret.filter fun r => !(linesOf ps).contains r.line }) (clocked p s)))) ∧
    (∀ va, Issues s 0xA2 x p → misaligned p (accBytes (wMod p.w)) = some va →
      exec (.ldr x) s = .next (pathFault p 0x0A (some va) p.pc (clocked p s))) ∧
    (∀ va, Issues s 0x80 x p → planOf (clocked p s) p.l false (vaAccess p (accBytes (wMod p.w))) = .denied va →
      exec (.ld x) s = .next (pathFault p 0x02 (some va) p.pc (clocked p s)))) ∧
  (∀ (s : State) (x : Issue) (p : Path) (ps : List Piece),
    (Issues s 0x81 x p → planOf (clocked p s) p.l true (vaAccess p (accBytes (wMod p.w))) = .ok ps → wMod p.w / 64 < 2 →
      exec (.st x) s = .next (putStores p (storeEnts p ps fun i => p.g.regBytes i (wRb p.w) (accBytes (wMod p.w))) (clocked p s))) ∧
    (∀ va, Issues s 0x81 x p → planOf (clocked p s) p.l true (vaAccess p (accBytes (wMod p.w))) = .denied va →
      exec (.st x) s = .next (pathFault p 0x03 (some va) p.pc (clocked p s))) ∧
    (Issues s 0xA3 x p → misaligned p (accBytes (wMod p.w)) = none → wMod p.w / 64 < 2 →
      planOf (clocked p s) p.l true (vaAccess p (accBytes (wMod p.w))) = .ok ps →
      (∀ y ∈ ps, holdsResv (clocked p s) p y.lane (y.key / 128) = false) →
      exec (.stc x) s = .next (onGroup p (fun g =>
        ((p.act.foldl (fun g i => g.setReg i (wRd p.w) 1) g).next p).endResv p.act) (clocked p s))) ∧
    (∀ i y t, Issues s 0xA3 x p → p.act = [i] → misaligned p (accBytes (wMod p.w)) = none → wMod p.w / 64 < 2 →
      planOf (clocked p s) p.l true (vaAccess p (accBytes (wMod p.w))) = .ok [y] → y.lane = i →
      holdsResv (clocked p s) p i (y.key / 128) = true → linesOf [y] = [y.key / 128] →
      storesTo (clocked p s) p.t.core [y.key / 128] = false →
      homeReady true p.t.core (y.key / 128) 0 (clocked p s) = (t, true) → holdsResv t p i (y.key / 128) = true →
      exec (.stc x) s = .next (onGroup p (fun g => ((g.setReg i (wRd p.w) 0).next p).endResv [i])
        (noteWrite p.l.id (homeStore p i (y.key / 128)
          (pieceBytes y (p.g.regBytes i (wRb p.w) (accBytes (wMod p.w)))) t)))) ∧
    (∀ va, Issues s 0xA3 x p → misaligned p (accBytes (wMod p.w)) = some va →
      exec (.stc x) s = .next (pathFault p 0x0A (some va) p.pc (clocked p s))))

/-- Atomics (R287, R288, R315): aligned, granted, translated and with its lines ready where it is performed, an ATOM does its
operation on every executing thread's operand and gives the old value; a RED does it without a result and without a grant; an ATOM
outside every grant ends the launch with source 0x03. The operations of the atomics on 4 bytes (log 8): sum, signed minimum and
maximum, AND, OR, XOR, exchange, compare and swap. -/
def Obligations.AtomicsAndTheirOperations : Prop :=
  (∀ (s : State) (x : Issue) (p : Path) (ps : List Piece) (t : State),
    (Issues s 0xA0 x p → misaligned p (atomSize (wMod p.w)) = none →
      (∀ a ∈ vaAccess p (atomSize (wMod p.w)), granted (clocked p s) p.l.ctx a.2.1 (atomSize (wMod p.w)) = true) →
      planOf (clocked p s) p.l true (vaAccess p (atomSize (wMod p.w))) = .ok ps → wMod p.w / 64 < 2 →
      storesTo (clocked p s) p.t.core (linesOf ps) = false →
      (decideAtoms p false (linesOf ps) (clocked p s)).2.foldl (fun (a : State × Bool) d =>
        let y := atomReady p false ps d a.1
        (y.1, a.2 && y.2)) ((decideAtoms p false (linesOf ps) (clocked p s)).1, true) = (t, true) →
      exec (.atom x) s = .next (performAtoms p (decideAtoms p false (linesOf ps) (clocked p s)).2 (atomSize (wMod p.w)) true ps t)) ∧
    (Issues s 0xA1 x p → misaligned p (atomSize (wMod p.w)) = none →
      planOf (clocked p s) p.l true (vaAccess p (atomSize (wMod p.w))) = .ok ps → wMod p.w / 64 < 2 →
      storesTo (clocked p s) p.t.core (linesOf ps) = false →
      (decideAtoms p true (linesOf ps) (clocked p s)).2.foldl (fun (a : State × Bool) d =>
        let y := atomReady p true ps d a.1
        (y.1, a.2 && y.2)) ((decideAtoms p true (linesOf ps) (clocked p s)).1, true) = (t, true) →
      exec (.red x) s = .next (performAtoms p (decideAtoms p true (linesOf ps) (clocked p s)).2 (atomSize (wMod p.w)) false ps t)) ∧
    (∀ a, Issues s 0xA0 x p → misaligned p (atomSize (wMod p.w)) = none →
      ((vaAccess p (atomSize (wMod p.w))).find? fun a => !granted (clocked p s) p.l.ctx a.2.1 (atomSize (wMod p.w))) = some a →
      exec (.atom x) s = .next (pathFault p 0x03 (some a.2.1) p.pc (clocked p s)))) ∧
  (∀ a b c : W32, BitVec.ofNat 32 (atomOp 0 4 a.toNat b.toNat c.toNat) = a + b
      ∧ BitVec.ofNat 32 (atomOp 1 4 a.toNat b.toNat c.toNat) = (if a.sle b then a else b)
      ∧ BitVec.ofNat 32 (atomOp 2 4 a.toNat b.toNat c.toNat) = (if a.sle b then b else a)
      ∧ BitVec.ofNat 32 (atomOp 3 4 a.toNat b.toNat c.toNat) = a &&& b
      ∧ BitVec.ofNat 32 (atomOp 4 4 a.toNat b.toNat c.toNat) = a ||| b
      ∧ BitVec.ofNat 32 (atomOp 5 4 a.toNat b.toNat c.toNat) = a ^^^ b
      ∧ BitVec.ofNat 32 (atomOp 6 4 a.toNat b.toNat c.toNat) = b
      ∧ BitVec.ofNat 32 (atomOp 7 4 a.toNat b.toNat c.toNat) = (if a = b then c else a))

/-- Fences, special registers, waits, work items and prefetches (R203, R205, R209, R214, R228, R233, R271). -/
def Obligations.FencesWaitsAndItems : Prop :=
  ∀ (s : State) (x : Issue) (p : Path),
  (Issues s 0xB0 x p → (wMod p.w / 4 = 1 ∨ wMod p.w % 4 < 2) →
    exec (.fenceInstr x) s = .next (onGroup p (fun g => g.next p) (clocked p s))) ∧
  (∀ t, Issues s 0xB0 x p → wMod p.w / 4 ≠ 1 → drain p (wMod p.w % 4) (clocked p s) = (t, true) →
    exec (.fenceInstr x) s = .next (onGroup p (fun g => g.next p) t)) ∧
  (Issues s 0xB0 x p → wMod p.w / 4 ≠ 1 → wMod p.w % 4 = 2 → ((coreAt s p.t.core).sb.any fun e => e.level = .core) = true →
    exec (.fenceInstr x) s = .next (stall p .mem (clocked p s))) ∧
  (Issues s 0xB1 x p → wRa p.w ≠ 8 → exec (.s2v x) s = .next (writeRd p (fun i =>
    specialReg (clocked p s) p i (wRa p.w)) (onGroup p (fun g => g) (clocked p s)))) ∧
  (Issues s 0xB1 x p → wRa p.w = 8 → exec (.s2v x) s = .next (writeRd p (fun _ => s.devtime.setWidth 32)
    (onGroup p (fun g => { g with dtHi := p.act.foldl (fun m i =>
      fset 0 m i (BitVec.ofNat 32 (s.devtime.toNat / 2 ^ 32))) g.dtHi }) (clocked p s)))) ∧
  (Issues s 0xB2 x p → (∀ i ∈ p.act, (p.a i).toNat ≤ fget 0 (coreAt s p.t.core).land p.l.id) →
    exec (.waitge x) s = .next (onGroup p (fun g => (g.next p).endResv p.act) (clocked p s))) ∧
  (Issues s 0xB2 x p → (∃ i ∈ p.act, fget 0 (coreAt s p.t.core).land p.l.id < (p.a i).toNat) →
    exec (.waitge x) s = .next (onGroup p (fun g => { g.endResv p.act with wait := .event }) (clocked p s))) ∧
  (∀ it, Issues s 0xB3 x p → (p.l.items.find? fun i => !i.taken) = some it →
    let mark (z : Item) : Item := { z with taken := true }
    let f (y : Launch) : Launch := { y with items := mapWhere (fun z => decide (z.tag = it.tag)) mark y.items }
    exec (.wget x) s = .next (onGroup p (fun g => ((p.act.foldl (fun g i =>
        (((g.setReg i (wRd p.w) (BitVec.ofNat 32 it.tag)).setReg i (wRd p.w + 1) (it.arg.setWidth 32)).setReg i (wRd p.w + 2)
          (BitVec.ofNat 32 (it.arg.toNat / 2 ^ 32))).setReg i (wRd p.w + 3) (timeLeft (clocked p s) it.cmd)) g).next p).endResv p.act)
      (modLaunch p.l.id f { clocked p s with freeCtr := s.freeCtr + 32 }))) ∧
  (∀ i it t, Issues s 0xB4 x p → p.act = [i] → p.l.items = [it] → it.tag % 2 ^ 32 = (p.a i).toNat → it.done = false →
    drain p 3 (clocked p s) = (t, true) →
    let mark (z : Item) : Item := { z with done := true }
    let f (y : Launch) : Launch := { y with items := mapWhere (fun z => [(p.a i).toNat].contains (z.tag % 2 ^ 32)) mark y.items }
    exec (.wdone x) s = .next (finishItem p.l.id it.tag (releaseItem p.l it (onGroup p (fun g => g.next p) (modLaunch p.l.id f t))))) ∧
  (∀ i v, Issues s 0xB4 x p → p.act = [i] → p.l.items = [] → v = (p.a i).toNat →
    exec (.wdone x) s = .next (pathFault p 0x08 (some p.pc) v (clocked p s))) ∧
  (∀ i pa, Issues s 0x82 x p → p.act = [i] →
    xlat (clocked p s) p.l.ctx p.l.gen (p.g.reg64 i (wRa p.w)) false = .pa pa → physOk (clocked p s) pa 1 = true →
    exec (.pref x) s = .next (onGroup p (fun g => g.next p) (prefetch
      (lineHome (homeKey (clocked p s) pa / 128)) (homeKey (clocked p s) pa / 128) (clocked p s))))

/-- Mover instructions (R319, R320, R323): a group's TMOV or TOUT copies its descriptor and queues the transfer unless 32 are
queued at the core, where the group waits; TWAIT goes on once no more transfers are left than its operand. -/
def Obligations.MoverInstructions : Prop :=
  ∀ (s : State) (x : Issue) (p : Path),
  (Issues s 0xC0 x p → queuedAt (clocked p s) p.t.core < 32 →
    exec (.tmov x) s = .next (issueXfer p none (p.a (p.act.headD 0)).toNat false (clocked p s))) ∧
  (Issues s 0xC0 x p → 32 ≤ queuedAt (clocked p s) p.t.core → exec (.tmov x) s = .next (stall p .event (clocked p s))) ∧
  (∀ tag, Issues s 0xC1 x p → toutTag p.l (p.g.reg (p.act.headD 0) (wRb p.w)) = some tag → queuedAt (clocked p s) p.t.core < 32 →
    exec (.tout x) s = .next (issueXfer p tag (p.a (p.act.headD 0)).toNat true (clocked p s))) ∧
  (Issues s 0xC1 x p → toutTag p.l (p.g.reg (p.act.headD 0) (wRb p.w)) = none →
    exec (.tout x) s = .next (pathFault p 0x08 (some p.pc) (p.g.reg (p.act.headD 0) (wRb p.w)).toNat (clocked p s))) ∧
  (∀ off, Issues s 0xC0 x p → off = (p.a (p.act.headD 0)).toNat → inTeams p.l p.t.core off 64 = true →
    lsPoison (clocked p s) p.t.core off 64 = false → off % 64 = 0 → tdReserved (lsRead s p.t.core off 64) = false →
    tdGeometry (lsRead s p.t.core off 64) false false = false → tdDspace (lsRead s p.t.core off 64) = 2 →
    issueXfer p none off false (clocked p s) = onGroup p (fun g => g.next p)
      (addXfer (.simt p.l.id p.t.num p.g.num p.t.core (wMod p.w % 8) p.pc) p.l.ctx p.l.gen (lsRead s p.t.core off 64) none
        false (clocked p s))) ∧
  (Issues s 0xC2 x p → (∀ i ∈ p.act,
      (BitVec.ofNat 32 (mcOf (clocked p s) p.t.core p.l.id (wMod p.w % 8)) - p.a i).msb = false) →
    exec (.twait x) s = .next (onGroup p (fun g => (g.next p).endResv p.act) (clocked p s)))

/-- Press instructions issue (R180, R188, R193): into the queue of a stream of the launch with room and fewer than 63 pending on
their token, with one more pending then; a PMMA at a full queue makes the group wait; a PLDW to a stream that is not the
launch's ends the launch with source 0x09. PWAIT goes on once no more than N are pending. -/
def Obligations.PressInstructionsIssue : Prop :=
  (∀ (s : State) (x : Issue) (p : Path), (streamAt s p.t.core (wS p.w)).launch = some p.l.id →
    pendOf s p.t.core p.l.id (wTok p.w) < 63 → (streamAt s p.t.core (wS p.w)).queue.length < 8 →
    let ins (opc : Byte) : PressIns :=
      { opc := opc, word := BitVec.ofNat 64 p.w, adj := (p.g.reg (p.act.headD 0) (wAdj p.w)).toNat,
        hreg := (p.g.reg (p.act.headD 0) (wHreg p.w)).toNat, tok := wTok p.w }
    let put (opc : Byte) : State := onGroup p (fun g => g.next p) (modPend p.t.core p.l.id (wTok p.w) (· + 1)
      (modStream p.t.core (wS p.w) (fun y => { y with queue := y.queue ++ [ins opc] }) (clocked p s)))
    (Issues s 0xE0 x p → exec (.pldw x) s = .next (put 0xE0#8)) ∧ (Issues s 0xE1 x p → exec (.pmma x) s = .next (put 0xE1#8)) ∧
    (Issues s 0xE2 x p → exec (.prq x) s = .next (put 0xE2#8))) ∧
  (∀ (s : State) (x : Issue) (p : Path), (streamAt s p.t.core (wS p.w)).launch = some p.l.id →
    8 ≤ (streamAt s p.t.core (wS p.w)).queue.length → Issues s 0xE1 x p →
    exec (.pmma x) s = .next (stall p .event (clocked p s))) ∧
  (∀ (s : State) (x : Issue) (p : Path), (streamAt s p.t.core (wS p.w)).launch ≠ some p.l.id → Issues s 0xE0 x p →
    exec (.pldw x) s = .next (launchFault p.l p.t.core 0x09 none p.w (clocked p s))) ∧
  (∀ (s : State) (x : Issue) (p : Path), Issues s 0xE3 x p → pendOf s p.t.core p.l.id (wTok p.w) ≤ wDi p.w →
    exec (.pwait x) s = .next (onGroup p (fun g => (g.next p).endResv p.act) (clocked p s))) ∧
  (∀ (s : State) (x : Issue) (p : Path), Issues s 0xE3 x p → wDi p.w < pendOf s p.t.core p.l.id (wTok p.w) →
    exec (.pwait x) s = .next (onGroup p (fun g => { g.endResv p.act with wait := .event }) (clocked p s)))

/-- Press instructions at work (R181 to R189): the front of a queue that may start and passes the checks of R181 leaves the
queue and runs, its stage having served its stream (R193), a PMMA with SWAP exchanging the weight registers; one that fails
them ends the launch. Its completion has its effect on the stream or the local store and one fewer is pending. What a completed
press instruction does (R182, R183): a PLDW with a sound tile fills the shadow weights, a PMMA adds its products to the
accumulator rows and counts 1 array cycle a line, 4 in common mode (R192). -/
def Obligations.PressInstructionsRunAndComplete : Prop :=
  (∀ (s : State) (core strm : Nat) (i : PressIns) (rest : List PressIns) (lid : Nat) (l : Launch),
      Runs (.part (partOfCore core)) s → (streamAt s core strm).launch = some lid → findLaunch s lid = some l → l.ending = none →
      s.flt.safe = false → clusterInReset s (core / 4) = false →
      ((streamAt s core strm).queue = i :: rest → mayStart s core strm i = true →
        pressBad l core ((streamAt s core strm).swap i).active i = false →
        exec (.pressInstrStart core strm) s = .next (takeTurn core strm (streamAt s core strm).press (insOpc i)
          (modStream core strm (fun _ =>
            { (streamAt s core strm).swap i with queue := rest, running := ((streamAt s core strm).swap i).running ++ [i] })
            { s with pwr := s.pwr.startClk (core / 4) }))) ∧
      ((streamAt s core strm).queue = i :: rest → mayStart s core strm i = true →
        pressBad l core ((streamAt s core strm).swap i).active i = true →
        exec (.pressInstrStart core strm) s = .next (pressFault l core i { s with pwr := s.pwr.startClk (core / 4) })) ∧
      (∀ opc, ((streamAt s core strm).running.find? fun j => j.opc = opc) = some i →
        exec (.pressInstrComplete core strm opc) s = .next (modPend core lid i.tok (· - 1) (modStream core strm (fun y =>
          { y with running := dropFirst (fun j => decide (j = i)) y.running }) (pressEffect l core strm i s))))) ∧
  (∀ (s : State) (l : Launch) (core strm : Nat) (i : PressIns) (d : BitVec 128), l.pdt[wDi i.word.toNat]? = some d →
      tilePoison s (tileAt d core i.adj) = false →
      (i.opc = 0xE0#8 → pressEffect l core strm i s = modStream core strm (fun y =>
        { y with shadow := operandLines s l.common (tileAt d core i.adj) }) s) ∧
      (i.opc = 0xE1#8 → pressEffect l core strm i s = countBusy core ((if l.common then 4 else 1) * tileLines d)
        (modStream core strm (fun y => y.pmma i.word.toNat (operandLines s l.common (tileAt d core i.adj))) s)) ∧
      (i.opc = 0xE2#8 → pressEffect l core strm i s = prqWrite core (streamAt s core strm) i (tileAt d core i.adj) s))

/-- Launches (R196 to R203, R209): an admitted launch, attached or not, runs; the next team of a launch is placed on a core that
fits it where the partition's arbiter may serve it (R357); a group that waits for an event wakes; a launch with all its teams gone and nothing under way ends with OK, a resident
one, whose own command ended before, with FAULTED for its items, one that is ending with the status of its end. -/
def Obligations.LaunchesAndTeams : Prop :=
  (∀ (s : State) (id : Nat) (c : Cmd), Runs .fab s → InPhase s id .launch .admitted c → lnAttach c.bytes = false →
    exec (.launch id) s = .next (modCmd id (fun d => { d with phase := .running }) s)) ∧
  (∀ (s : State) (id : Nat) (c : Cmd), Runs .fab s → InPhase s id .launch .admitted c → lnAttach c.bytes = true →
    exec (.launchAttach id) s = .next (modCmd id (fun d => { d with phase := .running }) s)) ∧
  (∀ (s : State) (launch core base : Nat) (slots : List Nat) (l : Launch), Runs (.part (partOfCore core)) s →
    findLaunch s launch = some l → l.ending = none → l.placed < l.nteams → coreFor l core = true →
    clusterInReset s (core / 4) = false → s.flt.safe = false → fits s l core = some (base, slots) →
    s.fe.mayServe (.team (partOfCore core)) (teamReqs s (partOfCore core)) (l.ctx, l.sq) = true →
    exec (.teamPlace launch core) s = .next (placeTeam l core base slots { s with
      fe := s.fe.serve (.team (partOfCore core)) (teamReqs s (partOfCore core)) (l.ctx, l.sq) 1 })) ∧
  (∀ (s : State) (launch team group : Nat) (l : Launch) (t : Team), Runs (simtDom s launch team) s →
    findLaunch s launch = some l → (l.teams.find? fun y => y.num = team) = some t →
    exec (.groupWake launch team group) s = .next (modGroup launch team group
      (fun g => if g.wait = .event then { g with wait := .none } else g) { s with pwr := s.pwr.startClk (t.core / 4) })) ∧
  (∀ (s : State) (launch : Nat) (l : Launch), Runs .fab s → findLaunch s launch = some l → l.ending = none → l.nteams ≤ l.placed →
    l.teams = [] → pressBusy s l.id = false → moverBusy s l.id = false → storesHeld s l.cmd = false →
    writesOut (settleLaunch l s) l.cmd = false →
    exec (.launchEnd launch) s = .next (endLaunch launch (if l.resident then 0x20 else 0) (settleLaunch l s))) ∧
  (∀ (s : State) (launch : Nat) (l : Launch) (st : Byte), Runs .fab s → findLaunch s launch = some l → l.ending = some st →
    exec (.launchEnd launch) s = .next (endLaunch launch st s))

/-- Requests of the L1s (R282, R284): a core that asks for a line makes its request to the line's home, when no background work is owed
the slot; one that is to be refused is refused, one for a line that no other core holds and whose data the home has is served from there
at once; a refused request that is still wanted is made again in its time; the current data of a line that nothing near holds is fetched.
Writes toward the homes (R277, R282, R286): the oldest store of a core is merged at the home when no other core holds the line and else
starts a transaction on it; the oldest write of a requester without a copy is merged when no core holds the line; a line leaving an L1 is
written back, a clean one announced. -/
def Obligations.CoherenceRequestsAndWrites : Prop :=
  (∀ (s : State) (core line : Nat), Runs (.part (partOfSlice (lineHome line))) s → asks s core line false = true →
    clusterInReset s (core / 4) = false → slotOwed s (lineHome line) false = false →
    exec (.readShared core line) s = .next (request core line false (takeSlot (lineHome line) false s))) ∧
  (∀ (s : State) (core line : Nat), Runs (.part (partOfSlice (lineHome line))) s → asks s core line true = true →
    clusterInReset s (core / 4) = false → slotOwed s (lineHome line) false = false →
    exec (.readOwn core line) s = .next (request core line true (takeSlot (lineHome line) false s))) ∧
  (∀ (s : State) (core line : Nat) (own : Bool), ratWait s line = false → l1Room s core line = true →
    refused s core line (reqKind own) = true → request core line own s = refuse core line (reqKind own) s) ∧
  (∀ (s : State) (core line : Nat) (own : Bool) (g : LineGrant), ratWait s line = false → l1Room s core line = true →
    refused s core line (reqKind own) = false → ((coreAt s core).wb.find? fun m => m.line = line) = none →
    let t := clearNak core line (reqKind own) s
    keepsLine t core line = true → dirRoom t line = .room → dirOf t line = none →
    homeLine t (lineHome line) line (missMask t core line own) = some g → hostOwns t (lineHome line) line = true →
    request core line own s = giveLine core line (if own then .M else .E) g (useSide (lineHome line) line t)) ∧
  (∀ (s : State) (core line : Nat) (n : Nak) (own : Bool), Runs (.part (partOfSlice (lineHome line))) s →
    ((s.dc.slice (lineHome line)).naks.find? fun n => n.core = core && n.line = line) = some n → n.wanted s = true →
    mayRetry s core line n.kind = true → slotOwed s (lineHome line) false = false → n.kind = reqKind own →
    exec (.nakRetry core line) s = .next (request core line own (takeSlot (lineHome line) false s))) ∧
  (∀ (s : State) (line : Nat), Runs (.part (partOfSlice (lineHome line))) s → isHostLine line = false → ratWait s line = false →
    slotOwed s (lineHome line) false = false →
    exec (.readCurrent line) s = .next (askLine line 0xF#4 (takeSlot (lineHome line) false s))) ∧
  (∀ (s : State) (line : Nat) (need : BitVec 4), lineReady s line need = true → askLine line need s = useSide (lineHome line) line s) ∧
  (∀ (s : State) (line : Nat) (need : BitVec 4), lineReady s line need = false → mayRetry s noCopy line .readCurrent = true →
    s.dc.want.contains line = false →
    let t : State := { s with dc := { s.dc with want := s.dc.want ++ [line] } }
    refused t noCopy line .readCurrent = false →
    askLine line need s = fetchSectors (lineHome line) line need (clearNak noCopy line .readCurrent t)) ∧
  (∀ (s : State) (core : Nat) (e : StoreEnt), Runs (.part (partOfCore core)) s → clusterInReset s (core / 4) = false →
    oldestStore (coreAt s core) = some e → ratWait s e.line = false → mayRetry s core e.line .writeThrough = true →
    homeCan s e.line = true → slotOwed s (lineHome e.line) true = false → ((coreAt s core).wb.find? fun m => m.line = e.line) = none →
    let u := takeSlot (lineHome e.line) true s
    let t := clearNak core e.line .writeThrough u
    refused u core e.line .writeThrough = false →
    (others t e.line core = [] →
      exec (.writeThrough core) s = .next (mergeNow e.line (.core core e.cmd) e.bytes (storeTag t e.launch e.line) t)) ∧
    (others t e.line core ≠ [] → exec (.writeThrough core) s =
      .next (startTxn e.line (.merge (.core core e.cmd) e.bytes (storeTag t e.launch e.line)) true (others t e.line core) t))) ∧
  (∀ (s : State) (core : Nat) (e : StoreEnt), Runs (.part (partOfCore core)) s → clusterInReset s (core / 4) = false →
    oldestStore (coreAt s core) = some e → ratWait s e.line = false → mayRetry s core e.line .writeThrough = true →
    homeCan s e.line = true → slotOwed s (lineHome e.line) true = false →
    let u := takeSlot (lineHome e.line) true s
    refused u core e.line .writeThrough = true →
    exec (.writeThrough core) s = .next (refuse core e.line .writeThrough u)) ∧
  (∀ (s : State) (w : PendWrite), Runs .fab s → nextWrite s = some w →
    let u := takeSlot (lineHome w.line) true s
    let t := clearNak noCopy w.line .write { u with dc := { u.dc with writes := dropFirst (fun x => decide (x = w)) u.dc.writes } }
    refused u noCopy w.line .write = false → others t w.line noCopy = [] →
    exec .write s = .next (mergeNow w.line w.who w.bytes w.tag t)) ∧
  (∀ (s : State) (core : Nat) (m : L1Line) (rest : List L1Line), Runs (.part (partOfCore core)) s → (coreAt s core).wb = m :: rest →
    txnOn s m.line = none → ratWait s m.line = false →
    exec (.writeBack core) s = .next (homeData (lineHome m.line) m (dirRemove core m.line
      (modCore core (fun k => { k with wb := rest }) s)))) ∧
  (∀ (s : State) (core line : Nat), Runs (.part (partOfCore core)) s → (coreAt s core).notices.contains line = true →
    txnOn s line = none →
    ((coreAt (modCore core (fun k => { k with notices := dropFirst (fun x => decide (x = line)) k.notices }) s) core).line line) = none →
    exec (.evictNotice core line) s = .next (dirRemove core line
      (modCore core (fun k => { k with notices := dropFirst (fun x => decide (x = line)) k.notices }) s)))

/-- Snoops and what ends by time (R271, R282, R285, R236): a snooped L1 answers, giving up an invalidated line and keeping in F one that
it held alone and another core reads; the home ends the transaction with the last answer; an L1 silent for 10 µs is given up with the
record of source 0x33; side buffer lines leave after 50 µs, reservations after 4,096 cycles. -/
def Obligations.SnoopsAndExpiries : Prop :=
  (∀ (s : State) (core line : Nat) (t : Txn) (l : L1Line), Runs (.part (partOfCore core)) s → txnOn s line = some t →
    t.snoops.contains core = true → clusterInReset s (core / 4) = false → t.inval = true → l1On s core = true →
    ((coreAt s core).wb.find? fun m => m.line = line) = none → (coreAt s core).line line = some l →
    let k := (coreAt s core).dropLine line
    let t' : Txn := { t with
      snoops := t.snoops.filter (· ≠ core)
      answers := t.answers ++ [core]
      data := if l.st = .S || l.st = .F then t.data else some l }
    exec (.snoop core line) s = .next (modSlice (lineHome line)
      (fun sl => { sl with txns := sl.txns.map fun x => if x.line = line then t' else x })
      (dirRemove core line (modCore core (fun _ => { k with ret := k.ret.filter fun r => r.line ≠ line })
        { s with pwr := s.pwr.startClk (core / 4) })))) ∧
  (∀ (s : State) (core line : Nat) (t : Txn) (l : L1Line), Runs (.part (partOfCore core)) s → txnOn s line = some t →
    t.snoops.contains core = true → clusterInReset s (core / 4) = false → t.inval = false → l1On s core = true →
    ((coreAt s core).wb.find? fun m => m.line = line) = none → (coreAt s core).line line = some l → l.st ≠ .S →
    let t' : Txn := { t with
      snoops := t.snoops.filter (· ≠ core)
      answers := t.answers ++ [core]
      data := some l
      kept := true }
    exec (.snoop core line) s = .next (modSlice (lineHome line)
      (fun sl => { sl with txns := sl.txns.map fun x => if x.line = line then t' else x })
      (dirAdd core line .F (modCore core (fun _ => (coreAt s core).putLine { l with st := .F, hd := 0, tag := none })
        { s with pwr := s.pwr.startClk (core / 4) })))) ∧
  (∀ (s : State) (core line : Nat) (t : Txn), Runs (.part (partOfSlice (lineHome line))) s → txnOn s line = some t →
    t.answers.contains core = true →
    let u := modSlice (lineHome line) (fun sl => { sl with
      txns := sl.txns.map fun x => if x.line = line then { x with answers := x.answers.filter (· ≠ core) } else x }) s
    (t.snoops ≠ [] ∨ t.answers.filter (· ≠ core) ≠ [] → exec (.snoopResponse core line) s = .next u) ∧
    (t.snoops = [] → t.answers.filter (· ≠ core) = [] →
      exec (.snoopResponse core line) s = .next (endTxn { t with answers := [] } u))) ∧
  (∀ (s : State) (core line : Nat) (t : Txn), Runs (.part (partOfSlice (lineHome line))) s → txnOn s line = some t →
    t.snoops.contains core = true → 10000 ≤ s.devtime.toNat - t.since.toNat →
    exec (.l1Lost core line) s = .next (excuse core (reclaimL1 core (detect (partOfSlice (lineHome line))
      (report 0x33 none (locCore core) (some (if isHostLine line then (line - hostLine) * 128 else line * 128)) 0) s)))) ∧
  (∀ (s : State) (slice line : Nat) (e : SideEnt), Runs (.part (partOfSlice slice)) s → e ∈ (s.dc.slice slice).side →
    e.line = line → 50000 ≤ s.devtime.toNat - e.placed.toNat →
    ∃ t, exec (.sideBufferExpiry slice line) s = .next t ∧ e ∉ (t.dc.slice slice).side ∧
      t = modSlice slice (fun sl => { sl with
        side := sl.side.filter fun e => !(e.line = line && 50000 ≤ s.devtime.toNat - e.placed.toNat) }) s) ∧
  (∀ (s : State) (l t g lane : Nat), Runs .fab s →
    exec (.reservationExpiry l t g lane) s = .next (modLaunch l (fun x => { x with teams := x.teams.map fun y =>
      if y.num = t then { y with groups := y.groups.map fun z =>
        if z.num = g then { z with resv := z.resv.filter fun r => !(r.lane = lane && resvOld s y.core r) } else z } else y }) s)) ∧
  (∀ (s : State) (core : Nat) (r : Resv), resvOld s core r =
    (decide (4096000 ≤ (600 + 100 * min (fld (rget s (0x120200 + 4 * (core / 4))) 3 0) s.pwr.step) * (s.devtime.toNat - r.at_.toNat))
      && decide (32 < r.n)))

/-- Transfers (R319 to R327, R317, R318): a MOVE whose descriptor is not aligned is refused with BAD_GEOMETRY, one whose
descriptor is read is admitted with the descriptor's status and takes its transfer; a row in its turn starts; a row whose writes
have reached their level is delivered; a page in the way is asked for in a group, faulting page first; Success resumes the
transfer from its cursor; Response Failure fails it and ends page requests; two seconds without a response fail it. -/
def Obligations.TransfersProgress : Prop :=
  (∀ (s : State) (id : Nat) (host : ReadBack) (c : Cmd), Runs .fab s → InPhase s id .move .checked c → mvDesc c.bytes % 64 ≠ 0 →
    exec (.move id host) s = .next (admitNow id 0x13 s)) ∧
  (∀ (s : State) (id : Nat) (host : ReadBack) (d : Bytes) (devs : List (Nat × Nat)) (c : Cmd), Runs .fab s →
    InPhase s id .move .checked c → mvDesc c.bytes % 64 = 0 → moveDesc s c host = .ok d devs →
    exec (.move id host) s = .next (beginMove id d (admitNow id (moveStatus s c.ctx d) (doneRanges devs s)))) ∧
  (∀ (s : State) (id : Nat) (d : Bytes) (c : Cmd), InPhase s id .move .admitted c →
    beginMove id d s = modCmd id (fun k => { k with phase := .waitSeq, work := .move s.mov.next })
      { s with mov := { s.mov with
        xfers := s.mov.xfers ++ [{ id := s.mov.next, owner := .cmd id, ctx := c.ctx, gen := c.gen, desc := d, tag := none }]
        next := s.mov.next + 1 } }) ∧
  (∀ (s : State) (id n : Nat) (host : ReadBack) (bad : List Nat) (x : Xfer), Runs .fab s → findXfer s id = some x → x.isOver = false →
    (x.rows.find? fun r => r.n = n) = none → rowTurn s x n = true →
    exec (.moverRowDelivered id n host bad) s = .next (startRow x n host bad s)) ∧
  (∀ (s : State) (id n : Nat) (host : ReadBack) (bad : List Nat) (x : Xfer) (r : XRow), Runs .fab s → findXfer s id = some x →
    x.isOver = false → (x.rows.find? fun r => r.n = n) = some r → r.done = false → rowOut s id n = false →
    exec (.moverRowDelivered id n host bad) s = .next (deliverRow x n s)) ∧
  (∀ (s : State) (id : Nat) (x : Xfer) (p : Nat × Bool) (i : Nat), Runs .hif s → findXfer s id = some x → x.stuck = some p →
    freeIndex s.atc = some i → x.prg = none → s.atc.prFail = false → s.flt.safe = false →
    sumOf (s.atc.prgs.map fun g => g.pages.length) + (groupPages s x p).length ≤ min 2048 s.hif.prAlloc →
    exec (.pageRequestGroup id) s = .next (sendPages (pasidOf s x.ctx) i (groupPages s x p) (modXfer id (fun x => { x with prg := some i })
      { s with atc := { s.atc with prgs := s.atc.prgs ++
        [{ index := i, xfer := id, pages := (groupPages s x p).map Prod.fst, since := s.devtime, abandoned := false }] } }))) ∧
  (∀ (s : State) (x : Xfer) (p : Nat × Bool), (groupPages s x p).length ≤ 64 ∧
    ∃ w, (groupPages s x p).head? = some (p.1, w) ∧ (p.2 = true → w = true)) ∧
  (∀ (s : State) (i : Nat) (g : Prg) (x : Xfer), Runs .hif s → (s.atc.prgs.find? fun g => g.index = i) = some g →
    findXfer s g.xfer = some x → g.abandoned = false → x.prg = some i →
    exec (.prgResponse i 0) s = .next (modXfer x.id (fun y => { y with
      prg := none
      stuck := none
      fresh := y.stuck.map Prod.fst
      again := y.again + 1
      high := max y.high (y.cursor + y.rows.length)
      rows := [] }) { s with atc := { s.atc with prgs := s.atc.prgs.filter fun g => g.index ≠ i } })) ∧
  (∀ (s : State) (i : Nat) (g : Prg) (x : Xfer), Runs .hif s → (s.atc.prgs.find? fun g => g.index = i) = some g →
    findXfer s g.xfer = some x → g.abandoned = false → x.prg = some i →
    exec (.prgResponse i 15) s = .next (failXfer x (x.stuck.map fun p => p.1 * 4096)
      { s with atc := { s.atc with prgs := s.atc.prgs.filter fun g => g.index ≠ i, prFail := true } })) ∧
  (∀ (s : State) (i : Nat) (g : Prg) (x : Xfer), Runs .hif s →
    (s.atc.prgs.find? fun g => g.index = i && !g.abandoned && 2000000000 ≤ since s.devtime g.since) = some g →
    findXfer s g.xfer = some x → x.prg = some i →
    exec (.prgResponseTimeout i) s = .next (failXfer x (x.stuck.map fun p => p.1 * 4096) { s with atc := { s.atc with
      prgs := mapWhere (fun g => decide (g.index = i)) (fun g => { g with abandoned := true }) s.atc.prgs } }))

/-- Translations (R312, R314, R316, R392): a completion of the present generation enters the cache and goes to its requester; one
that no request waits for is an unexpected completion; a request unanswered for the completion timeout counts as denied, with an
error for AER; an invalidation drops the entries it names at once and is completed when no access to their pages is left. -/
def Obligations.TranslationsAndInvalidations : Prop :=
  (∀ (s : State) (q ppn n : Nat) (rd wr : Bool) (r : XlatReq), Runs .hif s → (s.atc.reqs.find? fun r => r.id = q) = some r →
    r.gen = (s.fe.ctxOf r.ctx).gen →
    let t : State := { s with atc := { s.atc with reqs := s.atc.reqs.filter fun r => r.id ≠ q } }
    exec (.translationCompletion q (.success ppn rd wr n)) s =
      .next (xlated r (resultOf r (.success ppn rd wr n)) { t with atc := t.atc.install r ppn rd wr n })) ∧
  (∀ (s : State) (q : Nat) (r : XlatReq), Runs .hif s → (s.atc.reqs.find? fun r => r.id = q) = some r →
    r.gen = (s.fe.ctxOf r.ctx).gen →
    exec (.translationCompletion q .denied) s =
      .next (xlated r .denied { s with atc := { s.atc with reqs := s.atc.reqs.filter fun r => r.id ≠ q } })) ∧
  (∀ (s : State) (q : Nat) (x : XlatResult), Runs .hif s → (s.atc.reqs.find? fun r => r.id = q) = none →
    exec (.translationCompletion q x) s = .next { s with hif := { s.hif with aer := s.hif.aer ++ [.unexpectedCompletion] } }) ∧
  (∀ (a : Atc) (r : XlatReq) (ppn n : Nat), a.ents.length < 16384 →
    (a.install r ppn true true n).ents = (a.ents.filter fun e => !(r.entry ppn true true n).meets e) ++ [r.entry ppn true true n] ∧
    (a.install r ppn false false n).ents = a.ents.filter fun e => !(r.entry ppn false false n).meets e) ∧
  (∀ (r : XlatReq) (ppn : Nat) (rd wr : Bool), r.entry ppn rd wr 0 =
    { pasid := r.pasid, ctx := r.ctx, gen := r.gen, page := r.page, ppn := ppn, r := rd, w := wr, noWrite := r.noWrite, log2 := 0 }) ∧
  (∀ (s : State) (q : Nat) (r : XlatReq), Runs .hif s →
    (s.atc.reqs.find? fun r => r.id = q && s.hif.cto ≤ since s.devtime r.since) = some r →
    r.gen = (s.fe.ctxOf r.ctx).gen →
    exec (.translationTimeout q) s = .next (xlated r .denied { s with
      atc := { s.atc with reqs := s.atc.reqs.filter fun r => r.id ≠ q }
      hif := { s.hif with aer := s.hif.aer ++ [.completionTimeout] } })) ∧
  (∀ (s : State) (itag pasid page pages : Nat), Runs .hif s →
    let hit (e : AtcEnt) : Bool := e.pasid = pasid && e.page < page + pages && page < e.page + 2 ^ e.log2
    exec (.atsInvalidationRequest itag pasid page pages) s = .next { s with atc := { s.atc with
      ents := s.atc.ents.filter fun e => !hit e
      invs := s.atc.invs ++ [{ itag := itag, ppns := ((s.atc.ents.filter hit).map fun e => (e.ppn, 2 ^ e.log2)).eraseDups }] } }) ∧
  (∀ (s : State) (itag : Nat) (i : Inv), Runs .hif s → (s.atc.invs.find? fun i => i.itag = itag) = some i →
    pagesBusy s i.ppns = false →
    exec (.invalidationCompletion itag) s = .next (emitMem (.invalidationCompletion itag)
      { s with atc := { s.atc with invs := s.atc.invs.filter fun x => x.itag ≠ itag } }))

/-- Ports (R296, R300 to R311, R490): a credit is counted; read data goes to its requester, with the bytes of the sectors counted;
a corrected sector is recorded with source 0x38 and written back conditionally; acknowledgements end their requests; a request
overdue loses the port with a record of source 0x3A and every request it has is answered within the block; a first training gives
the capacity; 650 ms after `PORST_N` what was found enters the memory map; a scrub reads the next line. -/
def Obligations.PortsAnswer : Prop :=
  (∀ (s : State) (p : Nat), Runs (portDom p) s →
    exec (.portCredit p) s = .next (pump p (modPort p (fun q => { q with credits := q.credits + 1 }) s))) ∧
  (∀ (s : State) (p tag : Nat) (st : List SectorStatus) (r : PReq), Runs (portDom p) s →
    ((portAt s.ports p).sent.find? fun r => isRead r && r.tag = tag) = some r → inHostOrder (portAt s.ports p) r = true →
    (∀ k, statusOf st k = .ok) → r.snapBad = 0 →
    exec (.portReadData p tag st) s = .next (pumpFreed (decide (65536 ≤ allReads s.ports)) p (answerRead r 0 (countPort p (maskBytes r.smask)
      (modPort p (fun q => { q with sent := dropFirst (fun x => decide (x = r)) q.sent }) s))))) ∧
  (∀ (s : State) (p tag : Nat) (r : PReq), Runs (portDom p) s →
    ((portAt s.ports p).sent.find? fun r => isRead r && r.tag = tag) = some r → inHostOrder (portAt s.ports p) r = true →
    r.snapBad = 0 → r.smask = 1 → r.stale = 0 → r.dline ≠ noLine →
    exec (.portReadData p tag [.corr]) s = .next (pumpFreed (decide (65536 ≤ allReads s.ports)) p (portEnqueue p
      { op := .wr, pline := r.pline, dline := r.dline, smask := 1, who := .scrub, cond := true
        bytes := placed (r.dline * 128) (slice r.snap 0 32) }
      (detect (partOfPort p) (report 0x38 none (locPort p) (some (r.pline * 128)) (r.dline * 128 + 2 ^ 63))
        (answerRead r 0 (countPort p 32
          (modPort p (fun q => { q with sent := dropFirst (fun x => decide (x = r)) q.sent }) s)))))) ) ∧
  (∀ (s : State) (p tag : Nat) (r : PReq) (id : Nat), Runs (portDom p) s →
    ((portAt s.ports p).sent.find? fun r => r.op = .wr && r.tag = tag) = some r → r.who = .record id →
    exec (.portWriteAck p tag) s = .next (pump p (settleTags
      (modPort p (fun q => { q with sent := dropFirst (fun x => decide (x = r)) q.sent }) s)))) ∧
  (∀ (s : State) (p tag hpa : Nat) (r : PReq), Runs (portDom p) s →
    ((portAt s.ports p).sent.find? fun r => r.op = .wr && r.tag = tag) = some r → r.who = .hostWrite hpa →
    inHostOrder (portAt s.ports p) r = true →
    exec (.portWriteAck p tag) s = .next (pump p (emit (.memCmp hpa)
      (modPort p (fun q => { q with sent := dropFirst (fun x => decide (x = r)) q.sent }) s)))) ∧
  (∀ (s : State) (p : Nat), Runs (portDom p) s → ((portAt s.ports p).sent.any fun r => r.op = .sre) = true →
    exec (.portSreAck p) s = .next (pump p
      (modPort p (fun q => { q with sent := q.sent.filter fun r => r.op ≠ .sre, selfRefresh := true }) s))) ∧
  (∀ (s : State) (p : Nat), Runs (portDom p) s → ((portAt s.ports p).sent.any fun r => r.op = .srx) = true →
    exec (.portSrxAck p) s = .next (pump p
      (modPort p (fun q => { q with sent := q.sent.filter fun r => r.op ≠ .srx, selfRefresh := false }) s))) ∧
  (∀ (s : State) (p : Nat) (r : PReq) (l : List PReq), Runs (portDom p) s → (portAt s.ports p).sent = r :: l →
    overdue s.devtime r = true → (portAt s.ports p).lost = false →
    exec (.portLost p) s = .next (answerAll p (modPort p (fun q => { q with lost := true })
      (detect (partOfPort p) { report 0x3A none (locPort p) none (opCode r.op + r.tag * 2 ^ 3 + r.pline * 2 ^ 32) with
        owner := some (lossKey p) } s)))) ∧
  (∀ (s : State) (p cap : Nat) (r : PReq) (l : List PReq), Runs (portDom p) s → (portAt s.ports p).sent = r :: l →
    r.op = .trn false →
    let go (q : Port) : Port := { q with
      sent := q.sent.filter fun r => r.op ≠ .trn false && r.op ≠ .sre
      selfRefresh := false
      ready := true
      lost := false
      cap := cap }
    let t := modPort p go s
    exec (.portReady p cap) s = .next (pump p { t with mem := { t.mem with capTrained := fset 0 s.mem.capTrained p cap } })) ∧
  (∀ s : State, s.pwr.porstLow = false → 650000000 ≤ since s.devtime s.pwr.bootAt → s.mem.mapped = false →
    exec .portAbsent s = .next (mapMemory s)) ∧
  (∀ (s : State) (p : Nat), Runs (portDom p) s → bit (rget s 0xB0020) 31 = true → s.mem.present p = true →
    (portAt s.ports p).selfRefresh = false → (((portAt s.ports p).queue ++ (portAt s.ports p).sent).any isCtl) = false →
    portDead s.mem s.ports p = false → portLines p (portAt s.ports p).cap ≠ 0 →
    let q := portAt s.ports p
    let n := portLines p q.cap
    let line := q.scrubLine % n
    ∃ d, exec (.scrubRead p) s = .next (portEnqueue p
      { op := .scr, pline := line, dline := d, smask := 0xF#4, who := .scrub }
      (modPort p (fun q => { q with
        scrubLine := (line + 1) % n
        passes := if line + 1 = n then q.passes + 1 else q.passes }) s)) ∧
      (d = noLine ∨ s.mem.port (d * 128) = some (p, line)))

/-- CXL.cache (R379 to R381, R289): a snoop of a line without copies in L1s and without a transaction is answered at once, in the
safe state as one that misses; a response ends its request, fills the half read, and lets a held request out; a request unanswered
for 50 ms ends with a record of source 0x41. -/
def Obligations.HostSnoopsAndResponses : Prop :=
  (∀ (s : State) (pa : Nat), Runs .hif s → s.hif.linkUp = true → s.flt.safe = false →
    s.pwr.pllOff.getLsbD (partOfSlice (lineHome (hostLine + pa / 128))) = false → txnOn s (hostLine + pa / 128) = none →
    others s (hostLine + pa / 128) noCopy = [] →
    exec (.snpData pa) s = .next (answerHost .data pa s) ∧ exec (.snpInv pa) s = .next (answerHost .inv pa s)
      ∧ exec (.snpCur pa) s = .next (answerHost .cur pa s)) ∧
  (∀ (s : State) (pa : Nat), Runs .hif s → s.hif.linkUp = true → s.flt.safe = true →
    exec (.snpData pa) s = .next (emit (.h2dData pa none false) s) ∧ exec (.snpInv pa) s = .next (emit (.h2dData pa none false) s)
      ∧ exec (.snpCur pa) s = .next (emit (.h2dData pa none false) s)) ∧
  (∀ (s : State) (pa : Nat) (l : DcLine), ((s.dc.slice (lineHome (hostLine + pa / 128))).find (hostLine + pa / 128)) = some l →
    pa / 64 % 2 = 0 → l.h0 = .M → l.h1 ≠ .I → l.line = hostLine + pa / 128 →
    answerHost .data pa s = emit (.h2dData pa (some (slice l.data 0 64)) (l.halfBad 0))
      (modSlice (lineHome (hostLine + pa / 128)) (fun sl => sl.put { l with h0 := .S }) s)) ∧
  (∀ (s : State) (tag : Nat) (data : Bytes) (grant : HostState) (r : D2h), Runs .hif s →
    (s.hif.d2h.find? fun r => r.tag = tag) = some r → r.op = .rdShared ∨ r.op = .rdOwn → s.hif.held = [] →
    exec (.d2hResponse tag data grant) s = .next (pumpHeld
      ((fillHalf r.pa data grant { s with hif := { s.hif with d2h := s.hif.d2h.filter fun r => r.tag ≠ tag } }).hif.held.length + 1)
      (fillHalf r.pa data grant { s with hif := { s.hif with d2h := s.hif.d2h.filter fun r => r.tag ≠ tag } }))) ∧
  (∀ (s : State) (tag : Nat) (data : Bytes) (grant : HostState) (r : D2h), Runs .hif s →
    (s.hif.d2h.find? fun r => r.tag = tag) = some r → r.op = .dirtyEvict → s.hif.held = [] →
    exec (.d2hResponse tag data grant) s = .next { s with hif := { s.hif with d2h := s.hif.d2h.filter fun r => r.tag ≠ tag } }) ∧
  (∀ (s : State) (tag : Nat) (r : D2h), Runs .hif s →
    (s.hif.d2h.find? fun r => r.tag = tag && 50000000 ≤ since s.devtime r.since) = some r → r.op = .dirtyEvict → r.who = .none →
    s.hif.held = [] →
    exec (.d2hTimeout tag) s = .next (detect 8 (report 0x41 none locHif (some r.pa) 10)
      { s with hif := { s.hif with d2h := s.hif.d2h.filter fun r => r.tag ≠ tag } }))

/-- CXL.mem (R376, R377, R444): a read of committed HVDM is a port read of its half line, one outside it returns all ones with
poison and is recorded with source 0x40; a write of the same is sent to the port or completes with the record; a speculative read
is dropped; an invalidation is completed with no action; a decoder commits when it is one-way, lawful and of the window's size. -/
def Obligations.HostMemoryRequests : Prop :=
  (∀ (s : State) (hpa a p line : Nat), Runs .hif s → s.hif.linkUp = true → s.flt.safe = false →
    hvdmOf s (hpa / 64 * 64) = some a → s.mem.port a = some (p, line) → portDead s.mem s.ports p = false →
    let r : PReq := { op := .rd, pline := line, dline := a / 128, smask := if a / 64 % 2 = 0 then 3 else 12,
                      crit := if a / 64 % 2 = 0 then 0 else 2, who := .hostRead (hpa / 64 * 64) }
    exec (.memRd hpa) s = .next (portEnqueue p r s) ∧ exec (.memRdData hpa) s = .next (portEnqueue p r s)) ∧
  (∀ (s : State) (hpa : Nat), Runs .hif s → s.hif.linkUp = true → s.flt.safe = false → hvdmOf s (hpa / 64 * 64) = none →
    let t := emit (.memData hpa (List.replicate 64 0xFF#8) true) (detect 8 (report 0x40 none locHif (some hpa) 0) s)
    exec (.memRd hpa) s = .next t ∧ exec (.memRdData hpa) s = .next t) ∧
  (∀ (s : State) (hpa a : Nat) (data : Bytes) (bad : Bool), Runs .hif s → s.hif.linkUp = true → s.flt.safe = false →
    hvdmOf s (hpa / 64 * 64) = some a →
    exec (.memWr hpa data bad) s = .next (portWrite (.hostWrite (hpa / 64 * 64)) (a / 128)
      ((placed 0 (slice data 0 64)).map fun b => (a + b.1, b.2))
      (if bad then BitVec.ofNat 4 (((List.range 4).filter fun k => ((placed 0 (slice data 0 64)).map fun b => (a + b.1, b.2)).any
        fun b => b.1 / 32 % 4 = k).foldl (fun x k => x + 2 ^ k) 0) else 0) (dropRet (a / 128) s))) ∧
  (∀ (s : State) (hpa a : Nat) (data : Masked), Runs .hif s → s.hif.linkUp = true → s.flt.safe = false →
    hvdmOf s (hpa / 64 * 64) = some a → placedMasked 0 (data.take 64) ≠ [] →
    exec (.memWrPtl hpa data false) s = .next (portWrite (.hostWrite (hpa / 64 * 64)) (a / 128)
      ((placedMasked 0 (data.take 64)).map fun b => (a + b.1, b.2)) 0 (dropRet (a / 128) s))) ∧
  (∀ (s : State) (hpa : Nat) (data : Bytes) (m : Masked) (bad : Bool), Runs .hif s → s.hif.linkUp = true → s.flt.safe = false →
    hvdmOf s (hpa / 64 * 64) = none →
    let t := emit (.memCmp hpa) (detect 8 (report 0x40 none locHif (some hpa) 0) s)
    exec (.memWr hpa data bad) s = .next t ∧ exec (.memWrPtl hpa m bad) s = .next t) ∧
  (∀ (s : State) (hpa : Nat), Runs .hif s → exec (.memSpecRd hpa) s = .next s) ∧
  (∀ (s : State) (hpa : Nat), Runs .hif s → s.hif.linkUp = true →
    exec (.memInv hpa) s = .next (emit (.memCmp hpa) s) ∧ exec (.memInvNt hpa) s = .next (emit (.memCmp hpa) s)) ∧
  (∀ (s : State) (k base size : Nat), Runs .hif s → k < 2 → s.mem.lock = true → hvdmSize s.mem k ≠ 0 → size = hvdmSize s.mem k →
    exec (.hdmDecoderCommit k base size true true) s = .next { s with hif := { s.hif with
      hdm := fset {} s.hif.hdm k { base := base, size := size, committed := true } } }) ∧
  (∀ (s : State) (k base size : Nat) (oneWay lawful : Bool), Runs .hif s → k < 2 → (oneWay && lawful) = false →
    exec (.hdmDecoderCommit k base size oneWay lawful) s = .next { s with hif := { s.hif with
      hdm := fset {} s.hif.hdm k { base := base, size := size, error := true } } })

/-- The link (R366, R370 to R372, R383, R385, R387, R388, R397, R398, R489): link-up takes the format, one of PCIe alone leaves
the link unused; an unmasked vector is sent; Bus Master Enable lets out what was held; an idle link asks for L1, a quiet L0p
window for half width; a failed IDE check makes the stream insecure; the link controller's state and answers are taken. -/
def Obligations.LinkEvents : Prop :=
  (∀ (s : State) (fmt : BitVec 2), Runs .hif s → s.hif.linkHold = false → s.hif.linkUp = false → fmt ≠ 3#2 →
    exec (.linkUp fmt) s = .next { s with hif := { s.hif with
      linkUp := true
      fmt := fmt
      cfgFrom := if s.hif.cfgLink then s.devtime else s.hif.cfgFrom
      cfgLink := false } }) ∧
  (∀ s : State, Runs .hif s → s.hif.linkHold = false → s.hif.linkUp = false →
    exec (.linkUp 3#2) s = .next { s with hif := { s.hif with linkHold := true } }) ∧
  (∀ (s : State) (v : Nat), Runs .hif s → v < 4096 → fget false s.hif.pba v = false →
    exec (.msixUnmask v) s = .next { s with hif := { s.hif with unmasked := fset false s.hif.unmasked v true } }) ∧
  (∀ (s : State) (v : Nat), Runs .hif s → v < 4096 → fget false s.hif.pba v = true →
    vecMasked { s.hif with unmasked := fset false s.hif.unmasked v true } v = false → s.hif.msixEn = true →
    exec (.msixUnmask v) s = .next (emitMem (.msix v) { s with hif := { s.hif with
      unmasked := fset false s.hif.unmasked v true
      pba := fset false s.hif.pba v false } })) ∧
  (∀ (s : State) (v : W32), CtlOpen 0xE0004 s → bit v 0 = true →
    exec (.hifIntxPendClear v 0xF#4) s = .next (deassertIntx { s with hif := { s.hif with intxPend := false } })) ∧
  (∀ s : State, Runs .hif s → s.hif.cfgReady = true → s.hif.flr = false →
    exec .busMasterEnableSet s = .next (releaseHeld { s with hif := { s.hif with bme := true } })) ∧
  (∀ s : State, Runs .hif s → linkIdle s = true → s.hif.linkUp = true →
    exec .l1IdleExpiry s = .next { s with hif := { s.hif with l1Req := true } }) ∧
  (∀ (s : State) (tx rx cap w : Nat), Runs .hif s → s.hif.fmt ≠ 0#2 → bit (rget s 0xE0000) 30 = true → s.hif.l0pOn = true →
    4 * tx < cap → 4 * rx < cap → w ≤ 16 →
    exec (.l0pWindowEnd tx rx cap w) s = .next { s with hif := { s.hif with l0pReq := true } }) ∧
  (∀ (s : State) (tx rx cap w : Nat), Runs .hif s → s.hif.fmt ≠ 0#2 → (cap < 2 * tx ∨ cap < 2 * rx ∨ 16 < w) →
    exec (.l0pWindowEnd tx rx cap w) s = .next { s with hif := { s.hif with l0pReq := false } }) ∧
  (∀ (s : State) (n : Nat), Runs .hif s → n < 3 → exec (.ideCheckFail n) s = .next { s with hif := { s.hif with
      ideInsecure := fset false s.hif.ideInsecure n true
      aer := s.hif.aer ++ [.ideCheckFailed] } }) ∧
  (∀ s : State, Runs .hif s → exec (.ideCheckFail 3) s = .next { s with hif := { s.hif with
      ideInsecure := fset false s.hif.ideInsecure 3 true } }) ∧
  (∀ (s : State) (k : DoeKind) (b : Bytes), Runs .hif s → exec (.doeRequest k b) s = .next (emit (.doe k b) s)) ∧
  (∀ s : State, Runs .hif s → s.hif.cfgLink = false → 80000000 ≤ since s.devtime s.hif.cfgFrom →
    exec .configReady s = .next { s with hif := { s.hif with cfgReady := true } }) ∧
  (∀ (s : State) (v : BitVec 2), Runs .hif s → v ≠ 3#2 →
    exec (.hxPmStateChange v) s = .next { s with hif := { s.hif with pmState := v } }) ∧
  (∀ (s : State) (a : BitVec 12) (data : W32), Runs .hif s → s.hif.csr = some (a, false) →
    exec (.hxCsrAck data) s = .next (emit (.cfgData a.toNat data.toNat) { s with hif := { s.hif with csr := none } })) ∧
  (∀ (s : State) (r : CfgReq), Runs .hif s → s.hif.linkUp = true → s.hif.cfgReady = false →
    exec (.configRequest r) s = .next (emit .cfgRetry s)) ∧
  (∀ s : State, Runs .hif s → s.hif.linkUp = true → s.hif.cfgReady = true →
    exec (.configRequest (.read 0)) s = .next (emit (.cfgData 0 (s.hif.ids.getD 0 0xFFFE + s.hif.ids.getD 1 0 * 2 ^ 16)) s)) ∧
  (∀ (s : State) (l1 l0p : Bool), Runs .hif s → s.hif.linkUp = true → s.hif.cfgReady = true →
    exec (.configRequest (.linkControl l1 l0p)) s = .next { s with hif := { s.hif with aspmL1 := l1, l0pOn := l0p } }) ∧
  (∀ (s : State) (a : BitVec 12), Runs .hif s → s.hif.linkUp = true → s.hif.cfgReady = true → s.hif.csr = none →
    exec (.configRequest (.linkRead a)) s =
      .next { s with out := .csr a false 0#32 :: s.out, hif := { s.hif with csr := some (a, false) } }) ∧
  (∀ (s : State) (mse bme : Bool), Runs .hif s → s.hif.linkUp = true → s.hif.cfgReady = true → s.hif.flr = false →
    exec (.configRequest (.command mse bme true)) s =
      .next (setBme bme (deassertIntx { s with hif := { s.hif with mse := mse, intxDis := true } })))

/-- Resets (R451 to R457, R459, R445): a request with GO starts the rows of its kind, all but the last at once (log 30);
completion does the last row: the context gets a new generation, the cluster its registers, the block its admission and, out of
the safe state, `ERR_N`; a block reset needs its key; a reset that overruns its bound starts the next rung. -/
def Obligations.ResetsTakeTheirRows : Prop :=
  (∀ (s : State) (v : W32), CtlOpen 0x110100 s → bit v 31 = true → s.flt.safe = false → (s.fe.ctxOf (fld v 11 0)).state = 1#2 →
    let k := fld v 11 0
    let a := modCtx k (fun x => { x with state := 2 }) (startRun .context k true false (rset 0x110100 (v &&& 0xFFF#32) s))
    let b := stopCommands (fun c => decide (c.ctx = k)) 0x21 (stopLaunches (fun l => decide (l.ctx = k)) 0x21 a)
    exec (.rstCtx v 0xF#4) s = .next (dropCtxXlat k (abandonPrgs b))) ∧
  (∀ (s : State) (v : W32), CtlOpen 0x110104 s → bit v 31 = true → s.flt.safe = false → fld v 6 0 < 72 →
    rstBusy s .cluster = false → clusterInReset s (fld v 6 0) = false →
    exec (.rstClu v 0xF#4) s = .next (clusterTear (fld v 6 0) (startRun .cluster (fld v 6 0) true false
      (rset 0x110104 (v &&& 0x7F#32) s)))) ∧
  (∀ (s : State) (v : W32), CtlOpen 0x110108 s → bit v 31 = true → s.flt.safe = false →
    rstBusy s .partition = false → partInReset s (fld v 2 0) = false →
    exec (.rstPart v 0xF#4) s = .next (partitionTear (fld v 2 0) (startRun .partition (fld v 2 0) true false
      (rset 0x110108 (v &&& 7#32) s)))) ∧
  (∀ (s : State) (v : W32), CtlOpen 0x11010C s → bit v 31 = true → fld v 15 0 = 0xB10C → s.flt.safe = false →
    resetting s .block 0 = false →
    let a := loseL1s (discardCommands { s with fe := { s.fe with stopped := true } })
    let b := if a.rook.qstate = 1 then { a with rook := { a.rook with qstate := 2 } } else a
    let c := if b.hif.linkUp then evictHost b else dropHost b
    let d := if c.hif.linkUp then emit .linkDownSignal c else c
    exec (.rstBlk v 0xF#4) s = .next (blockTail true false
      (retainSteps (if d.pwr.retain then some 3 else none) { d with upd := {} }))) ∧
  (∀ (s : State) (v : W32), CtlOpen 0x11010C s → bit v 31 = true → fld v 15 0 = 0xB10C → s.flt.safe = true →
    resetting s .block 0 = false → s.hif.linkUp = true →
    exec (.rstBlk v 0xF#4) s = .next (blockTail true true (emit .linkDownSignal s))) ∧
  (∀ (s : State) (v : W32), CtlOpen 0x11010C s → (bit v 31 = false ∨ fld v 15 0 ≠ 0xB10C) →
    exec (.rstBlk v 0xF#4) s = .next s) ∧
  (∀ (s : State) (k : Nat), Runs .fab s → resetting s .context k = true → s.fe.cmds = [] →
    exec (.resetComplete .context k) s = .next (endRun .context k (rset (0x61000 + 4 * k) 0
      (modCtx k (fun x => { x with state := 1, gen := x.gen + 1 }) (dropCtxXlat k s))))) ∧
  (∀ (s : State) (k : Nat), Runs .fab s → resetting s .cluster k = true → partInReset s (partOfCluster k) = false →
    clusterWrites s k = false →
    exec (.resetComplete .cluster k) s = .next (endRun .cluster k (clusterRegs k s))) ∧
  (∀ (s : State) (p : Nat), Runs .fab s → resetting s .partition p = true → partWrites s p = false →
    exec (.resetComplete .partition p) s = .next (endRun .partition p (endInner p
      ((List.range 8).foldl (fun s i => clusterRegs (8 * p + i) s) { s with fe := { s.fe with caps := fset {} s.fe.caps p {} } })))) ∧
  (∀ s : State, Runs .fab s → resetting s .block 0 = true → s.ports.any (fun e => training e.2) = false →
    s.rst.any (fun r => decide (r.kind = .block) && r.fromSafe) = true →
    let a := catalogueSelectE { s with fe := { s.fe with stopped := decide (s.rook.qstate ≠ 0) } }
    exec (.resetComplete .block 0) s = .next { a with rst := [], flt := { a.flt with safe := false, errn := false } }) ∧
  (∀ s : State, Runs .fab s → resetting s .block 0 = true → s.ports.any (fun e => training e.2) = false →
    s.rst.any (fun r => decide (r.kind = .block) && r.fromSafe) = false →
    let a := catalogueSelectE { s with fe := { s.fe with stopped := decide (s.rook.qstate ≠ 0) } }
    exec (.resetComplete .block 0) s = .next { a with rst := [] }) ∧
  (∀ (s : State) (kind next : ResetKind) (k n : Nat) (r : ResetRun), s.pwr.porstLow = false →
    (s.rst.find? fun r => r.kind = kind && r.index = k) = some r → resetBound kind ≤ since s.devtime r.start →
    nextRung kind k next n = true →
    let ctx : Option Nat := if kind = .context then some k else none
    let cls := rungClass kind next
    let i : Intake := { buf := 8, isOver := false, rep := report 0x14 ctx (rungLoc kind k) none (rungLevel kind)
                        gen := genOf s ctx, time := s.devtime, react := classReact cls }
    let a := { s with rst := s.rst.map fun x => if x = r then { x with start := s.devtime } else x }
    let t := a.flt.accept cls (classReact cls) i
    exec (.resetOverrun kind k next n) s =
      .next (startNext kind next n (applyFlags (classReact cls) t.seq (countFault t cls { a with flt := t.flt }))))

/-- The function level reset and what ends the link (R386, R390, R391, R394, R395, R421): the FLR ends every command, launch and
batch and evicts the host's halves; its completion clears FLR, the enables of memory accesses and of bus mastering, the access
error register, staged members and updates and keeps memory and the fault collector; D3hot does the FLR and leaves D0; a
link-down in the quiesced state only loses the link, another does the FLR's work; a hot reset is an assertion and a deassertion
of `PERST_N`; Viral from the host is a report of source 0x43 and the safe state asserts `ERR_N`. -/
def Obligations.FunctionLevelResets : Prop :=
  (∀ s : State, Runs .hif s → s.hif.cfgReady = true → s.hif.linkUp = true → s.hif.flr = false → s.flt.safe = false →
    (flrEndWork { s with hif := { s.hif with flr := true } }).hif.bme = true →
    exec .flr s = .next (evictHost (flrEndWork { s with hif := { s.hif with flr := true } }))) ∧
  (∀ s : State, Runs .hif s → s.hif.flr = true → flrWrites s = false → ∃ t, exec .flrComplete s = .next t ∧ t.hif.flr = false ∧ t.hif.bme = false
    ∧ t.hif.mse = false ∧ t.hif.linkUp = (dropRecords (fun _ => true) s).hif.linkUp ∧ t.acc = {} ∧ t.mng = [] ∧ t.upd = {}
    ∧ t.fe.cmds = [] ∧ t.mem = (dropRecords (fun _ => true) s).mem ∧ t.flt = (dropRecords (fun _ => true) s).flt) ∧
  (∀ s : State, Runs .hif s → s.hif.cfgReady = true → s.hif.linkUp = true → s.hif.d0 = true →
    exec .d3hotEntry s = .next { flrE s with hif := { (flrE s).hif with d0 := false } }) ∧
  (∀ s : State, Runs .hif s → s.hif.linkUp = true → s.rook.qstate = 3#2 →
    exec .linkDown s = .next { s with hif := { s.hif with linkUp := false } }) ∧
  (∀ s : State, Runs .hif s → s.hif.linkUp = true → s.rook.qstate ≠ 3#2 → s.flt.safe = false → s.hif.flr = false →
    let a : State := { s with hif := { s.hif with
      linkUp := false
      cfgReady := false
      cfgLink := true
      l1Req := false
      l0pReq := false } }
    let b := dropHost (dropRecords (fun _ => true) (dropSnoops (flrEndWork a)))
    exec .linkDown s = .next { b with
      fe := { b.fe with tags := [] }
      hif := { b.hif with flr := true, d2h := [], held := [], heldOut := [], csr := none } }) ∧
  (∀ s : State, Runs .hif s → s.hif.linkUp = true → exec .hotReset s = .next (perstDeassertE (perstAssertE s))) ∧
  (∀ s : State, Runs .hif s → s.hif.linkUp = true → exec .viral s = .next (collect 6
    { buf := 8, isOver := false, rep := report 0x43 none locHif none 0, gen := 0, time := s.devtime, react := reactOf s.flt 0x43 } s)) ∧
  (∀ s : State, s.flt.safe = false → (enterSafe s).flt.safe = true ∧ (enterSafe s).flt.errn = true ∧ (enterSafe s).rst = []
    ∧ (enterSafe s).hif.held = [] ∧ (enterSafe s).hif.heldOut = [])

/-- The fault collector (R425 to R441, R446, R448, R450): a report that waits is taken with its reaction; with room in the queue
a new record takes the next SEQ, the first fatal one the fatal slot; with no room and no pending record of its signature it is
lost and counted; a record has 64 bytes; the queue, reaction, pin, checker and injection registers; a test of a checker ends
after 10 ms; an end overrun is reported. -/
def Obligations.FaultCollector : Prop :=
  (∀ (s : State) (buf : Nat) (i : Intake), s.pwr.porstLow = false → (s.flt.intake.find? fun i => i.buf = buf) = some i →
    exec (.faultReport buf none) s = .next (collect (reportClass i.rep 0) i
      { s with flt := { s.flt with intake := dropFirst (fun x => decide (x.buf = buf)) s.flt.intake } })) ∧
  (∀ (s : State) (buf : Nat) (r : Report), s.pwr.porstLow = false → hwSource r.source = true → r.source = 0x42 →
    s.flt.fires r.loc = false →
    exec (.faultReport buf (some r)) s = .next (collect (reportClass r 0)
      { buf := buf, isOver := false, rep := r, gen := genOf s r.ctx, time := s.devtime, react := reactOf s.flt r.source } s)) ∧
  (∀ (f : Flt) (cls : Nat) (re : React) (i : Intake), cls ≠ 6 → i.isOver = false → f.pend < 256 →
    let t := f.accept cls re i
    t.seq = nextSeq f.seq ∧ t.queued = true ∧ t.lost = false ∧
      t.flt = f.push (newRec (nextSeq f.seq) cls re i)) ∧
  (∀ (f : Flt) (re : React) (i : Intake), f.fatal = none →
    (f.accept 6 re i).flt = { f with fatal := some (newRec (nextSeq f.seq) 6 re i), seq := nextSeq f.seq }) ∧
  (∀ (f : Flt) (cls : Nat) (re : React) (i : Intake), cls ≠ 6 → 256 ≤ f.pend →
    (f.recs.all fun r => !(r.pending && r.sameAs i.rep)) = true →
    (f.accept cls re i).flt = { f with ovf := sat31 f.ovf 1, lost := true } ∧ (f.accept cls re i).seq = 0) ∧
  (∀ n, 1 ≤ nextSeq n ∧ (n ≤ 0x7FFFFFFF → nextSeq n ≤ 0x7FFFFFFF)) ∧
  (∀ r : Rec, r.bytes.length = 64) ∧
  (∀ (s : State) (v : W32), CtlOpen 0x11000C s →
    exec (.fltQrel v 0xF#4) s = .next { s with flt := { s.flt with recs := releaseRecs (fld v 8 0) s.flt.recs } }) ∧
  (∀ (n : Nat) (r : Rec) (l : List Rec), r.pending = true →
    releaseRecs (n + 1) (r :: l) = { r with pending := false } :: releaseRecs n l) ∧
  (∀ (s : State) (v : W32) (c : Nat), CtlOpen 0x110018 s → sourceClass (fld (rget s 0x110014) 7 0) = some c → c ≠ 6 →
    fld v 10 8 < 6 → leastReset c ≤ fld v 10 8 →
    exec (.fltReactWrite v 0xF#4) s = .next { s with flt := { s.flt with
      react := fset (reactDefault (fld (rget s 0x110014) 7 0)) s.flt.react (fld (rget s 0x110014) 7 0)
        { irq := bit v 0, nmi := bit v 1, errn := bit v 2, reset := fld v 10 8 } } }) ∧
  (∀ (s : State) (v : W32), CtlOpen 0x110020 s → s.flt.safe = false → bit v 0 = true →
    let a := rset 0x110020 (v &&& 2#32) s
    exec (.errnClear v 0xF#4) s = .next { a with flt := { a.flt with errn := false } }) ∧
  (∀ (s : State) (v : W32), CtlOpen 0x110024 s → bit v 31 = true → s.flt.chk = none → s.flt.safe = false →
    checkerOk (fld v 3 0) (fld v 15 8) = true →
    let a := rset 0x110024 (v &&& 0xFF0F#32) s
    exec (.fltChkreq v 0xF#4) s = .next { a with flt := { a.flt with
      chk := some { checker := fld v 3 0, unit := fld v 15 8, since := s.devtime } } }) ∧
  (∀ (s : State) (t : ChkTest), s.pwr.porstLow = false → s.flt.chk = some t → 10000000 ≤ since s.devtime t.since →
    exec .checkerTestTimeout s = .next { s with flt := { s.flt with chk := none, chkResult := 2 } }) ∧
  (∀ (s : State) (v : W32), CtlOpen 0x110028 s → s.pwr.ftest = true → bit v 31 = true → fld v 29 27 < 5 →
    let w := v &&& 0x38FFFF00#32
    let a := rset 0x110028 w s
    exec (.fltInj v 0xF#4) s = .next { a with flt := { a.flt with
      armed := some { kind := fld w 29 27, target := fld w 23 20, index := fld w 19 8 } } }) ∧
  (∀ (s : State) (v : W32), CtlOpen 0x110028 s → s.pwr.ftest = false → exec (.fltInj v 0xF#4) s = .next s) ∧
  (∀ (s : State) (u : Loc) (id sq ctx : Nat) (cid : W32), Runs .fab s →
    (s.fe.cmds.any fun c => c.id = id && c.phase ≠ .ready) = false →
    exec (.endOverrun u id sq ctx cid) s = .next (detect ((locPartOf u).getD 8)
      (report (endSource u) (some ctx) u none (cid.toNat + sq * 2 ^ 32)) s))

/-- Management commands of the mailboxes and the side-band (R412 to R415, R419 to R422, R432, R434, R458): with nothing in their
way each answers and has its effect. -/
def Obligations.ManagementCommands : Prop :=
  ∀ (s : State) (id : Nat) (j : Job),
  (Waiting s id 0x01 j → j.payload = [] → exec (.getInfo id) s = .next (answer id (0, 0, leBytes 4 Config.idVersion.toNat
    ++ leBytes 4 (mgtStat s.rook).toNat ++ leBytes 4 (mgtFwver s.rook).toNat) s)) ∧
  (Waiting s id 0x02 j → j.payload = [] → exec (.getHealth id) s = .next (answer id (0, 0, healthBytes s) s)) ∧
  (Waiting s id 0x03 j → j.payload.length = 4 → num j.payload 2 2 ≤ 60 → exec (.faultRead id) s = .next (answer id
    (0, 0, (List.range (num j.payload 2 2)).flatMap fun i => recAt s.flt (num j.payload 0 2 + i)) s)) ∧
  (Waiting s id 0x04 j → j.payload.length = 24 → num j.payload 8 8 = 0 →
    exec (.faultRing id) s = .next (answer id (0, 0, []) { s with rook := { s.rook with fring := none } })) ∧
  (Waiting s id 0x04 j → j.payload.length = 24 → num j.payload 8 8 ≠ 0 → num j.payload 0 2 < 4096 → 4 ≤ num j.payload 2 1 →
    num j.payload 2 1 ≤ 12 → num j.payload 3 5 = 0 → num j.payload 8 8 % 4096 = 0 → num j.payload 0x10 8 % 8 = 0 →
    ctxEnabled s (num j.payload 0 2) = true →
    exec (.faultRing id) s = .next (answer id (0, 0, []) { s with rook := { s.rook with
      fring := some { ctx := num j.payload 0 2, log2n := num j.payload 2 1, base := num j.payload 8 8
                      tailAddr := num j.payload 0x10 8 } } })) ∧
  (Waiting s id 0x08 j → j.payload = [0#8] → s.rook.qstate = 0#2 →
    exec (.quiesceStart id) s = .next (answer id (0, 0, []) (startQuiesce (10000000 * fld (rget s 0xF0010) 15 0) s))) ∧
  (Waiting s id 0x08 j → j.payload = [1#8] → s.rook.qstate = 0#2 →
    exec (.quiesceNow id) s = .next (answer id (0, 0, []) (startQuiesce 0 s))) ∧
  (Waiting s id 0x08 j → j.payload = [1#8] → s.rook.qstate = 1#2 →
    exec (.quiesceNow id) s = .next (answer id (0, 0, []) { s with rook := { s.rook with qGrace := 0 } })) ∧
  (Waiting s id 0x08 j → j.payload = [2#8] → s.rook.qstate = 1#2 →
    exec (.quiesceCancel id) s = .next (answer id (0, 0, []) { s with rook := { s.rook with qstate := 0 } })) ∧
  (Waiting s id 0x08 j → j.payload = [2#8] → s.rook.qstate ≠ 1#2 →
    exec (.quiesceCancel id) s = .next (answer id (4, 0, []) s)) ∧
  (Waiting s id 0x08 j → j.payload = [3#8] → s.rook.qstate = 3#2 → s.flt.safe = false →
    exec (.quiesceExit id) s = .next (answer id (0, 0, [])
      (releaseHeld (wakeMemory { s with rook := { s.rook with qstate := 0 }, fe := { s.fe with stopped := false } })))) ∧
  (Waiting s id 0x09 j → j.payload = [1#8] →
    exec (.locate id) s = .next (answer id (0, 0, []) { s with rook := { s.rook with locate := true } })) ∧
  (Waiting s id 0x0A j → j.payload = [] →
    exec (.powerCycle id) s = .next (answer id (0, 0, []) { s with pwr := { s.pwr with pwrcyc := true } })) ∧
  (Waiting s id 0x14 j → cfgBlockBad j.payload = false → cfgBest s.rook = none →
    let b := j.payload.take 4 ++ leBytes 4 1 ++ slice j.payload 8 0x34
    exec (.cfgWrite id) s = .next (answer id (0, 0, []) { s with rook := flashWrite 0 (b ++ leBytes 4 (crc32c b)) s.rook })) ∧
  (Waiting s id 0x38 j → j.payload = [1#8] → (∀ tag eid, j.src = .sideband tag eid →
    exec (.eventEnable id) s = .next (answer id (0, 0, []) { s with rook := { s.rook with eventEid := some eid } }))) ∧
  (Waiting s id 0x38 j → j.payload = [0#8] →
    exec (.eventEnable id) s = .next (answer id (0, 0, []) { s with rook := { s.rook with eventEid := none } })) ∧
  (∀ op, Waiting s id op j → knownOp op = false → exec (.unknownMailboxOpcode id) s = .next (answer id (2, 0, []) s))

/-- Firmware update (R402, R404, R414): a session begins with the slot erased and takes data within its length; its end answers
0 for a valid image with none loaded and 7 for an image that is not valid; activation restarts the Rook; sixty seconds without
data end the session with the slot erased; the image load boots the valid slot with the higher SEQ or fails; the configuration
load takes the best copy; a missed heartbeat, with no restart before it, restarts the Rook and is reported. -/
def Obligations.FirmwareUpdateAndSupervision : Prop :=
  (∀ (s : State) (id : Nat) (j : Job), Waiting s id 0x10 j → j.payload.length = 8 → num j.payload 0 1 < 2 → num j.payload 1 3 = 0 →
    256 ≤ num j.payload 4 4 → num j.payload 4 4 ≤ 0x100000 → s.rook.session = none →
    (s.rook.loaded = false ∨ s.rook.slot ≠ num j.payload 0 1) →
    exec (.fwBegin id) s = .next (answer id (0, 0, []) (emit (.flashErase (num j.payload 0 1)) { s with rook := {
      flashErase (0x100000 * (num j.payload 0 1 + 1)) 0x100000 s.rook with
        session := some { owner := j.src, slot := num j.payload 0 1, len := num j.payload 4 4, last := s.devtime } } }))) ∧
  (∀ (s : State) (id : Nat) (j : Job) (x : FwSession), Waiting s id 0x11 j → s.rook.session = some x → x.owner = j.src →
    4 ≤ j.payload.length → j.payload.length ≤ 3840 → num j.payload 0 4 + (j.payload.length - 4) ≤ x.len →
    exec (.fwData id) s = .next (answer id (0, 0, []) { s with rook := {
      flashWrite (0x100000 * (x.slot + 1) + num j.payload 0 4) (j.payload.drop 4) s.rook with
        session := some { x with last := s.devtime } } })) ∧
  (∀ (s : State) (id : Nat) (j : Job) (x : FwSession), Waiting s id 0x12 j → s.rook.session = some x → x.owner = j.src →
    j.payload = [] → imageValid s.rook x.slot = true → s.rook.loaded = false →
    exec (.fwEnd id) s = .next (answer id (0, 0, []) { s with rook := { s.rook with session := none } })) ∧
  (∀ (s : State) (id : Nat) (j : Job) (x : FwSession), Waiting s id 0x12 j → s.rook.session = some x → x.owner = j.src →
    j.payload = [] → imageValid s.rook x.slot = false →
    exec (.fwEnd id) s = .next (answer id (7, 0, []) { s with rook := { s.rook with session := none } })) ∧
  (∀ (s : State) (id : Nat) (j : Job), Waiting s id 0x13 j → j.payload = [] → s.rook.session = none →
    exec (.fwActivate id) s = .next (answer id (0, 0, []) (setEvt 2 (restartRook j.id s)))) ∧
  (∀ (s : State) (x : FwSession), s.pwr.porstLow = false → s.rook.session = some x → 60000000000 ≤ since s.devtime x.last →
    exec .fwSessionTimeout s = .next (emit (.flashErase x.slot) { s with rook := {
      flashErase (0x100000 * (x.slot + 1)) 0x100000 s.rook with session := none } })) ∧
  (∀ s : State, Runs .mgt s → s.rook.state = 1 → bootSlot s.rook = none →
    exec .rookImageLoad s = .next { s with rook := { s.rook with state := 4, loaded := false, fwver := 0 } }) ∧
  (∀ (s : State) (k : Nat), Runs .mgt s → s.rook.state = 3 → bootSlot s.rook = some k →
    exec .rookImageLoad s = .next { s with rook := { s.rook with
      state := 2
      loaded := true
      slot := k
      imgSeq := imageSeq s.rook k
      sigChk := decide (s.rook.keyDigest ≠ 0)
      fwver := BitVec.ofNat 31 (num (flashBytes s.rook (0x100000 * (k + 1)) 256) 8 4)
      beat := s.devtime } }) ∧
  (∀ r : Rook, imageValid r 0 = true → imageValid r 1 = true →
    bootSlot r = some (if imageSeq r 0 < imageSeq r 1 then 1 else 0)) ∧
  (∀ s : State, Runs .mgt s → s.rook.state = 2 → cfgBest s.rook = none → s.mem.mapped = false →
    exec .configLoad s = .next { s with rook := { s.rook with cfgOk := false }, hif := { s.hif with ids := [] } }) ∧
  (∀ (s : State) (k : Nat), Runs .mgt s → s.rook.state = 2 → cfgBest s.rook = some k → s.mem.mapped = true → s.mem.lock = false →
    let b := cfgCopy s.rook k
    exec .configLoad s = .next (lockMap (num b 0x11 1 % 128) (BitVec.ofNat 32 (num b 0x14 4) &&& 0x07FF03FF#32)
      (BitVec.ofNat 32 (num b 0x18 4) &&& 0x07FF03FF#32)
      { s with
        rook := { s.rook with cfgOk := true }
        hif := { s.hif with ids := [num b 8 2, num b 0xA 2, num b 0xC 2, num b 0xE 2, num b 0x10 1] } })) ∧
  (∀ s : State, Runs .mgt s → s.rook.state = 2 → exec .rookHeartbeat s = .next { s with rook := { s.rook with beat := s.devtime } }) ∧
  (∀ s : State, Runs .mgt s → s.rook.state = 2 → 1000000000 ≤ since s.devtime s.rook.beat → s.rook.restartTimes = [] →
    let u := restartRook s.rook.nextJob s
    let n := min 0xFF (s.rook.restarts + 1)
    exec .heartbeatTimeout s = .next (setEvt 1 (detect 8 (report 0x48 none locRook none n)
      { u with rook := { u.rook with restarts := n, restartTimes := [s.devtime] } })))

/-- Retained tables and telemetry (R171, R423, R424, R433, R434): the list, the verification, the adoption and the discarding of
catalogued tables; the telemetry ring, its snapshot and its reading; a record's way into the fault ring. -/
def Obligations.RetainedTablesAndTelemetry : Prop :=
  (∀ (s : State) (id : Nat) (j : Job), Waiting s id 0x20 j → j.payload.length = 2 →
    exec (.tableList id) s = .next (answer id (tableListAns s (num j.payload 0 2)) s)) ∧
  (∀ (s : State) (id : Nat) (j : Job) (e : CatEntry), Waiting s id 0x21 j → j.payload.length = 2 →
    num j.payload 0 2 < Config.numTables → listed s (num j.payload 0 2) = some e → e.okA = true → e.okB = false →
    exec (.tableVerify id) s = .next (answer id (0, 0, [if entryDigest s e 0 = e.dgA then 0#8 else 1#8, 2#8])
      (recordNowhere e.table e.desc 0 s))) ∧
  (∀ (s : State) (id : Nat) (j : Job) (e : CatEntry), Waiting s id 0x22 j → j.payload.length = 2 →
    num j.payload 0 2 < Config.numTables → listed s (num j.payload 0 2) = some e → (tableOf s e.table).valid = false →
    commitRefused s.rat.com (tableOf s e.table) { e.desc with cfg := e.desc.cfg ||| 0x80000000#32 } = false →
    exec (.tableAdopt id) s = .next (answer id (0, 0, []) (adopt e s))) ∧
  (∀ (s : State) (e : CatEntry), e.okA = true → e.okB = false → (adopt e s).tbl.desc =
    fset {} s.tbl.desc e.table { e.desc with cfg := e.desc.cfg ||| 0x80000000#32 } ∧ (adopt e s).tbl.dig =
    fset {} (fset {} s.tbl.dig (digKey e.table 0) { st := .ok, val := e.dgA, cursor := 0 }) (digKey e.table 1)
      { st := .scanning, val := 0, cursor := 0 } ∧ (adopt e s).dram = s.dram) ∧
  (∀ (s : State) (id : Nat) (j : Job) (e : CatEntry) (c : Catalogue), Waiting s id 0x23 j → j.payload.length = 2 →
    num j.payload 0 2 < Config.numTables → listed s (num j.payload 0 2) = some e → s.ret.list = some c →
    exec (.tableDiscard id) s = .next (answer id (0, 0, []) { s with ret := { s.ret with
      list := some { c with entries := c.entries.filter fun x => x.table ≠ e.table } } })) ∧
  (∀ (s : State) (id : Nat) (j : Job), Waiting s id 0x30 j → j.payload.length = 16 → num j.payload 4 2 = 0 →
    exec (.telemRing id) s = .next (answer id (0, 0, []) { s with rook := { s.rook with telem := none } })) ∧
  (∀ (s : State) (id : Nat) (j : Job), Waiting s id 0x30 j → j.payload.length = 16 → num j.payload 4 2 ≠ 0 →
    num j.payload 0 2 < 4096 → 4 ≤ num j.payload 2 1 → num j.payload 2 1 ≤ 12 → num j.payload 3 1 = 0 → num j.payload 4 2 ≤ 10000 →
    num j.payload 6 2 = 0 → num j.payload 8 8 % 256 = 0 → ctxEnabled s (num j.payload 0 2) = true →
    exec (.telemRing id) s = .next (answer id (0, 0, []) { s with rook := { s.rook with telem := some {
      ctx := num j.payload 0 2, log2n := num j.payload 2 1, period := num j.payload 4 2, base := num j.payload 8 8 } } })) ∧
  (∀ (s : State) (id : Nat) (j : Job), Waiting s id 0x31 j → j.payload = [] → s.rook.latest ≠ [] →
    exec (.telemRead id) s = .next (answer id (0, 0, s.rook.latest) s)) ∧
  (∀ s : State, Runs .mgt s → s.rook.state = 2 → s.flt.safe = false → 100000000 ≤ since s.devtime s.rook.snapAt →
    s.rook.telem = none →
    let k := takePress s
    let b := telemBody s { k with seq := k.seq + 1 }
    exec .telemetrySnapshot s = .next { s with rook := { s.rook with
      snapAt := s.devtime
      counts := { k with powerAcc := 0, powerN := 0 }
      latest := b ++ leBytes 4 (crc32c b) } }) ∧
  (∀ (s : State) (r : FaultRing) (x : Rec), Runs .mgt s → s.rook.fring = some r → s.rook.state = 2 → s.flt.safe = false →
    whoOut s (.ring false) = false → quiesced s = false → r.mirror = none → nextMirror s.flt = some x →
    exec .faultRecordMirror s = .next (ringWrite false r.ctx (r.base + 64 * (x.seq % 2 ^ r.log2n)) s fun pa =>
      let u := writePhys (.ring false) none pa x.bytes s
      { u with rook := { u.rook with fring := some { r with mirror := some x.seq } } })) ∧
  (∀ (s : State) (r : FaultRing) (q : Nat), Runs .mgt s → s.rook.fring = some r → s.rook.state = 2 → s.flt.safe = false →
    whoOut s (.ring false) = false → quiesced s = false → r.mirror = some q →
    exec .faultRecordMirror s = .next (ringWrite false r.ctx r.tailAddr s fun pa =>
      let u := writePhys (.ring false) none pa (leBytes 8 q) s
      { u with
        rook := { u.rook with fring := some { r with mirror := none } }
        flt := releaseSeq q u.flt }))

/-- Quiesce, mailboxes and side-band (R297, R298, R409, R416 to R421): the service request starts or cancels a quiesce; the grace
period's end stops admission; the drain's last step quiesces the block; an answered command posts its response at its mailbox or
goes out on the side-band; a request of the side-band is queued; the control messages and address assignments; the lock of the
memory map. -/
def Obligations.QuiesceMailboxAndSideband : Prop :=
  (∀ s : State, s.pwr.porstLow = false → s.rook.qstate = 0#2 →
    exec .svcReqPress s = .next (startQuiesce (10000000 * fld (rget s 0xF0010) 15 0) s)) ∧
  (∀ s : State, s.pwr.porstLow = false → s.rook.qstate = 1#2 →
    exec .svcReqPress s = .next { s with rook := { s.rook with qstate := 0 } }) ∧
  (∀ s : State, s.pwr.porstLow = false → s.rook.qstate = 1#2 → s.rook.qGrace ≤ since s.devtime s.rook.qStart → s.mem.lock = true →
    exec .graceExpiry s = .next { s with rook := { s.rook with qstate := 2 }, fe := { s.fe with stopped := true } }) ∧
  (∀ s : State, Runs .fab s → s.rook.qstate = 2#2 → s.flt.safe = false → s.fe.cmds = [] → s.fe.tags = [] → s.upd.held = [] →
    resetting s .block 0 = false →
    let u := retainSteps (some 2) (evictHost (drainBatches s))
    exec .quiesceDrainDone s = .next { u with rook := { u.rook with qstate := 3 } }) ∧
  (∀ s : State, Runs .fab s → s.rook.qstate = 2#2 → s.flt.safe = false → (s.fe.cmds.any fun c => c.phase ≠ .ready) = true →
    exec .quiesceDrainDone s = .next (stopCommands (fun _ => true) 0x21 (abandonPrgs (stopLaunches (fun _ => true) 0x21 s)))) ∧
  (∀ (s : State) (id m : Nat) (j : Job) (a : Nat × Nat × Bytes), s.pwr.porstLow = false →
    (s.rook.jobs.find? fun j => j.id = id) = some j → j.ans = some a → j.src = .mailbox m → up s .hif = true →
    exec (.mailboxResponse id) s =
      .next (postMailbox m a { s with rook := { s.rook with jobs := s.rook.jobs.filter fun k => k.id ≠ id } })) ∧
  (∀ (s : State) (id tag eid : Nat) (j : Job) (a : Nat × Nat × Bytes), s.pwr.porstLow = false →
    (s.rook.jobs.find? fun j => j.id = id) = some j → j.ans = some a → j.src = .sideband tag eid →
    exec (.mailboxResponse id) s = .next (emit .i3cIbi (emit (.sideband tag eid
      (sbMessage s.hif.ids j.opcode 1 a.1 a.2.1 a.2.2))
      { s with rook := { s.rook with jobs := s.rook.jobs.filter fun k => k.id ≠ id } }))) ∧
  (∀ (s : State) (tag eid : Nat) (msg : Bytes), s.pwr.porstLow = false → sbReady s = true → 12 ≤ msg.length → msg.length ≤ 3852 →
    num msg 0 1 = 0x7E → num msg 1 1 * 256 + num msg 2 1 = s.hif.ids.getD 0 0xFFFE → num msg 3 1 = 1 → num msg 5 1 = 0 →
    num msg 6 2 = 0 → num msg 8 4 = 0 → (s.rook.jobs.filter fromSideband).length < 4 →
    exec (.sidebandRequest tag eid msg) s = .next { s with rook := { s.rook with
      nextJob := s.rook.nextJob + 1
      jobs := s.rook.jobs ++ [{ id := s.rook.nextJob, src := .sideband tag eid, opcode := num msg 4 1, payload := msg.drop 12 }] } }) ∧
  (∀ s : State, s.pwr.porstLow = false → sbReady s = true →
    exec (.setEndpointId 9) s = .next (emit (.mctpControl 1 [0#8, 0#8, 9#8, 0#8]) { s with rook := { s.rook with eid := 9 } }) ∧
    exec (.setEndpointId 0) s = .next (emit (.mctpControl 1 [2#8, 0#8, BitVec.ofNat 8 s.rook.eid, 0#8]) s) ∧
    exec .getEndpointId s = .next (emit (.mctpControl 2 [0#8, BitVec.ofNat 8 s.rook.eid, 0#8, 0#8]) s) ∧
    exec .getMessageTypeSupport s = .next (emit (.mctpControl 5 [0#8, 1#8, 0x7E#8]) s) ∧
    exec (.getMctpVersionSupport 0x7E#8) s = .next (emit (.mctpControl 4 [0x80#8]) s) ∧
    exec (.getMctpVersionSupport 0xFF#8) s = .next (useFree (emit (.mctpControl 4
      ([0#8, 1#8] ++ leBytes 4 (freeVal 32 s).toNat)) s)) ∧
    exec (.getVendorDefinedMsgSupport 0#8) s = .next (useFree (emit (.mctpControl 6
      ([0#8, 0xFF#8, 0#8] ++ leBytes 1 (s.hif.ids.getD 0 0xFFFE / 256) ++ leBytes 1 (s.hif.ids.getD 0 0xFFFE)
        ++ leBytes 2 (freeVal 16 s).toNat)) s)) ∧
    exec (.getVendorDefinedMsgSupport 1#8) s = .next (emit (.mctpControl 6 [2#8]) s) ∧
    exec (.unsupportedMctpControlCommand 3#8) s = .next (emit (.mctpControl 3 [5#8]) s)) ∧
  (∀ (s : State) (d : BitVec 7), s.pwr.porstLow = false → s.rook.dynAddr = none →
    exec (.setdasa s.rook.sbAddr d) s = .next { s with rook := { s.rook with dynAddr := some d } } ∧
    exec .setaasa s = .next { s with rook := { s.rook with dynAddr := some s.rook.sbAddr } }) ∧
  (∀ (s : State) (v : W32), CtlOpen 0xB0008 s → s.mem.lock = false → bit v 31 = true →
    let m : MemMap := { s.mem with nloc := v.setWidth 7 }
    (mapOk m = true → exec (.memNlocLock v 0xF#4) s = .next { s with mem := { m with lock := true, bad := false } }) ∧
    (mapOk m = false → exec (.memNlocLock v 0xF#4) s = .next { s with mem := { m with bad := true } })) ∧
  (∀ (s : State) (v : W32), CtlOpen 0xB0008 s → s.mem.lock = true →
    exec (.memNlocLock v 0xF#4) s = .next (countAcc 3 0xB0008 s))

/-- Power and reset pins (R165, R166, R463 to R468, R472 to R474, R478 to R480, R485 to R487): `PORST_N` released powers MGT
with DEVTIME 0; an acknowledged domain leaves isolation and the next is powered; a late one is switched off, fails and asserts
`ERR_N`; a locked PLL releases its domain; straps are sampled once; `PERST_N` does the retention sequence and switches the
domains off, and on again from FAB; an idle cluster's clock and an idle partition's PLL stop; the controller's tick lowers the
step above the cap and raises it after 100 ticks below nine tenths of it; with no live sensor the block says so, and one reading
at or above the cap's threshold and below the quiesce threshold is taken and makes the block hot. -/
def Obligations.PowerAndPins : Prop :=
  (∀ s : State, s.pwr.porstLow = true → exec .porstDeassert s =
    .next (powerOn 0 { s with devtime := 0, pwr := { s.pwr with porstLow := false } })) ∧
  (∀ (s : State) (d : Nat), s.pwr.fail = 0 → s.pwr.en.getLsbD d = false →
    powerOn d s = emit (.pdomEn d true) { s with pwr := { s.pwr with en := s.pwr.en ||| BitVec.ofNat 11 (2 ^ d), enAt := s.devtime } }) ∧
  (∀ (s : State) (d : Nat), s.pwr.porstLow = false → d < 11 → s.pwr.en.getLsbD d = true → s.pwr.on.getLsbD d = false →
    exec (.pdomAck d true) s = .next (powerNext d { s with pwr := { s.pwr with
      ack := setDom s.pwr.ack d true
      iso := setDom s.pwr.iso d false
      on := setDom s.pwr.on d true } })) ∧
  (∀ (s : State) (d : Nat), s.pwr.porstLow = false → d = 0 ∨ d = 2 → s.pwr.en.getLsbD d = true → s.pwr.on.getLsbD d = false →
    1000000 ≤ since s.devtime s.pwr.enAt →
    let u := powerOff d s
    exec (.pdomAckTimeout d) s = .next { u with
      pwr := { u.pwr with fail := setDom u.pwr.fail d true }
      flt := { u.flt with errn := true } }) ∧
  (∀ s : State, s.pwr.porstLow = false → s.pwr.on.getLsbD 0 = true → s.pwr.lockd.getLsbD 0 = false → s.rook.state = 0 →
    exec (.pllLock 0) s = .next { s with
      pwr := { s.pwr with lockd := setDom s.pwr.lockd 0 true }
      rook := { s.rook with state := 1 } }) ∧
  (∀ (s : State) (p : Nat), s.pwr.porstLow = false → p < 8 → s.pwr.on.getLsbD (p + 3) = true → s.pwr.lockd.getLsbD (p + 3) = false →
    exec (.pllLock (p + 3)) s =
      .next (trainPorts p { s with pwr := { s.pwr with lockd := setDom s.pwr.lockd (p + 3) true } })) ∧
  (∀ s : State, s.pwr.porstLow = false → exec .refclkLoss s = .next { s with pwr := { s.pwr with refLoss := true } }) ∧
  (∀ (s : State) (retain ftest : Bool), s.pwr.porstLow = false → s.pwr.sampled = false →
    exec (.strapSample retain ftest) s = .next { s with pwr := { s.pwr with
      sampled := true
      retain := retain
      ftest := ftest && !s.rook.testClosed } }) ∧
  (∀ s : State, s.pwr.perstLow = false → s.pwr.porstLow = false → s.rook.qstate = 1#2 ∨ s.rook.qstate = 2#2 →
    let u := domainsOff (perstWork { s with pwr := { s.pwr with perstLow := true } })
    exec .perstAssert s = .next { u with rook := { u.rook with qstate := 3 } }) ∧
  (∀ s : State, s.pwr.perstLow = false → s.pwr.porstLow = false → s.rook.qstate = 0#2 ∨ s.rook.qstate = 3#2 →
    exec .perstAssert s = .next (domainsOff (perstWork { s with pwr := { s.pwr with perstLow := true } }))) ∧
  (∀ s : State, s.pwr.perstLow = true → s.pwr.porstLow = false → s.flt.safe = false → s.pwr.on.getLsbD 0 = true →
    exec .perstDeassert s = .next (powerOn 1 { s with
      pwr := { s.pwr with perstLow := false, bootAt := s.devtime }
      hif := { s.hif with cfgFrom := s.devtime }
      fe := { s.fe with stopped := false }
      rook := { s.rook with qstate := 0 } })) ∧
  (∀ (s : State) (k : Nat), Runs (.part (partOfCluster k)) s → k < 64 → clusterInReset s k = false → clusterIdle s k = true →
    exec (.clockStop k) s = .next { s with pwr := { s.pwr with
      cluStop := fset false s.pwr.cluStop k true
      idleFrom := fset 0 s.pwr.idleFrom (partOfCluster k) s.devtime } }) ∧
  (∀ (s : State) (p : Nat), Runs (.part p) s → p < 8 → clusterInReset s (64 + p) = false → gatherIdle s p = true →
    exec (.clockStop (64 + p)) s = .next { s with pwr := { s.pwr with
      cluStop := fset false s.pwr.cluStop (64 + p) true
      idleFrom := fset 0 s.pwr.idleFrom p s.devtime } }) ∧
  (∀ (s : State) (p : Nat), Runs (.part p) s → p < 8 → mayStopPll s p = true →
    ∃ t, exec (.pllStop p) s = .next t ∧ t.pwr.pllOff.getLsbD p = true) ∧
  (∀ (s : State) (p : Nat), Runs (.part p) s →
    exec (.pllRestart p) s = .next { s with pwr := { s.pwr with pllOff := s.pwr.pllOff &&& ~~~(BitVec.ofNat 8 (2 ^ p)) } }) ∧
  (∀ (s : State) (w : Nat), Runs .fab s → capInForce s < w → ∃ t, exec (.powerControlTick w) s = .next t ∧
    t.pwr.step = s.pwr.step - 1 ∧ t.pwr.below = 0 ∧ t.pwr.samples = (w :: s.pwr.samples).take 1000
    ∧ t.rook.counts.powerAcc = s.rook.counts.powerAcc + w ∧ t.rook.counts.powerN = s.rook.counts.powerN + 1) ∧
  (∀ (s : State) (w : Nat), Runs .fab s → w ≤ capInForce s → 10 * w < 9 * capInForce s → s.pwr.below < 99 →
    ∃ t, exec (.powerControlTick w) s = .next t ∧ t.pwr.step = s.pwr.step ∧ t.pwr.below = s.pwr.below + 1) ∧
  (∀ (s : State) (w : Nat), Runs .fab s → w ≤ capInForce s → 10 * w < 9 * capInForce s → s.pwr.below = 99 →
    ∃ t, exec (.powerControlTick w) s = .next t ∧ t.pwr.step = min 9 (s.pwr.step + 1) ∧ t.pwr.below = 0) ∧
  (∀ (s : State) (rs : List (Option (BitVec 12))), s.pwr.porstLow = false →
    let p := (List.range 8).foldl (fun p k => takeReading s.devtime p k (rs.getD k none)) s.pwr
    liveReadings s p = [] →
    exec (.tempSample rs) s = .next { s with pwr := { p with noSens := true, temp := 0 } }) ∧
  (∀ (s : State) (rs : List (Option (BitVec 12))) (x : Int), s.pwr.porstLow = false →
    let p := (List.range 8).foldl (fun p k => takeReading s.devtime p k (rs.getD k none)) s.pwr
    liveReadings s p = [x] → (8 * fld (rget s 0x120004) 7 0 : Nat) ≤ x → x < (8 * fld (rget s 0x120004) 15 8 : Nat) →
    exec (.tempSample rs) s = .next { s with pwr := { p with noSens := false, temp := BitVec.ofInt 12 x, hot := true } })

/-- Every command that writes one register (R372, R444, R494 to R496, R507): with no byte enabled, unreachable, or in the safe
state where the register takes no writes, it changes nothing; behind a write that waits for staging it is not taken yet (R129,
log 42); with some bytes only it is counted with reason 1; held by a reset with reason 4. -/
def Obligations.RegisterWritesAreGated : Prop :=
  ∀ (s : State) (c : Instr) (off : Nat) (be : BitVec 4), regRow c = some (off, be) → s.pwr.refLoss = false →
    (up s .hif = false → exec c s = .next s) ∧
    (ctlReach s = false → exec c s = .next s) ∧
    (be = 0#4 → exec c s = .next s) ∧
    (portHeld s = true → exec c s = .next s) ∧
    (s.flt.safe = true → safeWritable off = false → exec c s = .next s) ∧
    (up s .hif = true → ctlReach s = true → portHeld s = false → (s.flt.safe = false ∨ safeWritable off = true) → be ≠ 0#4 →
      be ≠ 0xF#4 →
      exec c s = .next { s with acc := { reason := 1, offset := BitVec.ofNat 25 off
                                         count := if s.acc.count = 0xFFFF#16 then s.acc.count else s.acc.count + 1 } }) ∧
    (up s .hif = true → ctlReach s = true → portHeld s = false → (s.flt.safe = false ∨ safeWritable off = true) → be = 0xF#4 →
      heldInReset s off = true →
      exec c s = .next { s with acc := { reason := 4, offset := BitVec.ofNat 25 off
                                         count := if s.acc.count = 0xFFFF#16 then s.acc.count else s.acc.count + 1 } })

/-- Reads and writes of CTLAP (R78, R372, R484, R494 to R499, R502): a read of the low half of a 64-bit count latches the high
half; a read of a clearing count returns it and clears it; an access that the function does not decode ends with Unsupported
Request; a write takes the defined bits, a locked one is counted with reason 3, a reserved offset takes nothing; a poisoned write
of any BAR is discarded and logged (R374). -/
def Obligations.RegisterAccesses : Prop :=
  (∀ s : State, Runs .hif s → ctlReach s = true → exec (.loReadLatch 0x120010 0xF#4) s =
    .next { emit (.readData 0x120010 (s.devtime.setWidth 32)) s with
      latch := fset 0 s.latch 0x120014 ((s.devtime >>> 32).setWidth 32) }) ∧
  (∀ s : State, Runs .hif s → ctlReach s = true →
    exec (.rcRead 0xC3000 [0xF#4]) s = .next (rset 0xC3000 0 (emit (.readData 0xC3000 (rget s 0xC3000)) s))) ∧
  (∀ s : State, Runs .hif s → ctlReach s = true → ∃ t, exec (.rcRead 0x10 [0xF#4]) s = .next t ∧ t.acc.count = 0
    ∧ t.out = .readData 0x10 (accErr s.acc) :: s.out) ∧
  (∀ (s : State) (off : Nat) (bes : List (BitVec 4)), Runs .hif s → ctlReach s = false → s.hif.linkUp = true → s.hif.flr = false →
    exec (.rcRead off bes) s = .next (emit .unsupported s)) ∧
  (∀ (s : State) (v : W32), CtlOpen 0x120004 s →
    exec (.registerWrite 0x120004 ⟨[(v, 0xF#4)], false⟩) s = .next (rset 0x120004 (v &&& 0xFFFFFF#32) s)) ∧
  (∀ (s : State) (v : W32), CtlOpen 0x82040 s → migLock s = true →
    exec (.registerWrite 0x82040 ⟨[(v, 0xF#4)], false⟩) s = .next (countAcc 3 0x82040 s)) ∧
  (∀ (s : State) (v w : W32), CtlOpen 0xF000C s → CtlOpen 0xF0010 s →
    exec (.registerWrite 0xF000C ⟨[(v, 0xF#4), (w, 0xF#4)], false⟩) s =
      .next (rset 0xF0010 (w &&& 0xFFFF#32) (rset 0xF000C (v &&& 0x1FFF#32) s))) ∧
  (∀ (s : State) (v : W32) (be : BitVec 4), Runs .hif s → exec (.registerWrite 0x20 ⟨[(v, be)], false⟩) s = .next s) ∧
  (∀ (s : State) (c : Instr), Runs .hif s → ctlReach s = true → portHeld s = false →
    ((∃ sq d, c = .tailDoorbell sq ⟨d, true⟩) ∨ (∃ sq o d, c = .dbapSlotWrite sq o ⟨d, true⟩) ∨ (∃ o d, c = .upapWrite o ⟨d, true⟩) ∨
      (∃ o q d, c = .plapWrite o q ⟨d, true⟩) ∨ ∃ o ws, c = .registerWrite o ⟨ws, true⟩) →
    exec c s = .next { s with hif := { s.hif with aer := s.hif.aer ++ [.poisonedTlp] } }) ∧
  (∀ s : State, ctlRead s 0x120010 = s.devtime.setWidth 32)

/-- R145: a read of PLAP completes with Unsupported Request and returns no data. -/
def Obligations.PlapReadsAreUnsupportedRequests : Prop :=
  ∀ (s : State) (off n : Nat), Runs .hif s → exec (.plapRead off n) s =
    .next { s with out := .unsupported :: s.out, hif := { s.hif with l1Req := false } }

/-- R188: PWAIT stalls its group while PEND of counter TOK is above N and goes on once it is not; a group that issues a press
instruction to a counter whose PEND is 63 stalls, at the same word, until PEND falls. -/
def Obligations.PressWaitsFollowTheirCounters : Prop :=
  ∀ (s : State) (x : Issue) (p : Path),
  (Issues s 0xE3 x p → wDi p.w < pendOf s p.t.core p.l.id (wTok p.w) →
    exec (.pwait x) s = .next (onGroup p (fun g => { g.endResv p.act with wait := .event }) (clocked p s))) ∧
  (Issues s 0xE3 x p → pendOf s p.t.core p.l.id (wTok p.w) ≤ wDi p.w →
    exec (.pwait x) s = .next (onGroup p (fun g => (g.next p).endResv p.act) (clocked p s))) ∧
  ((streamAt s p.t.core (wS p.w)).launch = some p.l.id → 63 ≤ pendOf s p.t.core p.l.id (wTok p.w) →
    let waits : State := onGroup p (fun g => { g with wait := .event }) (clocked p s)
    (Issues s 0xE0 x p → exec (.pldw x) s = .next waits) ∧ (Issues s 0xE1 x p → exec (.pmma x) s = .next waits)
      ∧ (Issues s 0xE2 x p → exec (.prq x) s = .next waits)) ∧
  ((streamAt s p.t.core (wS p.w)).launch = some p.l.id → pendOf s p.t.core p.l.id (wTok p.w) < 63 →
    (streamAt s p.t.core (wS p.w)).queue.length < 8 → Issues s 0xE1 x p →
    exec (.pmma x) s = .next (onGroup p (fun g => g.next p) (modPend p.t.core p.l.id (wTok p.w) (· + 1)
      (modStream p.t.core (wS p.w) (fun y => { y with queue := y.queue ++ [{
        opc := 0xE1, word := BitVec.ofNat 64 p.w, adj := (p.g.reg (p.act.headD 0) (wAdj p.w)).toNat
        hreg := (p.g.reg (p.act.headD 0) (wHreg p.w)).toNat, tok := wTok p.w }] }) (clocked p s)))))

/-- R240: ATOM, RED, LDR and STC are naturally aligned accesses of 4 or 8 bytes; a misaligned one changes nothing in memory,
reports a MINOR fault and its launch ends with FAULTED. -/
def Obligations.MisalignedAtomicsChangeNoMemory : Prop :=
  (∀ regs w, wordOk regs w = true → (w % 256 = 0xA2 ∨ w % 256 = 0xA3 → accBytes (wMod w) = 4 ∨ accBytes (wMod w) = 8)) ∧
  (∀ m, atomSize m = 4 ∨ atomSize m = 8) ∧
  (∀ (p : Path) (n : Nat), misaligned p n = none ↔ ∀ a ∈ vaAccess p n, a.2.1 % n = 0) ∧
  sourceClass 0x0A = some 1 ∧
  (∀ (s : State) (x : Issue) (p : Path) (va : Nat) (c : Instr),
    (c = .ldr x ∧ Issues s 0xA2 x p ∧ misaligned p (accBytes (wMod p.w)) = some va) ∨
    (c = .stc x ∧ Issues s 0xA3 x p ∧ misaligned p (accBytes (wMod p.w)) = some va) ∨
    (c = .atom x ∧ Issues s 0xA0 x p ∧ misaligned p (atomSize (wMod p.w)) = some va) ∨
    (c = .red x ∧ Issues s 0xA1 x p ∧ misaligned p (atomSize (wMod p.w)) = some va) →
    ∃ t, exec c s = .next t ∧ t.dram = s.dram ∧ t.dc = s.dc ∧ t.ports = s.ports ∧ t.poison = s.poison ∧ t.simt.cores = s.simt.cores
      ∧ (∀ l ∈ t.simt.launches, l.id = p.l.id → l.ending = some 0x20)
      ∧ t.flt.intake.getLast?.map (fun i => (i.rep.source, i.rep.addr)) = some (0x0A, some va))
end

