-- ==== Sys2Proof/Laws/Ops.lean ====
section
/-! SUPPORT. What the shared operations do, said once: tables and byte memories (canonical form, read after write), the gate of
the domains, the gate of register writes, and commands in flight. -/

namespace Sys2Proof.Machine

/-! ## Sparse tables -/

theorem fget_fset_same {α : Type} [DecidableEq α] (d v : α) (k : Nat) (m : FMap α) (h : fwfFrom (fun _ => d) 0 m = true) :
    fget d (fset d m k v) k = v := by
  have gen : ∀ (m : FMap α) (lo : Nat), fwfFrom (fun _ => d) lo m = true → fget d (fset d m k v) k = v := by
    intro m
    induction m with
    | nil => intro lo _; unfold fset; split <;> simp_all [fget]
    | cons x m ih =>
      intro lo h
      obtain ⟨j, u⟩ := x
      simp only [fwfFrom, Bool.and_eq_true, decide_eq_true_eq] at h
      have none_below : ∀ (m : FMap α) (lo : Nat), k < lo → fwfFrom (fun _ => d) lo m = true → fget d m k = d := by
        intro m
        induction m with
        | nil => intros; rfl
        | cons y m ih2 =>
          intro lo hk hw
          obtain ⟨i, w⟩ := y
          simp only [fwfFrom, Bool.and_eq_true, decide_eq_true_eq] at hw
          have : i ≠ k := by omega
          simp only [fget, this, if_false]
          exact ih2 (i + 1) (by omega) hw.2
      unfold fset
      split
      · split
        · have hj : j ≠ k := by omega
          simp only [fget, hj, if_false]
          rw [none_below m (j + 1) (by omega) h.2]
          exact Eq.symm ‹_›
        · simp [fget]
      · split
        · split
          · rw [none_below m (j + 1) (by omega) h.2]
            exact Eq.symm ‹_›
          · simp [fget]
        · have hj : j ≠ k := by omega
          simp only [fget, hj, if_false]
          exact ih (j + 1) h.2
  exact gen m 0 h

theorem fget_fset_other {α : Type} [DecidableEq α] (d d' v : α) (k i : Nat) (hik : i ≠ k) (m : FMap α) :
    fget d' (fset d m k v) i = fget d' m i := by
  induction m with
  | nil => unfold fset; split <;> simp [fget, Ne.symm hik]
  | cons x m ih =>
    obtain ⟨j, u⟩ := x
    unfold fset
    split
    · split
      · rfl
      · simp only [fget, Ne.symm hik, if_false]
    · split
      · split
        · have : j ≠ i := by omega
          simp only [fget, this, if_false]
        · have : j ≠ i := by omega
          simp only [fget, this, Ne.symm hik, if_false]
      · simp only [fget, ih]

theorem fwfFrom_mono {α : Type} [DecidableEq α] (d : Nat → α) (lo lo' : Nat) (h : lo' ≤ lo) (m : FMap α)
    (w : fwfFrom d lo m = true) : fwfFrom d lo' m = true := by
  cases m with
  | nil => rfl
  | cons x m =>
    simp only [fwfFrom, Bool.and_eq_true, decide_eq_true_eq] at w ⊢
    exact ⟨⟨by omega, w.1.2⟩, w.2⟩

theorem fset_wfFrom {α : Type} [DecidableEq α] (d : Nat → α) (k : Nat) (v : α) (m : FMap α) :
    ∀ lo, lo ≤ k → fwfFrom d lo m = true → fwfFrom d lo (fset (d k) m k v) = true := by
  induction m with
  | nil => intro lo h _; unfold fset; split <;> simp_all [fwfFrom]
  | cons x m ih =>
    intro lo h w
    obtain ⟨j, u⟩ := x
    simp only [fwfFrom, Bool.and_eq_true, decide_eq_true_eq] at w
    unfold fset
    split
    · split
      · simpa only [fwfFrom, Bool.and_eq_true, decide_eq_true_eq] using w
      · simp only [fwfFrom, Bool.and_eq_true, decide_eq_true_eq]
        exact ⟨⟨h, ‹_›⟩, ⟨by omega, w.1.2⟩, w.2⟩
    · split
      · have hkj : k = j := ‹_›
        split
        · exact fwfFrom_mono d (j + 1) lo (by omega) m w.2
        · simp only [fwfFrom, Bool.and_eq_true, decide_eq_true_eq]
          exact ⟨⟨h, ‹_›⟩, hkj ▸ w.2⟩
      · simp only [fwfFrom, Bool.and_eq_true, decide_eq_true_eq]
        exact ⟨w.1, ih (j + 1) (by omega) w.2⟩

/-- A write keeps the canonical form of a table. -/
theorem fset_wf {α : Type} [DecidableEq α] (d : Nat → α) (k : Nat) (v : α) (m : FMap α) (h : fwf d m = true) :
    fwf d (fset (d k) m k v) = true := fset_wfFrom d k v m 0 (Nat.zero_le k) h

/-- Dropping entries keeps it. -/
theorem filter_wf {α : Type} [DecidableEq α] (d : Nat → α) (p : Nat × α → Bool) (m : FMap α) (h : fwf d m = true) :
    fwf d (m.filter p) = true := by
  have gen : ∀ (m : FMap α) lo, fwfFrom d lo m = true → fwfFrom d lo (m.filter p) = true := by
    intro m
    induction m with
    | nil => intros; rfl
    | cons x m ih =>
      intro lo w
      simp only [fwfFrom, Bool.and_eq_true, decide_eq_true_eq] at w
      rw [List.filter_cons]
      split
      · simp only [fwfFrom, Bool.and_eq_true, decide_eq_true_eq]
        exact ⟨w.1, ih _ w.2⟩
      · exact fwfFrom_mono d (x.1 + 1) lo (by omega) _ (ih _ w.2)
  exact gen m 0 h

/-! ## Byte memories -/

/-- A write of bytes keeps the canonical form. -/
theorem memWrite_wf (l : List (Nat × Byte)) : ∀ m : FMap Byte, Memory.wf m = true → Memory.wf (memWrite m l) = true := by
  induction l with
  | nil => intro m h; exact h
  | cons x l ih => intro m h; exact ih _ (fset_wf (fun _ => (0 : Byte)) x.1 x.2 m h)

/-- A byte outside the addresses written reads as before. -/
theorem memWrite_other (a : Nat) (l : List (Nat × Byte)) : ∀ m : FMap Byte, (∀ x ∈ l, x.1 ≠ a) →
    fget 0 (memWrite m l) a = fget 0 m a := by
  induction l with
  | nil => intros; rfl
  | cons x l ih =>
    intro m h
    unfold memWrite
    rw [ih _ (fun y hy => h y (List.mem_cons_of_mem _ hy))]
    exact fget_fset_other 0 0 x.2 x.1 a (Ne.symm (h x List.mem_cons_self)) m

/-- A byte written alone reads back. -/
theorem memWrite_read (m : FMap Byte) (a : Nat) (b : Byte) (h : Memory.wf m = true) : fget 0 (memWrite m [(a, b)]) a = b :=
  fget_fset_same 0 b a m h

theorem reset_dram_wf : Memory.wf State.reset.dram = true := rfl

/-! ## The gate of the domains -/

/-- Everything a command behind the gate can do. -/
theorem live_cases (d : Dom) (s : State) (f : State → State) :
    (s.pwr.refLoss = true ∧ d ≠ .aon ∧ live d s f = .fault .refclkLost)
    ∨ (up s d = true ∧ live d s f = .next (f s)) ∨ (up s d = false ∧ live d s f = .next s) := by
  unfold live
  by_cases h : (s.pwr.refLoss && decide (d ≠ .aon)) = true
  · have h2 := h
    simp only [Bool.and_eq_true, decide_eq_true_eq] at h2
    exact .inl ⟨h2.1, h2.2, by rw [if_pos h]⟩
  · rw [if_neg h]
    cases hu : up s d
    · exact .inr (.inr ⟨rfl, by simp⟩)
    · exact .inr (.inl ⟨rfl, by simp⟩)

theorem live_runs {d : Dom} {s : State} (f : State → State) (h : Runs d s) : live d s f = .next (f s) := by
  simp [live, h.1, h.2]

theorem live_aon {s : State} (f : State → State) (h : s.pwr.porstLow = false) : live .aon s f = .next (f s) := by
  simp [live, up, h]

theorem live_off {d : Dom} {s : State} (f : State → State) (h : s.pwr.refLoss = false) (hu : up s d = false) :
    live d s f = .next s := by
  simp [live, h, hu]

theorem live_lost {d : Dom} {s : State} (f : State → State) (h : s.pwr.refLoss = true) (hd : d ≠ .aon) :
    live d s f = .fault .refclkLost := by
  simp [live, h, hd]

/-! ## The gate of register writes -/

theorem ctlWord_open {off : Nat} {s : State} (f : State → State) (h : CtlOpen off s) :
    ctlWord off 0xF#4 f s = f (woken off s) := by
  obtain ⟨-, h2, h3, h4, h5⟩ := h
  have h3' : (s.flt.safe && !safeWritable off) = false := by
    cases h3 with
    | inl h => simp [h]
    | inr h => simp [h]
  unfold ctlWord woken
  simp only [h2, h3', h4, h5, Bool.not_true, Bool.false_or, Bool.or_false]
  split
  · exact absurd ‹_› (by decide)
  · simp only [Bool.false_eq_true, if_false, ne_eq, not_true]
    cases ctlPart off <;> rfl

/-- A whole-word write through an open gate has its effect, after the partition it concerns has been woken. -/
theorem ctlWrite_open {off : Nat} {s : State} (f : State → State) (h : CtlOpen off s) :
    ctlWrite off 0xF#4 s f = .next (f (woken off s)) := by
  unfold ctlWrite
  rw [live_runs _ h.1, ctlWord_open f h]

/-- Registers of no partition wake none. -/
theorem woken_none {off : Nat} (s : State) (h : ctlPart off = none) : woken off s = s := by
  simp [woken, h]

/-! ## Commands in flight -/

theorem cmd_id {f : FrontEnd} {id : Nat} {c : Cmd} (h : f.cmd id = some c) : c.id = id := by
  have := List.find?_some h
  simpa using this

theorem cmd_mem {f : FrontEnd} {id : Nat} {c : Cmd} (h : f.cmd id = some c) : c ∈ f.cmds := List.mem_of_find?_eq_some h

theorem withCmd_yes {id : Nat} {p : Cmd → Bool} {s : State} {f : Cmd → State} {c : Cmd} (h : s.fe.cmd id = some c)
    (hp : p c = true) : withCmd id p s f = f c := by
  simp [withCmd, h, hp]

theorem withCmd_no {id : Nat} {p : Cmd → Bool} {s : State} {f : Cmd → State} {c : Cmd} (h : s.fe.cmd id = some c)
    (hp : p c = false) : withCmd id p s f = s := by
  simp [withCmd, h, hp]

/-- An opcode's start acts on its admitted command. -/
theorem startOp_admitted {id : Nat} {op : Op} {s : State} {f : Cmd → State → State} {c : Cmd}
    (h : InPhase s id op .admitted c) : startOp id op s f = f c s := by
  obtain ⟨h1, h2, h3⟩ := h
  unfold startOp
  rw [withCmd_no h1 (by simp [h3]), withCmd_yes h1 (by simp [h2, h3])]

/-! ## SIMT words -/

/-- What a path's word does once it takes effect. -/
theorem simt_issues {s : State} {opc : Nat} {x : Issue} {p : Path} (f : Path → State → State) (h : Issues s opc x p) :
    simt opc x s f = .next (f p (clocked p s)) := by
  obtain ⟨h1, h2, h3, h4, h5⟩ := h
  unfold simt
  rw [live_runs _ h1]
  obtain ⟨q, hq, rfl⟩ := Option.map_eq_some_iff.mp h2
  have h3' : allowed (issuePath q s) q.issue.pc 8 = true := h3
  simp only [runWord, hq, h3', h4, h5, Bool.not_true, Bool.false_eq_true, if_false]
  rfl

theorem alu_issues {s : State} {opc : Nat} {x : Issue} {p : Path} (f : W32 → W32 → W32 → Nat → W32) (h : Issues s opc x p) :
    alu opc x s f = .next (writeRd p (fun i => f (p.a i) (p.b i) (p.c i) p.m) (clocked p s)) := simt_issues _ h

/-! ## Arbiters (R357) -/

/-- No entry of a table has the key. -/
def Unlisted {α : Type} (k : Nat) (m : FMap α) : Prop := ∀ e ∈ m, e.1 ≠ k

theorem fget_unlisted {α : Type} (d : α) {k : Nat} {m : FMap α} (h : Unlisted k m) : fget d m k = d := by
  induction m with
  | nil => rfl
  | cons x m ih =>
    have hx : x.1 ≠ k := h x (by simp)
    simp only [fget, hx, if_false]
    exact ih fun e he => h e (by simp [he])

theorem fget_fset_unlisted {α : Type} [DecidableEq α] (d v : α) {k : Nat} {m : FMap α} (h : Unlisted k m) :
    fget d (fset d m k v) k = v := by
  induction m with
  | nil => unfold fset; split <;> simp_all [fget]
  | cons x m ih =>
    have hx : x.1 ≠ k := h x (by simp)
    have hm : Unlisted k m := fun e he => h e (by simp [he])
    unfold fset
    split
    · split
      · rw [fget_unlisted d h]; exact Eq.symm ‹_›
      · simp [fget]
    · simp only [Ne.symm hx, if_false, fget, hx]
      exact ih hm

theorem unlisted_fset {α : Type} [DecidableEq α] (d v : α) {k i : Nat} (hik : i ≠ k) {m : FMap α} (h : Unlisted i m) :
    Unlisted i (fset d m k v) := by
  induction m with
  | nil => unfold fset; split <;> simp [Unlisted, Ne.symm hik]
  | cons x m ih =>
    have hm : Unlisted i m := fun e he => h e (by simp [he])
    have hx : x.1 ≠ i := h x (by simp)
    unfold fset
    intro e he
    split at he
    · split at he
      · exact h e he
      · rcases List.mem_cons.mp he with rfl | he
        · exact Ne.symm hik
        · exact h e he
    · split at he
      · split at he
        · exact hm e he
        · rcases List.mem_cons.mp he with rfl | he
          · exact Ne.symm hik
          · exact hm e he
      · rcases List.mem_cons.mp he with rfl | he
        · exact hx
        · exact ih hm e he

/-- Setting a list of distinct keys that were not listed sets each of them. -/
theorem fget_foldl_fset {α : Type} [DecidableEq α] (d : α) (key : Nat → Nat) (v : Nat → α) (l : List Nat) (m : FMap α)
    (inj : ∀ x ∈ l, ∀ y ∈ l, key x = key y → x = y) (nd : l.Nodup) (h : ∀ x ∈ l, Unlisted (key x) m) {c : Nat} (hc : c ∈ l) :
    fget d (l.foldl (fun m c => fset d m (key c) (v c)) m) (key c) = v c := by
  have keep : ∀ (l : List Nat) (m : FMap α), (∀ x ∈ l, key c ≠ key x) →
      fget d (l.foldl (fun m c => fset d m (key c) (v c)) m) (key c) = fget d m (key c) := by
    intro l
    induction l with
    | nil => intros; rfl
    | cons x l ih =>
      intro m hx
      rw [List.foldl_cons, ih _ fun y hy => hx y (by simp [hy])]
      exact fget_fset_other d d (v x) (key x) (key c) (hx x (by simp)) m
  induction l generalizing m with
  | nil => simp at hc
  | cons x l ih =>
    rw [List.foldl_cons]
    have hnx : ∀ y ∈ l, key y ≠ key x := fun y hy e =>
      (List.nodup_cons.mp nd).1 (inj y (by simp [hy]) x (by simp) e ▸ hy)
    rcases List.mem_cons.mp hc with rfl | hc
    · rw [keep l _ fun y hy => Ne.symm (hnx y hy)]
      exact fget_fset_unlisted d (v c) (h c (by simp))
    · exact ih _ (fun a ha b hb => inj a (by simp [ha]) b (by simp [hb])) (List.nodup_cons.mp nd).2
        (fun y hy => unlisted_fset d (v x) (hnx y hy) (h y (by simp [hy]))) hc

theorem nodup_eraseDups (l : List Nat) : l.eraseDups.Nodup := by
  induction h : l.length using Nat.strongRecOn generalizing l with
  | _ n ih =>
    cases l with
    | nil => simp
    | cons x l =>
      rw [List.eraseDups_cons, List.nodup_cons]
      refine ⟨by simp, ih _ ?_ _ rfl⟩
      have := List.length_filter_le (fun b => !b == x) l
      simp only [List.length_cons] at h
      omega

/-- What an arbiter owes each of the competing contexts after `n` grants to the request `r`. -/
theorem FrontEnd.serve_owedAt (f : FrontEnd) (a : Arb) (reqs : List (Nat × Nat)) (r : Nat × Nat) (n : Nat)
    (small : ∀ x ∈ reqs, x.1 < 4096) {c : Nat} (hc : c ∈ reqCtxs reqs) :
    (f.serve a reqs r n).owedAt a c =
      f.owedAt a c + n * (f.ctxOf c).weight - (if c = r.1 then n * f.weightSum reqs else 0) := by
  have lt : ∀ x ∈ reqCtxs reqs, x < 4096 := fun x hx => by
    obtain ⟨y, hy, rfl⟩ := List.mem_map.mp (List.mem_eraseDups.mp hx)
    exact small y hy
  refine fget_foldl_fset 0 (arbKey a) (fun c => f.owedAt a c + n * (f.ctxOf c).weight - (if c = r.1 then n * f.weightSum reqs else 0))
    (reqCtxs reqs) _ (fun x _ y _ e => by unfold arbKey at e; omega) (nodup_eraseDups _) (fun x hx e he => ?_) hc
  have hx := lt x hx
  have he := of_decide_eq_true (List.mem_filter.mp he).2
  unfold arbKey
  omega

/-! ## Writes of a BAR (R374) -/

theorem barWrite_good {α : Type} {w : Posted α} (f : α → State → State) (s : State) (h : w.ep = false) :
    barWrite w f s = f w.data s := by simp [barWrite, h]

/-- A poisoned write takes nothing but the entry of AER, where it is delivered. -/
theorem barWrite_poisoned {α : Type} {w : Posted α} (f : α → State → State) (s : State) (h : w.ep = true) :
    barWrite w f s = s ∨ barWrite w f s = logAer .poisonedTlp s := by
  simp only [barWrite, h, Bool.not_true, Bool.false_eq_true, if_false]
  split
  · exact .inr rfl
  · exact .inl rfl

end Sys2Proof.Machine
end

