-- ==== Sys2Proof/Laws/Gates.lean ====
section
/-! SUPPORT. Every command but the four of the reset pins passes the gate of a domain. -/

namespace Sys2Proof.Machine

/-- The four commands of `PORST_N` and `PERST_N`, which no domain gates. -/
def isPinReset : Instr → Bool
  | .porstAssert | .porstDeassert | .perstAssert | .perstDeassert => true
  | _ => false

theorem job_gated (id op : Nat) (s : State) (g : Job → State × Ans) : ∃ d f, job id op s g = live d s f := ⟨_, _, rfl⟩
theorem quiesceJob_gated (id a : Nat) (s : State) (g : State → State × Ans) : ∃ d f, quiesceJob id a s g = live d s f :=
  ⟨_, _, rfl⟩

/-- What a command does is said by one domain's gate and one effect. -/
theorem exec_gated (c : Instr) (s : State) (h : isPinReset c = false) : ∃ d f, exec c s = live d s f := by
  cases c
  case porstAssert | porstDeassert | perstAssert | perstDeassert => exact absurd h (by decide)
  all_goals
    dsimp only [exec]
    first | exact ⟨_, _, rfl⟩ | exact job_gated _ _ _ _ | exact quiesceJob_gated _ _ _ _

end Sys2Proof.Machine
end

