-- ==== Sys2Proof/Laws/State.lean ====
section
/-! SUPPORT. What each update of the state leaves: one lemma per field. -/

namespace Sys2Proof.Machine

variable (s : State)

/-! ### `rset` -/

@[simp] theorem rset_pending (off : Nat) (v : W32) : (rset off v s).pending = s.pending := rfl
@[simp] theorem rset_freeCtr (off : Nat) (v : W32) : (rset off v s).freeCtr = s.freeCtr := rfl
@[simp] theorem rset_out (off : Nat) (v : W32) : (rset off v s).out = s.out := rfl
@[simp] theorem rset_devtime (off : Nat) (v : W32) : (rset off v s).devtime = s.devtime := rfl
@[simp] theorem rset_acc (off : Nat) (v : W32) : (rset off v s).acc = s.acc := rfl
@[simp] theorem rset_latch (off : Nat) (v : W32) : (rset off v s).latch = s.latch := rfl
@[simp] theorem rset_mng (off : Nat) (v : W32) : (rset off v s).mng = s.mng := rfl
@[simp] theorem rset_tbl (off : Nat) (v : W32) : (rset off v s).tbl = s.tbl := rfl
@[simp] theorem rset_upd (off : Nat) (v : W32) : (rset off v s).upd = s.upd := rfl
@[simp] theorem rset_mig (off : Nat) (v : W32) : (rset off v s).mig = s.mig := rfl
@[simp] theorem rset_ret (off : Nat) (v : W32) : (rset off v s).ret = s.ret := rfl
@[simp] theorem rset_fe (off : Nat) (v : W32) : (rset off v s).fe = s.fe := rfl
@[simp] theorem rset_simt (off : Nat) (v : W32) : (rset off v s).simt = s.simt := rfl
@[simp] theorem rset_mov (off : Nat) (v : W32) : (rset off v s).mov = s.mov := rfl
@[simp] theorem rset_dc (off : Nat) (v : W32) : (rset off v s).dc = s.dc := rfl
@[simp] theorem rset_rat (off : Nat) (v : W32) : (rset off v s).rat = s.rat := rfl
@[simp] theorem rset_dram (off : Nat) (v : W32) : (rset off v s).dram = s.dram := rfl
@[simp] theorem rset_poison (off : Nat) (v : W32) : (rset off v s).poison = s.poison := rfl
@[simp] theorem rset_mem (off : Nat) (v : W32) : (rset off v s).mem = s.mem := rfl
@[simp] theorem rset_ports (off : Nat) (v : W32) : (rset off v s).ports = s.ports := rfl
@[simp] theorem rset_atc (off : Nat) (v : W32) : (rset off v s).atc = s.atc := rfl
@[simp] theorem rset_hif (off : Nat) (v : W32) : (rset off v s).hif = s.hif := rfl
@[simp] theorem rset_rook (off : Nat) (v : W32) : (rset off v s).rook = s.rook := rfl
@[simp] theorem rset_flt (off : Nat) (v : W32) : (rset off v s).flt = s.flt := rfl
@[simp] theorem rset_pwr (off : Nat) (v : W32) : (rset off v s).pwr = s.pwr := rfl
@[simp] theorem rset_rst (off : Nat) (v : W32) : (rset off v s).rst = s.rst := rfl

/-! ### `useFree` -/

@[simp] theorem useFree_pending : (useFree s).pending = s.pending := rfl
@[simp] theorem useFree_out : (useFree s).out = s.out := rfl
@[simp] theorem useFree_devtime : (useFree s).devtime = s.devtime := rfl
@[simp] theorem useFree_acc : (useFree s).acc = s.acc := rfl
@[simp] theorem useFree_regs : (useFree s).regs = s.regs := rfl
@[simp] theorem useFree_latch : (useFree s).latch = s.latch := rfl
@[simp] theorem useFree_mng : (useFree s).mng = s.mng := rfl
@[simp] theorem useFree_tbl : (useFree s).tbl = s.tbl := rfl
@[simp] theorem useFree_upd : (useFree s).upd = s.upd := rfl
@[simp] theorem useFree_mig : (useFree s).mig = s.mig := rfl
@[simp] theorem useFree_ret : (useFree s).ret = s.ret := rfl
@[simp] theorem useFree_fe : (useFree s).fe = s.fe := rfl
@[simp] theorem useFree_simt : (useFree s).simt = s.simt := rfl
@[simp] theorem useFree_mov : (useFree s).mov = s.mov := rfl
@[simp] theorem useFree_dc : (useFree s).dc = s.dc := rfl
@[simp] theorem useFree_rat : (useFree s).rat = s.rat := rfl
@[simp] theorem useFree_dram : (useFree s).dram = s.dram := rfl
@[simp] theorem useFree_poison : (useFree s).poison = s.poison := rfl
@[simp] theorem useFree_mem : (useFree s).mem = s.mem := rfl
@[simp] theorem useFree_ports : (useFree s).ports = s.ports := rfl
@[simp] theorem useFree_atc : (useFree s).atc = s.atc := rfl
@[simp] theorem useFree_hif : (useFree s).hif = s.hif := rfl
@[simp] theorem useFree_rook : (useFree s).rook = s.rook := rfl
@[simp] theorem useFree_flt : (useFree s).flt = s.flt := rfl
@[simp] theorem useFree_pwr : (useFree s).pwr = s.pwr := rfl
@[simp] theorem useFree_rst : (useFree s).rst = s.rst := rfl

/-! ### `countAcc` -/

@[simp] theorem countAcc_pending (r : BitVec 3) (off : Nat) : (countAcc r off s).pending = s.pending := rfl
@[simp] theorem countAcc_freeCtr (r : BitVec 3) (off : Nat) : (countAcc r off s).freeCtr = s.freeCtr := rfl
@[simp] theorem countAcc_out (r : BitVec 3) (off : Nat) : (countAcc r off s).out = s.out := rfl
@[simp] theorem countAcc_devtime (r : BitVec 3) (off : Nat) : (countAcc r off s).devtime = s.devtime := rfl
@[simp] theorem countAcc_regs (r : BitVec 3) (off : Nat) : (countAcc r off s).regs = s.regs := rfl
@[simp] theorem countAcc_latch (r : BitVec 3) (off : Nat) : (countAcc r off s).latch = s.latch := rfl
@[simp] theorem countAcc_mng (r : BitVec 3) (off : Nat) : (countAcc r off s).mng = s.mng := rfl
@[simp] theorem countAcc_tbl (r : BitVec 3) (off : Nat) : (countAcc r off s).tbl = s.tbl := rfl
@[simp] theorem countAcc_upd (r : BitVec 3) (off : Nat) : (countAcc r off s).upd = s.upd := rfl
@[simp] theorem countAcc_mig (r : BitVec 3) (off : Nat) : (countAcc r off s).mig = s.mig := rfl
@[simp] theorem countAcc_ret (r : BitVec 3) (off : Nat) : (countAcc r off s).ret = s.ret := rfl
@[simp] theorem countAcc_fe (r : BitVec 3) (off : Nat) : (countAcc r off s).fe = s.fe := rfl
@[simp] theorem countAcc_simt (r : BitVec 3) (off : Nat) : (countAcc r off s).simt = s.simt := rfl
@[simp] theorem countAcc_mov (r : BitVec 3) (off : Nat) : (countAcc r off s).mov = s.mov := rfl
@[simp] theorem countAcc_dc (r : BitVec 3) (off : Nat) : (countAcc r off s).dc = s.dc := rfl
@[simp] theorem countAcc_rat (r : BitVec 3) (off : Nat) : (countAcc r off s).rat = s.rat := rfl
@[simp] theorem countAcc_dram (r : BitVec 3) (off : Nat) : (countAcc r off s).dram = s.dram := rfl
@[simp] theorem countAcc_poison (r : BitVec 3) (off : Nat) : (countAcc r off s).poison = s.poison := rfl
@[simp] theorem countAcc_mem (r : BitVec 3) (off : Nat) : (countAcc r off s).mem = s.mem := rfl
@[simp] theorem countAcc_ports (r : BitVec 3) (off : Nat) : (countAcc r off s).ports = s.ports := rfl
@[simp] theorem countAcc_atc (r : BitVec 3) (off : Nat) : (countAcc r off s).atc = s.atc := rfl
@[simp] theorem countAcc_hif (r : BitVec 3) (off : Nat) : (countAcc r off s).hif = s.hif := rfl
@[simp] theorem countAcc_rook (r : BitVec 3) (off : Nat) : (countAcc r off s).rook = s.rook := rfl
@[simp] theorem countAcc_flt (r : BitVec 3) (off : Nat) : (countAcc r off s).flt = s.flt := rfl
@[simp] theorem countAcc_pwr (r : BitVec 3) (off : Nat) : (countAcc r off s).pwr = s.pwr := rfl
@[simp] theorem countAcc_rst (r : BitVec 3) (off : Nat) : (countAcc r off s).rst = s.rst := rfl

/-! ### `wakePart` -/

@[simp] theorem wakePart_pending (p : Nat) : (wakePart p s).pending = s.pending := rfl
@[simp] theorem wakePart_freeCtr (p : Nat) : (wakePart p s).freeCtr = s.freeCtr := rfl
@[simp] theorem wakePart_out (p : Nat) : (wakePart p s).out = s.out := rfl
@[simp] theorem wakePart_devtime (p : Nat) : (wakePart p s).devtime = s.devtime := rfl
@[simp] theorem wakePart_acc (p : Nat) : (wakePart p s).acc = s.acc := rfl
@[simp] theorem wakePart_regs (p : Nat) : (wakePart p s).regs = s.regs := rfl
@[simp] theorem wakePart_latch (p : Nat) : (wakePart p s).latch = s.latch := rfl
@[simp] theorem wakePart_mng (p : Nat) : (wakePart p s).mng = s.mng := rfl
@[simp] theorem wakePart_tbl (p : Nat) : (wakePart p s).tbl = s.tbl := rfl
@[simp] theorem wakePart_upd (p : Nat) : (wakePart p s).upd = s.upd := rfl
@[simp] theorem wakePart_mig (p : Nat) : (wakePart p s).mig = s.mig := rfl
@[simp] theorem wakePart_ret (p : Nat) : (wakePart p s).ret = s.ret := rfl
@[simp] theorem wakePart_fe (p : Nat) : (wakePart p s).fe = s.fe := rfl
@[simp] theorem wakePart_simt (p : Nat) : (wakePart p s).simt = s.simt := rfl
@[simp] theorem wakePart_mov (p : Nat) : (wakePart p s).mov = s.mov := rfl
@[simp] theorem wakePart_dc (p : Nat) : (wakePart p s).dc = s.dc := rfl
@[simp] theorem wakePart_rat (p : Nat) : (wakePart p s).rat = s.rat := rfl
@[simp] theorem wakePart_dram (p : Nat) : (wakePart p s).dram = s.dram := rfl
@[simp] theorem wakePart_poison (p : Nat) : (wakePart p s).poison = s.poison := rfl
@[simp] theorem wakePart_mem (p : Nat) : (wakePart p s).mem = s.mem := rfl
@[simp] theorem wakePart_ports (p : Nat) : (wakePart p s).ports = s.ports := rfl
@[simp] theorem wakePart_atc (p : Nat) : (wakePart p s).atc = s.atc := rfl
@[simp] theorem wakePart_hif (p : Nat) : (wakePart p s).hif = s.hif := rfl
@[simp] theorem wakePart_rook (p : Nat) : (wakePart p s).rook = s.rook := rfl
@[simp] theorem wakePart_flt (p : Nat) : (wakePart p s).flt = s.flt := rfl
@[simp] theorem wakePart_rst (p : Nat) : (wakePart p s).rst = s.rst := rfl

/-! ### `modCmd` -/

@[simp] theorem modCmd_pending (id : Nat) (f : Cmd → Cmd) : (modCmd id f s).pending = s.pending := rfl
@[simp] theorem modCmd_freeCtr (id : Nat) (f : Cmd → Cmd) : (modCmd id f s).freeCtr = s.freeCtr := rfl
@[simp] theorem modCmd_out (id : Nat) (f : Cmd → Cmd) : (modCmd id f s).out = s.out := rfl
@[simp] theorem modCmd_devtime (id : Nat) (f : Cmd → Cmd) : (modCmd id f s).devtime = s.devtime := rfl
@[simp] theorem modCmd_acc (id : Nat) (f : Cmd → Cmd) : (modCmd id f s).acc = s.acc := rfl
@[simp] theorem modCmd_regs (id : Nat) (f : Cmd → Cmd) : (modCmd id f s).regs = s.regs := rfl
@[simp] theorem modCmd_latch (id : Nat) (f : Cmd → Cmd) : (modCmd id f s).latch = s.latch := rfl
@[simp] theorem modCmd_mng (id : Nat) (f : Cmd → Cmd) : (modCmd id f s).mng = s.mng := rfl
@[simp] theorem modCmd_tbl (id : Nat) (f : Cmd → Cmd) : (modCmd id f s).tbl = s.tbl := rfl
@[simp] theorem modCmd_upd (id : Nat) (f : Cmd → Cmd) : (modCmd id f s).upd = s.upd := rfl
@[simp] theorem modCmd_mig (id : Nat) (f : Cmd → Cmd) : (modCmd id f s).mig = s.mig := rfl
@[simp] theorem modCmd_ret (id : Nat) (f : Cmd → Cmd) : (modCmd id f s).ret = s.ret := rfl
@[simp] theorem modCmd_simt (id : Nat) (f : Cmd → Cmd) : (modCmd id f s).simt = s.simt := rfl
@[simp] theorem modCmd_mov (id : Nat) (f : Cmd → Cmd) : (modCmd id f s).mov = s.mov := rfl
@[simp] theorem modCmd_dc (id : Nat) (f : Cmd → Cmd) : (modCmd id f s).dc = s.dc := rfl
@[simp] theorem modCmd_rat (id : Nat) (f : Cmd → Cmd) : (modCmd id f s).rat = s.rat := rfl
@[simp] theorem modCmd_dram (id : Nat) (f : Cmd → Cmd) : (modCmd id f s).dram = s.dram := rfl
@[simp] theorem modCmd_poison (id : Nat) (f : Cmd → Cmd) : (modCmd id f s).poison = s.poison := rfl
@[simp] theorem modCmd_mem (id : Nat) (f : Cmd → Cmd) : (modCmd id f s).mem = s.mem := rfl
@[simp] theorem modCmd_ports (id : Nat) (f : Cmd → Cmd) : (modCmd id f s).ports = s.ports := rfl
@[simp] theorem modCmd_atc (id : Nat) (f : Cmd → Cmd) : (modCmd id f s).atc = s.atc := rfl
@[simp] theorem modCmd_hif (id : Nat) (f : Cmd → Cmd) : (modCmd id f s).hif = s.hif := rfl
@[simp] theorem modCmd_rook (id : Nat) (f : Cmd → Cmd) : (modCmd id f s).rook = s.rook := rfl
@[simp] theorem modCmd_flt (id : Nat) (f : Cmd → Cmd) : (modCmd id f s).flt = s.flt := rfl
@[simp] theorem modCmd_pwr (id : Nat) (f : Cmd → Cmd) : (modCmd id f s).pwr = s.pwr := rfl
@[simp] theorem modCmd_rst (id : Nat) (f : Cmd → Cmd) : (modCmd id f s).rst = s.rst := rfl

/-! ### `modSlice` -/

@[simp] theorem modSlice_pending (k : Nat) (f : Slice → Slice) : (modSlice k f s).pending = s.pending := rfl
@[simp] theorem modSlice_freeCtr (k : Nat) (f : Slice → Slice) : (modSlice k f s).freeCtr = s.freeCtr := rfl
@[simp] theorem modSlice_out (k : Nat) (f : Slice → Slice) : (modSlice k f s).out = s.out := rfl
@[simp] theorem modSlice_devtime (k : Nat) (f : Slice → Slice) : (modSlice k f s).devtime = s.devtime := rfl
@[simp] theorem modSlice_acc (k : Nat) (f : Slice → Slice) : (modSlice k f s).acc = s.acc := rfl
@[simp] theorem modSlice_regs (k : Nat) (f : Slice → Slice) : (modSlice k f s).regs = s.regs := rfl
@[simp] theorem modSlice_latch (k : Nat) (f : Slice → Slice) : (modSlice k f s).latch = s.latch := rfl
@[simp] theorem modSlice_mng (k : Nat) (f : Slice → Slice) : (modSlice k f s).mng = s.mng := rfl
@[simp] theorem modSlice_tbl (k : Nat) (f : Slice → Slice) : (modSlice k f s).tbl = s.tbl := rfl
@[simp] theorem modSlice_upd (k : Nat) (f : Slice → Slice) : (modSlice k f s).upd = s.upd := rfl
@[simp] theorem modSlice_mig (k : Nat) (f : Slice → Slice) : (modSlice k f s).mig = s.mig := rfl
@[simp] theorem modSlice_ret (k : Nat) (f : Slice → Slice) : (modSlice k f s).ret = s.ret := rfl
@[simp] theorem modSlice_fe (k : Nat) (f : Slice → Slice) : (modSlice k f s).fe = s.fe := rfl
@[simp] theorem modSlice_simt (k : Nat) (f : Slice → Slice) : (modSlice k f s).simt = s.simt := rfl
@[simp] theorem modSlice_mov (k : Nat) (f : Slice → Slice) : (modSlice k f s).mov = s.mov := rfl
@[simp] theorem modSlice_rat (k : Nat) (f : Slice → Slice) : (modSlice k f s).rat = s.rat := rfl
@[simp] theorem modSlice_dram (k : Nat) (f : Slice → Slice) : (modSlice k f s).dram = s.dram := rfl
@[simp] theorem modSlice_poison (k : Nat) (f : Slice → Slice) : (modSlice k f s).poison = s.poison := rfl
@[simp] theorem modSlice_mem (k : Nat) (f : Slice → Slice) : (modSlice k f s).mem = s.mem := rfl
@[simp] theorem modSlice_ports (k : Nat) (f : Slice → Slice) : (modSlice k f s).ports = s.ports := rfl
@[simp] theorem modSlice_atc (k : Nat) (f : Slice → Slice) : (modSlice k f s).atc = s.atc := rfl
@[simp] theorem modSlice_hif (k : Nat) (f : Slice → Slice) : (modSlice k f s).hif = s.hif := rfl
@[simp] theorem modSlice_rook (k : Nat) (f : Slice → Slice) : (modSlice k f s).rook = s.rook := rfl
@[simp] theorem modSlice_flt (k : Nat) (f : Slice → Slice) : (modSlice k f s).flt = s.flt := rfl
@[simp] theorem modSlice_pwr (k : Nat) (f : Slice → Slice) : (modSlice k f s).pwr = s.pwr := rfl
@[simp] theorem modSlice_rst (k : Nat) (f : Slice → Slice) : (modSlice k f s).rst = s.rst := rfl

/-! ### `modCore` -/

@[simp] theorem modCore_pending (c : Nat) (f : Core → Core) : (modCore c f s).pending = s.pending := rfl
@[simp] theorem modCore_freeCtr (c : Nat) (f : Core → Core) : (modCore c f s).freeCtr = s.freeCtr := rfl
@[simp] theorem modCore_out (c : Nat) (f : Core → Core) : (modCore c f s).out = s.out := rfl
@[simp] theorem modCore_devtime (c : Nat) (f : Core → Core) : (modCore c f s).devtime = s.devtime := rfl
@[simp] theorem modCore_acc (c : Nat) (f : Core → Core) : (modCore c f s).acc = s.acc := rfl
@[simp] theorem modCore_regs (c : Nat) (f : Core → Core) : (modCore c f s).regs = s.regs := rfl
@[simp] theorem modCore_latch (c : Nat) (f : Core → Core) : (modCore c f s).latch = s.latch := rfl
@[simp] theorem modCore_mng (c : Nat) (f : Core → Core) : (modCore c f s).mng = s.mng := rfl
@[simp] theorem modCore_tbl (c : Nat) (f : Core → Core) : (modCore c f s).tbl = s.tbl := rfl
@[simp] theorem modCore_upd (c : Nat) (f : Core → Core) : (modCore c f s).upd = s.upd := rfl
@[simp] theorem modCore_mig (c : Nat) (f : Core → Core) : (modCore c f s).mig = s.mig := rfl
@[simp] theorem modCore_ret (c : Nat) (f : Core → Core) : (modCore c f s).ret = s.ret := rfl
@[simp] theorem modCore_fe (c : Nat) (f : Core → Core) : (modCore c f s).fe = s.fe := rfl
@[simp] theorem modCore_mov (c : Nat) (f : Core → Core) : (modCore c f s).mov = s.mov := rfl
@[simp] theorem modCore_dc (c : Nat) (f : Core → Core) : (modCore c f s).dc = s.dc := rfl
@[simp] theorem modCore_rat (c : Nat) (f : Core → Core) : (modCore c f s).rat = s.rat := rfl
@[simp] theorem modCore_dram (c : Nat) (f : Core → Core) : (modCore c f s).dram = s.dram := rfl
@[simp] theorem modCore_poison (c : Nat) (f : Core → Core) : (modCore c f s).poison = s.poison := rfl
@[simp] theorem modCore_mem (c : Nat) (f : Core → Core) : (modCore c f s).mem = s.mem := rfl
@[simp] theorem modCore_ports (c : Nat) (f : Core → Core) : (modCore c f s).ports = s.ports := rfl
@[simp] theorem modCore_atc (c : Nat) (f : Core → Core) : (modCore c f s).atc = s.atc := rfl
@[simp] theorem modCore_hif (c : Nat) (f : Core → Core) : (modCore c f s).hif = s.hif := rfl
@[simp] theorem modCore_rook (c : Nat) (f : Core → Core) : (modCore c f s).rook = s.rook := rfl
@[simp] theorem modCore_flt (c : Nat) (f : Core → Core) : (modCore c f s).flt = s.flt := rfl
@[simp] theorem modCore_pwr (c : Nat) (f : Core → Core) : (modCore c f s).pwr = s.pwr := rfl
@[simp] theorem modCore_rst (c : Nat) (f : Core → Core) : (modCore c f s).rst = s.rst := rfl

/-! ### `modPort` -/

@[simp] theorem modPort_pending (p : Nat) (f : Port → Port) : (modPort p f s).pending = s.pending := rfl
@[simp] theorem modPort_freeCtr (p : Nat) (f : Port → Port) : (modPort p f s).freeCtr = s.freeCtr := rfl
@[simp] theorem modPort_out (p : Nat) (f : Port → Port) : (modPort p f s).out = s.out := rfl
@[simp] theorem modPort_devtime (p : Nat) (f : Port → Port) : (modPort p f s).devtime = s.devtime := rfl
@[simp] theorem modPort_acc (p : Nat) (f : Port → Port) : (modPort p f s).acc = s.acc := rfl
@[simp] theorem modPort_regs (p : Nat) (f : Port → Port) : (modPort p f s).regs = s.regs := rfl
@[simp] theorem modPort_latch (p : Nat) (f : Port → Port) : (modPort p f s).latch = s.latch := rfl
@[simp] theorem modPort_mng (p : Nat) (f : Port → Port) : (modPort p f s).mng = s.mng := rfl
@[simp] theorem modPort_tbl (p : Nat) (f : Port → Port) : (modPort p f s).tbl = s.tbl := rfl
@[simp] theorem modPort_upd (p : Nat) (f : Port → Port) : (modPort p f s).upd = s.upd := rfl
@[simp] theorem modPort_mig (p : Nat) (f : Port → Port) : (modPort p f s).mig = s.mig := rfl
@[simp] theorem modPort_ret (p : Nat) (f : Port → Port) : (modPort p f s).ret = s.ret := rfl
@[simp] theorem modPort_fe (p : Nat) (f : Port → Port) : (modPort p f s).fe = s.fe := rfl
@[simp] theorem modPort_simt (p : Nat) (f : Port → Port) : (modPort p f s).simt = s.simt := rfl
@[simp] theorem modPort_mov (p : Nat) (f : Port → Port) : (modPort p f s).mov = s.mov := rfl
@[simp] theorem modPort_dc (p : Nat) (f : Port → Port) : (modPort p f s).dc = s.dc := rfl
@[simp] theorem modPort_rat (p : Nat) (f : Port → Port) : (modPort p f s).rat = s.rat := rfl
@[simp] theorem modPort_dram (p : Nat) (f : Port → Port) : (modPort p f s).dram = s.dram := rfl
@[simp] theorem modPort_poison (p : Nat) (f : Port → Port) : (modPort p f s).poison = s.poison := rfl
@[simp] theorem modPort_mem (p : Nat) (f : Port → Port) : (modPort p f s).mem = s.mem := rfl
@[simp] theorem modPort_atc (p : Nat) (f : Port → Port) : (modPort p f s).atc = s.atc := rfl
@[simp] theorem modPort_hif (p : Nat) (f : Port → Port) : (modPort p f s).hif = s.hif := rfl
@[simp] theorem modPort_rook (p : Nat) (f : Port → Port) : (modPort p f s).rook = s.rook := rfl
@[simp] theorem modPort_flt (p : Nat) (f : Port → Port) : (modPort p f s).flt = s.flt := rfl
@[simp] theorem modPort_pwr (p : Nat) (f : Port → Port) : (modPort p f s).pwr = s.pwr := rfl
@[simp] theorem modPort_rst (p : Nat) (f : Port → Port) : (modPort p f s).rst = s.rst := rfl

/-! ### `modXfer` -/

@[simp] theorem modXfer_pending (id : Nat) (f : Xfer → Xfer) : (modXfer id f s).pending = s.pending := rfl
@[simp] theorem modXfer_freeCtr (id : Nat) (f : Xfer → Xfer) : (modXfer id f s).freeCtr = s.freeCtr := rfl
@[simp] theorem modXfer_out (id : Nat) (f : Xfer → Xfer) : (modXfer id f s).out = s.out := rfl
@[simp] theorem modXfer_devtime (id : Nat) (f : Xfer → Xfer) : (modXfer id f s).devtime = s.devtime := rfl
@[simp] theorem modXfer_acc (id : Nat) (f : Xfer → Xfer) : (modXfer id f s).acc = s.acc := rfl
@[simp] theorem modXfer_regs (id : Nat) (f : Xfer → Xfer) : (modXfer id f s).regs = s.regs := rfl
@[simp] theorem modXfer_latch (id : Nat) (f : Xfer → Xfer) : (modXfer id f s).latch = s.latch := rfl
@[simp] theorem modXfer_mng (id : Nat) (f : Xfer → Xfer) : (modXfer id f s).mng = s.mng := rfl
@[simp] theorem modXfer_tbl (id : Nat) (f : Xfer → Xfer) : (modXfer id f s).tbl = s.tbl := rfl
@[simp] theorem modXfer_upd (id : Nat) (f : Xfer → Xfer) : (modXfer id f s).upd = s.upd := rfl
@[simp] theorem modXfer_mig (id : Nat) (f : Xfer → Xfer) : (modXfer id f s).mig = s.mig := rfl
@[simp] theorem modXfer_ret (id : Nat) (f : Xfer → Xfer) : (modXfer id f s).ret = s.ret := rfl
@[simp] theorem modXfer_fe (id : Nat) (f : Xfer → Xfer) : (modXfer id f s).fe = s.fe := rfl
@[simp] theorem modXfer_simt (id : Nat) (f : Xfer → Xfer) : (modXfer id f s).simt = s.simt := rfl
@[simp] theorem modXfer_dc (id : Nat) (f : Xfer → Xfer) : (modXfer id f s).dc = s.dc := rfl
@[simp] theorem modXfer_rat (id : Nat) (f : Xfer → Xfer) : (modXfer id f s).rat = s.rat := rfl
@[simp] theorem modXfer_dram (id : Nat) (f : Xfer → Xfer) : (modXfer id f s).dram = s.dram := rfl
@[simp] theorem modXfer_poison (id : Nat) (f : Xfer → Xfer) : (modXfer id f s).poison = s.poison := rfl
@[simp] theorem modXfer_mem (id : Nat) (f : Xfer → Xfer) : (modXfer id f s).mem = s.mem := rfl
@[simp] theorem modXfer_ports (id : Nat) (f : Xfer → Xfer) : (modXfer id f s).ports = s.ports := rfl
@[simp] theorem modXfer_atc (id : Nat) (f : Xfer → Xfer) : (modXfer id f s).atc = s.atc := rfl
@[simp] theorem modXfer_hif (id : Nat) (f : Xfer → Xfer) : (modXfer id f s).hif = s.hif := rfl
@[simp] theorem modXfer_rook (id : Nat) (f : Xfer → Xfer) : (modXfer id f s).rook = s.rook := rfl
@[simp] theorem modXfer_flt (id : Nat) (f : Xfer → Xfer) : (modXfer id f s).flt = s.flt := rfl
@[simp] theorem modXfer_pwr (id : Nat) (f : Xfer → Xfer) : (modXfer id f s).pwr = s.pwr := rfl
@[simp] theorem modXfer_rst (id : Nat) (f : Xfer → Xfer) : (modXfer id f s).rst = s.rst := rfl

/-! ### `modLaunch` -/

@[simp] theorem modLaunch_pending (l : Nat) (f : Launch → Launch) : (modLaunch l f s).pending = s.pending := rfl
@[simp] theorem modLaunch_freeCtr (l : Nat) (f : Launch → Launch) : (modLaunch l f s).freeCtr = s.freeCtr := rfl
@[simp] theorem modLaunch_out (l : Nat) (f : Launch → Launch) : (modLaunch l f s).out = s.out := rfl
@[simp] theorem modLaunch_devtime (l : Nat) (f : Launch → Launch) : (modLaunch l f s).devtime = s.devtime := rfl
@[simp] theorem modLaunch_acc (l : Nat) (f : Launch → Launch) : (modLaunch l f s).acc = s.acc := rfl
@[simp] theorem modLaunch_regs (l : Nat) (f : Launch → Launch) : (modLaunch l f s).regs = s.regs := rfl
@[simp] theorem modLaunch_latch (l : Nat) (f : Launch → Launch) : (modLaunch l f s).latch = s.latch := rfl
@[simp] theorem modLaunch_mng (l : Nat) (f : Launch → Launch) : (modLaunch l f s).mng = s.mng := rfl
@[simp] theorem modLaunch_tbl (l : Nat) (f : Launch → Launch) : (modLaunch l f s).tbl = s.tbl := rfl
@[simp] theorem modLaunch_upd (l : Nat) (f : Launch → Launch) : (modLaunch l f s).upd = s.upd := rfl
@[simp] theorem modLaunch_mig (l : Nat) (f : Launch → Launch) : (modLaunch l f s).mig = s.mig := rfl
@[simp] theorem modLaunch_ret (l : Nat) (f : Launch → Launch) : (modLaunch l f s).ret = s.ret := rfl
@[simp] theorem modLaunch_fe (l : Nat) (f : Launch → Launch) : (modLaunch l f s).fe = s.fe := rfl
@[simp] theorem modLaunch_mov (l : Nat) (f : Launch → Launch) : (modLaunch l f s).mov = s.mov := rfl
@[simp] theorem modLaunch_dc (l : Nat) (f : Launch → Launch) : (modLaunch l f s).dc = s.dc := rfl
@[simp] theorem modLaunch_rat (l : Nat) (f : Launch → Launch) : (modLaunch l f s).rat = s.rat := rfl
@[simp] theorem modLaunch_dram (l : Nat) (f : Launch → Launch) : (modLaunch l f s).dram = s.dram := rfl
@[simp] theorem modLaunch_poison (l : Nat) (f : Launch → Launch) : (modLaunch l f s).poison = s.poison := rfl
@[simp] theorem modLaunch_mem (l : Nat) (f : Launch → Launch) : (modLaunch l f s).mem = s.mem := rfl
@[simp] theorem modLaunch_ports (l : Nat) (f : Launch → Launch) : (modLaunch l f s).ports = s.ports := rfl
@[simp] theorem modLaunch_atc (l : Nat) (f : Launch → Launch) : (modLaunch l f s).atc = s.atc := rfl
@[simp] theorem modLaunch_hif (l : Nat) (f : Launch → Launch) : (modLaunch l f s).hif = s.hif := rfl
@[simp] theorem modLaunch_rook (l : Nat) (f : Launch → Launch) : (modLaunch l f s).rook = s.rook := rfl
@[simp] theorem modLaunch_flt (l : Nat) (f : Launch → Launch) : (modLaunch l f s).flt = s.flt := rfl
@[simp] theorem modLaunch_pwr (l : Nat) (f : Launch → Launch) : (modLaunch l f s).pwr = s.pwr := rfl
@[simp] theorem modLaunch_rst (l : Nat) (f : Launch → Launch) : (modLaunch l f s).rst = s.rst := rfl

/-! ### `modGroup` -/

@[simp] theorem modGroup_pending (l t g : Nat) (f : Group → Group) : (modGroup l t g f s).pending = s.pending := rfl
@[simp] theorem modGroup_freeCtr (l t g : Nat) (f : Group → Group) : (modGroup l t g f s).freeCtr = s.freeCtr := rfl
@[simp] theorem modGroup_out (l t g : Nat) (f : Group → Group) : (modGroup l t g f s).out = s.out := rfl
@[simp] theorem modGroup_devtime (l t g : Nat) (f : Group → Group) : (modGroup l t g f s).devtime = s.devtime := rfl
@[simp] theorem modGroup_acc (l t g : Nat) (f : Group → Group) : (modGroup l t g f s).acc = s.acc := rfl
@[simp] theorem modGroup_regs (l t g : Nat) (f : Group → Group) : (modGroup l t g f s).regs = s.regs := rfl
@[simp] theorem modGroup_latch (l t g : Nat) (f : Group → Group) : (modGroup l t g f s).latch = s.latch := rfl
@[simp] theorem modGroup_mng (l t g : Nat) (f : Group → Group) : (modGroup l t g f s).mng = s.mng := rfl
@[simp] theorem modGroup_tbl (l t g : Nat) (f : Group → Group) : (modGroup l t g f s).tbl = s.tbl := rfl
@[simp] theorem modGroup_upd (l t g : Nat) (f : Group → Group) : (modGroup l t g f s).upd = s.upd := rfl
@[simp] theorem modGroup_mig (l t g : Nat) (f : Group → Group) : (modGroup l t g f s).mig = s.mig := rfl
@[simp] theorem modGroup_ret (l t g : Nat) (f : Group → Group) : (modGroup l t g f s).ret = s.ret := rfl
@[simp] theorem modGroup_fe (l t g : Nat) (f : Group → Group) : (modGroup l t g f s).fe = s.fe := rfl
@[simp] theorem modGroup_mov (l t g : Nat) (f : Group → Group) : (modGroup l t g f s).mov = s.mov := rfl
@[simp] theorem modGroup_dc (l t g : Nat) (f : Group → Group) : (modGroup l t g f s).dc = s.dc := rfl
@[simp] theorem modGroup_rat (l t g : Nat) (f : Group → Group) : (modGroup l t g f s).rat = s.rat := rfl
@[simp] theorem modGroup_dram (l t g : Nat) (f : Group → Group) : (modGroup l t g f s).dram = s.dram := rfl
@[simp] theorem modGroup_poison (l t g : Nat) (f : Group → Group) : (modGroup l t g f s).poison = s.poison := rfl
@[simp] theorem modGroup_mem (l t g : Nat) (f : Group → Group) : (modGroup l t g f s).mem = s.mem := rfl
@[simp] theorem modGroup_ports (l t g : Nat) (f : Group → Group) : (modGroup l t g f s).ports = s.ports := rfl
@[simp] theorem modGroup_atc (l t g : Nat) (f : Group → Group) : (modGroup l t g f s).atc = s.atc := rfl
@[simp] theorem modGroup_hif (l t g : Nat) (f : Group → Group) : (modGroup l t g f s).hif = s.hif := rfl
@[simp] theorem modGroup_rook (l t g : Nat) (f : Group → Group) : (modGroup l t g f s).rook = s.rook := rfl
@[simp] theorem modGroup_flt (l t g : Nat) (f : Group → Group) : (modGroup l t g f s).flt = s.flt := rfl
@[simp] theorem modGroup_pwr (l t g : Nat) (f : Group → Group) : (modGroup l t g f s).pwr = s.pwr := rfl
@[simp] theorem modGroup_rst (l t g : Nat) (f : Group → Group) : (modGroup l t g f s).rst = s.rst := rfl

/-! ### `emit` -/

@[simp] theorem emit_pending (o : Out) : (emit o s).pending = s.pending := rfl
@[simp] theorem emit_freeCtr (o : Out) : (emit o s).freeCtr = s.freeCtr := rfl
@[simp] theorem emit_devtime (o : Out) : (emit o s).devtime = s.devtime := rfl
@[simp] theorem emit_acc (o : Out) : (emit o s).acc = s.acc := rfl
@[simp] theorem emit_regs (o : Out) : (emit o s).regs = s.regs := rfl
@[simp] theorem emit_latch (o : Out) : (emit o s).latch = s.latch := rfl
@[simp] theorem emit_mng (o : Out) : (emit o s).mng = s.mng := rfl
@[simp] theorem emit_tbl (o : Out) : (emit o s).tbl = s.tbl := rfl
@[simp] theorem emit_upd (o : Out) : (emit o s).upd = s.upd := rfl
@[simp] theorem emit_mig (o : Out) : (emit o s).mig = s.mig := rfl
@[simp] theorem emit_ret (o : Out) : (emit o s).ret = s.ret := rfl
@[simp] theorem emit_fe (o : Out) : (emit o s).fe = s.fe := rfl
@[simp] theorem emit_simt (o : Out) : (emit o s).simt = s.simt := rfl
@[simp] theorem emit_mov (o : Out) : (emit o s).mov = s.mov := rfl
@[simp] theorem emit_dc (o : Out) : (emit o s).dc = s.dc := rfl
@[simp] theorem emit_rat (o : Out) : (emit o s).rat = s.rat := rfl
@[simp] theorem emit_dram (o : Out) : (emit o s).dram = s.dram := rfl
@[simp] theorem emit_poison (o : Out) : (emit o s).poison = s.poison := rfl
@[simp] theorem emit_mem (o : Out) : (emit o s).mem = s.mem := rfl
@[simp] theorem emit_ports (o : Out) : (emit o s).ports = s.ports := rfl
@[simp] theorem emit_atc (o : Out) : (emit o s).atc = s.atc := rfl
@[simp] theorem emit_rook (o : Out) : (emit o s).rook = s.rook := rfl
@[simp] theorem emit_flt (o : Out) : (emit o s).flt = s.flt := rfl
@[simp] theorem emit_pwr (o : Out) : (emit o s).pwr = s.pwr := rfl
@[simp] theorem emit_rst (o : Out) : (emit o s).rst = s.rst := rfl
@[simp] theorem emit_out (o : Out) : (emit o s).out = o :: s.out := rfl

/-! ### `detect` -/

@[simp] theorem detect_pending (b : Nat) (r : Report) : (detect b r s).pending = s.pending := by
  unfold detect; split <;> rfl
@[simp] theorem detect_freeCtr (b : Nat) (r : Report) : (detect b r s).freeCtr = s.freeCtr := by
  unfold detect; split <;> rfl
@[simp] theorem detect_out (b : Nat) (r : Report) : (detect b r s).out = s.out := by
  unfold detect; split <;> rfl
@[simp] theorem detect_devtime (b : Nat) (r : Report) : (detect b r s).devtime = s.devtime := by
  unfold detect; split <;> rfl
@[simp] theorem detect_acc (b : Nat) (r : Report) : (detect b r s).acc = s.acc := by
  unfold detect; split <;> rfl
@[simp] theorem detect_regs (b : Nat) (r : Report) : (detect b r s).regs = s.regs := by
  unfold detect; split <;> rfl
@[simp] theorem detect_latch (b : Nat) (r : Report) : (detect b r s).latch = s.latch := by
  unfold detect; split <;> rfl
@[simp] theorem detect_mng (b : Nat) (r : Report) : (detect b r s).mng = s.mng := by
  unfold detect; split <;> rfl
@[simp] theorem detect_tbl (b : Nat) (r : Report) : (detect b r s).tbl = s.tbl := by
  unfold detect; split <;> rfl
@[simp] theorem detect_upd (b : Nat) (r : Report) : (detect b r s).upd = s.upd := by
  unfold detect; split <;> rfl
@[simp] theorem detect_mig (b : Nat) (r : Report) : (detect b r s).mig = s.mig := by
  unfold detect; split <;> rfl
@[simp] theorem detect_ret (b : Nat) (r : Report) : (detect b r s).ret = s.ret := by
  unfold detect; split <;> rfl
@[simp] theorem detect_fe (b : Nat) (r : Report) : (detect b r s).fe = s.fe := by
  unfold detect; split <;> rfl
@[simp] theorem detect_simt (b : Nat) (r : Report) : (detect b r s).simt = s.simt := by
  unfold detect; split <;> rfl
@[simp] theorem detect_mov (b : Nat) (r : Report) : (detect b r s).mov = s.mov := by
  unfold detect; split <;> rfl
@[simp] theorem detect_dc (b : Nat) (r : Report) : (detect b r s).dc = s.dc := by
  unfold detect; split <;> rfl
@[simp] theorem detect_rat (b : Nat) (r : Report) : (detect b r s).rat = s.rat := by
  unfold detect; split <;> rfl
@[simp] theorem detect_dram (b : Nat) (r : Report) : (detect b r s).dram = s.dram := by
  unfold detect; split <;> rfl
@[simp] theorem detect_poison (b : Nat) (r : Report) : (detect b r s).poison = s.poison := by
  unfold detect; split <;> rfl
@[simp] theorem detect_mem (b : Nat) (r : Report) : (detect b r s).mem = s.mem := by
  unfold detect; split <;> rfl
@[simp] theorem detect_ports (b : Nat) (r : Report) : (detect b r s).ports = s.ports := by
  unfold detect; split <;> rfl
@[simp] theorem detect_atc (b : Nat) (r : Report) : (detect b r s).atc = s.atc := by
  unfold detect; split <;> rfl
@[simp] theorem detect_hif (b : Nat) (r : Report) : (detect b r s).hif = s.hif := by
  unfold detect; split <;> rfl
@[simp] theorem detect_rook (b : Nat) (r : Report) : (detect b r s).rook = s.rook := by
  unfold detect; split <;> rfl
@[simp] theorem detect_pwr (b : Nat) (r : Report) : (detect b r s).pwr = s.pwr := by
  unfold detect; split <;> rfl
@[simp] theorem detect_rst (b : Nat) (r : Report) : (detect b r s).rst = s.rst := by
  unfold detect; split <;> rfl

/-! ### What the updates write -/

@[simp] theorem rset_regs (off : Nat) (v : W32) : (rset off v s).regs = rsetR s.regs off v := rfl
@[simp] theorem useFree_freeCtr : (useFree s).freeCtr = s.freeCtr + 1 := rfl
@[simp] theorem modCmd_fe (id : Nat) (f : Cmd → Cmd) : (modCmd id f s).fe = s.fe.modCmd id f := rfl
@[simp] theorem modSlice_dc (k : Nat) (f : Slice → Slice) : (modSlice k f s).dc = s.dc.modSlice k f := rfl
@[simp] theorem modPort_ports (p : Nat) (f : Port → Port) : (modPort p f s).ports = fmod {} s.ports p f := rfl

/-! ### `logAer` -/

@[simp] theorem logAer_pending (e : Aer) : (logAer e s).pending = s.pending := rfl
@[simp] theorem logAer_freeCtr (e : Aer) : (logAer e s).freeCtr = s.freeCtr := rfl
@[simp] theorem logAer_out (e : Aer) : (logAer e s).out = s.out := rfl
@[simp] theorem logAer_devtime (e : Aer) : (logAer e s).devtime = s.devtime := rfl
@[simp] theorem logAer_acc (e : Aer) : (logAer e s).acc = s.acc := rfl
@[simp] theorem logAer_regs (e : Aer) : (logAer e s).regs = s.regs := rfl
@[simp] theorem logAer_latch (e : Aer) : (logAer e s).latch = s.latch := rfl
@[simp] theorem logAer_mng (e : Aer) : (logAer e s).mng = s.mng := rfl
@[simp] theorem logAer_tbl (e : Aer) : (logAer e s).tbl = s.tbl := rfl
@[simp] theorem logAer_upd (e : Aer) : (logAer e s).upd = s.upd := rfl
@[simp] theorem logAer_mig (e : Aer) : (logAer e s).mig = s.mig := rfl
@[simp] theorem logAer_ret (e : Aer) : (logAer e s).ret = s.ret := rfl
@[simp] theorem logAer_fe (e : Aer) : (logAer e s).fe = s.fe := rfl
@[simp] theorem logAer_simt (e : Aer) : (logAer e s).simt = s.simt := rfl
@[simp] theorem logAer_mov (e : Aer) : (logAer e s).mov = s.mov := rfl
@[simp] theorem logAer_dc (e : Aer) : (logAer e s).dc = s.dc := rfl
@[simp] theorem logAer_rat (e : Aer) : (logAer e s).rat = s.rat := rfl
@[simp] theorem logAer_dram (e : Aer) : (logAer e s).dram = s.dram := rfl
@[simp] theorem logAer_poison (e : Aer) : (logAer e s).poison = s.poison := rfl
@[simp] theorem logAer_mem (e : Aer) : (logAer e s).mem = s.mem := rfl
@[simp] theorem logAer_ports (e : Aer) : (logAer e s).ports = s.ports := rfl
@[simp] theorem logAer_atc (e : Aer) : (logAer e s).atc = s.atc := rfl
@[simp] theorem logAer_rook (e : Aer) : (logAer e s).rook = s.rook := rfl
@[simp] theorem logAer_flt (e : Aer) : (logAer e s).flt = s.flt := rfl
@[simp] theorem logAer_pwr (e : Aer) : (logAer e s).pwr = s.pwr := rfl
@[simp] theorem logAer_rst (e : Aer) : (logAer e s).rst = s.rst := rfl

/-! ### `modSq` -/

@[simp] theorem modSq_pending (q : Nat) (g : Sq → Sq) : (modSq q g s).pending = s.pending := rfl
@[simp] theorem modSq_freeCtr (q : Nat) (g : Sq → Sq) : (modSq q g s).freeCtr = s.freeCtr := rfl
@[simp] theorem modSq_out (q : Nat) (g : Sq → Sq) : (modSq q g s).out = s.out := rfl
@[simp] theorem modSq_devtime (q : Nat) (g : Sq → Sq) : (modSq q g s).devtime = s.devtime := rfl
@[simp] theorem modSq_acc (q : Nat) (g : Sq → Sq) : (modSq q g s).acc = s.acc := rfl
@[simp] theorem modSq_regs (q : Nat) (g : Sq → Sq) : (modSq q g s).regs = s.regs := rfl
@[simp] theorem modSq_latch (q : Nat) (g : Sq → Sq) : (modSq q g s).latch = s.latch := rfl
@[simp] theorem modSq_mng (q : Nat) (g : Sq → Sq) : (modSq q g s).mng = s.mng := rfl
@[simp] theorem modSq_tbl (q : Nat) (g : Sq → Sq) : (modSq q g s).tbl = s.tbl := rfl
@[simp] theorem modSq_upd (q : Nat) (g : Sq → Sq) : (modSq q g s).upd = s.upd := rfl
@[simp] theorem modSq_mig (q : Nat) (g : Sq → Sq) : (modSq q g s).mig = s.mig := rfl
@[simp] theorem modSq_ret (q : Nat) (g : Sq → Sq) : (modSq q g s).ret = s.ret := rfl
@[simp] theorem modSq_simt (q : Nat) (g : Sq → Sq) : (modSq q g s).simt = s.simt := rfl
@[simp] theorem modSq_mov (q : Nat) (g : Sq → Sq) : (modSq q g s).mov = s.mov := rfl
@[simp] theorem modSq_dc (q : Nat) (g : Sq → Sq) : (modSq q g s).dc = s.dc := rfl
@[simp] theorem modSq_rat (q : Nat) (g : Sq → Sq) : (modSq q g s).rat = s.rat := rfl
@[simp] theorem modSq_dram (q : Nat) (g : Sq → Sq) : (modSq q g s).dram = s.dram := rfl
@[simp] theorem modSq_poison (q : Nat) (g : Sq → Sq) : (modSq q g s).poison = s.poison := rfl
@[simp] theorem modSq_mem (q : Nat) (g : Sq → Sq) : (modSq q g s).mem = s.mem := rfl
@[simp] theorem modSq_ports (q : Nat) (g : Sq → Sq) : (modSq q g s).ports = s.ports := rfl
@[simp] theorem modSq_atc (q : Nat) (g : Sq → Sq) : (modSq q g s).atc = s.atc := rfl
@[simp] theorem modSq_hif (q : Nat) (g : Sq → Sq) : (modSq q g s).hif = s.hif := rfl
@[simp] theorem modSq_rook (q : Nat) (g : Sq → Sq) : (modSq q g s).rook = s.rook := rfl
@[simp] theorem modSq_flt (q : Nat) (g : Sq → Sq) : (modSq q g s).flt = s.flt := rfl
@[simp] theorem modSq_pwr (q : Nat) (g : Sq → Sq) : (modSq q g s).pwr = s.pwr := rfl
@[simp] theorem modSq_rst (q : Nat) (g : Sq → Sq) : (modSq q g s).rst = s.rst := rfl

/-! ### `modStream` -/

@[simp] theorem modStream_pending (c i : Nat) (f : Stream → Stream) : (modStream c i f s).pending = s.pending := rfl
@[simp] theorem modStream_freeCtr (c i : Nat) (f : Stream → Stream) : (modStream c i f s).freeCtr = s.freeCtr := rfl
@[simp] theorem modStream_out (c i : Nat) (f : Stream → Stream) : (modStream c i f s).out = s.out := rfl
@[simp] theorem modStream_devtime (c i : Nat) (f : Stream → Stream) : (modStream c i f s).devtime = s.devtime := rfl
@[simp] theorem modStream_acc (c i : Nat) (f : Stream → Stream) : (modStream c i f s).acc = s.acc := rfl
@[simp] theorem modStream_regs (c i : Nat) (f : Stream → Stream) : (modStream c i f s).regs = s.regs := rfl
@[simp] theorem modStream_latch (c i : Nat) (f : Stream → Stream) : (modStream c i f s).latch = s.latch := rfl
@[simp] theorem modStream_mng (c i : Nat) (f : Stream → Stream) : (modStream c i f s).mng = s.mng := rfl
@[simp] theorem modStream_tbl (c i : Nat) (f : Stream → Stream) : (modStream c i f s).tbl = s.tbl := rfl
@[simp] theorem modStream_upd (c i : Nat) (f : Stream → Stream) : (modStream c i f s).upd = s.upd := rfl
@[simp] theorem modStream_mig (c i : Nat) (f : Stream → Stream) : (modStream c i f s).mig = s.mig := rfl
@[simp] theorem modStream_ret (c i : Nat) (f : Stream → Stream) : (modStream c i f s).ret = s.ret := rfl
@[simp] theorem modStream_fe (c i : Nat) (f : Stream → Stream) : (modStream c i f s).fe = s.fe := rfl
@[simp] theorem modStream_mov (c i : Nat) (f : Stream → Stream) : (modStream c i f s).mov = s.mov := rfl
@[simp] theorem modStream_dc (c i : Nat) (f : Stream → Stream) : (modStream c i f s).dc = s.dc := rfl
@[simp] theorem modStream_rat (c i : Nat) (f : Stream → Stream) : (modStream c i f s).rat = s.rat := rfl
@[simp] theorem modStream_dram (c i : Nat) (f : Stream → Stream) : (modStream c i f s).dram = s.dram := rfl
@[simp] theorem modStream_poison (c i : Nat) (f : Stream → Stream) : (modStream c i f s).poison = s.poison := rfl
@[simp] theorem modStream_mem (c i : Nat) (f : Stream → Stream) : (modStream c i f s).mem = s.mem := rfl
@[simp] theorem modStream_ports (c i : Nat) (f : Stream → Stream) : (modStream c i f s).ports = s.ports := rfl
@[simp] theorem modStream_atc (c i : Nat) (f : Stream → Stream) : (modStream c i f s).atc = s.atc := rfl
@[simp] theorem modStream_hif (c i : Nat) (f : Stream → Stream) : (modStream c i f s).hif = s.hif := rfl
@[simp] theorem modStream_rook (c i : Nat) (f : Stream → Stream) : (modStream c i f s).rook = s.rook := rfl
@[simp] theorem modStream_flt (c i : Nat) (f : Stream → Stream) : (modStream c i f s).flt = s.flt := rfl
@[simp] theorem modStream_pwr (c i : Nat) (f : Stream → Stream) : (modStream c i f s).pwr = s.pwr := rfl
@[simp] theorem modStream_rst (c i : Nat) (f : Stream → Stream) : (modStream c i f s).rst = s.rst := rfl

/-! ### `FrontEnd.serve` -/

variable (f : FrontEnd) (a : Arb) (reqs : List (Nat × Nat)) (r : Nat × Nat) (n : Nat)

@[simp] theorem FrontEnd.serve_ctxSel : (f.serve a reqs r n).ctxSel = f.ctxSel := rfl
@[simp] theorem FrontEnd.serve_ctxStaged : (f.serve a reqs r n).ctxStaged = f.ctxStaged := rfl
@[simp] theorem FrontEnd.serve_ctxResult : (f.serve a reqs r n).ctxResult = f.ctxResult := rfl
@[simp] theorem FrontEnd.serve_ctx : (f.serve a reqs r n).ctx = f.ctx := rfl
@[simp] theorem FrontEnd.serve_atgSel : (f.serve a reqs r n).atgSel = f.atgSel := rfl
@[simp] theorem FrontEnd.serve_atgStaged : (f.serve a reqs r n).atgStaged = f.atgStaged := rfl
@[simp] theorem FrontEnd.serve_atgResult : (f.serve a reqs r n).atgResult = f.atgResult := rfl
@[simp] theorem FrontEnd.serve_atg : (f.serve a reqs r n).atg = f.atg := rfl
@[simp] theorem FrontEnd.serve_sqSel : (f.serve a reqs r n).sqSel = f.sqSel := rfl
@[simp] theorem FrontEnd.serve_sqStaged : (f.serve a reqs r n).sqStaged = f.sqStaged := rfl
@[simp] theorem FrontEnd.serve_sqResult : (f.serve a reqs r n).sqResult = f.sqResult := rfl
@[simp] theorem FrontEnd.serve_sq : (f.serve a reqs r n).sq = f.sq := rfl
@[simp] theorem FrontEnd.serve_cqSel : (f.serve a reqs r n).cqSel = f.cqSel := rfl
@[simp] theorem FrontEnd.serve_cqStaged : (f.serve a reqs r n).cqStaged = f.cqStaged := rfl
@[simp] theorem FrontEnd.serve_cqResult : (f.serve a reqs r n).cqResult = f.cqResult := rfl
@[simp] theorem FrontEnd.serve_cq : (f.serve a reqs r n).cq = f.cq := rfl
@[simp] theorem FrontEnd.serve_dbap : (f.serve a reqs r n).dbap = f.dbap := rfl
@[simp] theorem FrontEnd.serve_ring : (f.serve a reqs r n).ring = f.ring := rfl
@[simp] theorem FrontEnd.serve_cmds : (f.serve a reqs r n).cmds = f.cmds := rfl
@[simp] theorem FrontEnd.serve_nextId : (f.serve a reqs r n).nextId = f.nextId := rfl
@[simp] theorem FrontEnd.serve_nextAdmit : (f.serve a reqs r n).nextAdmit = f.nextAdmit := rfl
@[simp] theorem FrontEnd.serve_tags : (f.serve a reqs r n).tags = f.tags := rfl
@[simp] theorem FrontEnd.serve_caps : (f.serve a reqs r n).caps = f.caps := rfl
@[simp] theorem FrontEnd.serve_lat : (f.serve a reqs r n).lat = f.lat := rfl
@[simp] theorem FrontEnd.serve_stopped : (f.serve a reqs r n).stopped = f.stopped := rfl
@[simp] theorem FrontEnd.serve_weightSum (l : List (Nat × Nat)) : (f.serve a reqs r n).weightSum l = f.weightSum l := rfl

end Sys2Proof.Machine
end

