-- ==== Sys2Proof/Tests/Slice0.lean ====
section
/-! SUPPORT. Tests of the model against the spec's examples, of the operands' checks, and witnesses: for every clause of every
obligation that has hypotheses, a state and operands that meet them. -/

namespace Sys2Proof.Machine

set_option Elab.async false

/-! ## Small states -/

/-- Every domain on and locked, the link up, the function configured, Rook running. -/
def tUp : State := { State.reset with
  devtime := 100000000000#64
  pwr := { porstLow := false, en := 0x7FF#11, iso := 0#11, ack := 0x7FF#11, on := 0x7FF#11, lockd := 0x7FF#11 }
  hif := { cfgReady := true, mse := true, bme := true, linkUp := true, linkHold := false }
  rook := { state := 2 } }

def tLost : State := { tUp with pwr := { tUp.pwr with refLoss := true } }
def tSafe : State := { tUp with flt := { tUp.flt with safe := true } }

/-- Bytes of a structure with little-endian fields (offset, length, value). -/
def tBytes (n : Nat) (l : List (Nat × Nat × Nat)) : Bytes :=
  l.foldl (fun b x => b.take x.1 ++ leBytes x.2.1 x.2.2 ++ b.drop (x.1 + x.2.1)) (List.replicate n 0#8)

/-- A command of context 0 from SQ 0, its home partition 0. -/
def tCmd (op : Op) (ph : Phase) (l : List (Nat × Nat × Nat)) : Cmd :=
  { id := 0, sq := 0, ctx := 0, gen := 1, op := op, opcode := 0, bytes := tBytes 128 l, phase := ph
    home := if ph = .checked then none else some 0 }

/-- Context 0 enabled in every partition, SQ 0 and CQ 0 enabled. -/
def tFe : FrontEnd := {
  ctx := [(0, { cfg := 0x80FF0000#32, state := 1, gen := 1 })]
  sq := [(0, { regs := { cfg := 0x80000000#32 } })]
  cq := [(0, { regs := { cfg := 0x80400000#32 } })] }

/-- Two contexts with a command each; the front end owes context 1 two grants' weight. -/
def tTwo : FrontEnd := { tFe with
  ctx := [(0, { cfg := 0x80FF0000#32, state := 1, gen := 1 }), (1, { cfg := 0x80FF0000#32, state := 1, gen := 1 })]
  sq := [(0, { regs := { cfg := 0x80000000#32 }, tail := 1 }), (1, { regs := { cfg := 0x80000000#32, aux := 1 }, tail := 1 })]
  owed := [(1, 2)] }

def tHas (c : Cmd) : State := { tUp with fe := { tFe with cmds := [c] } }

/-- Near and far memory behind one port pair of each partition, the map locked. -/
def tMem : MemMap := { npres := 0xFF#8, ncap := 2#7, fpres := 1#16, fcap := 1#9, lock := true, mapped := true }

/-- Region 0 is a table region, region 1 above it is not. -/
def tRat : Rat := { com := [(0, { limLo := 0x00400000#32, attr := 0x80010000#32 }),
  (1, { baseLo := 0x00400000#32, limLo := 0x00800000#32, attr := 0x80000000#32 })] }

/-- One thread of a group at the first word of region 1, in a launch on core 0 with one stream. -/
def tGrp : Group := { num := 0, pc0 := 0x400000, exited := 0xFFFFFFFE#32 }
def tTeam (g : Group) : Team := { num := 0, core := 0, lsBase := 0, groups := [g] }
def tLaunch (g : Group) : Launch :=
  { id := 0, ctx := 0, gen := 1, cmd := 0, cid := 0, code := 0x400000, arg := 0, split := 0, regs := 256, teamGroups := 1
    nteams := 1, lsKib := 1, cluster := none, home := 0, resident := false, handle := 0, common := false, pdt := []
    placed := 1, teams := [tTeam g] }
def tRun (l : Launch) : State := { tUp with
  fe := tFe
  mem := tMem
  rat := tRat
  simt := { launches := [l], nextLaunch := 1 } }
def tSimt (g : Group) : State := tRun (tLaunch g)

/-- The row's word of the group's thread 0, from fields (lowest bit, value). -/
def tWord (l : List (Nat × Nat)) : Issue :=
  { launch := 0, team := 0, group := 0, lane := 0, bits := BitVec.ofNat 56 (l.foldl (fun n x => n + x.2 * 2 ^ (x.1 - 8)) 0) }

/-- Fields that a row's word needs so as to be a defined instruction. -/
def tFields (opc : Nat) : List (Nat × Nat) :=
  if opc = 0x30 || opc = 0x32 then [(8, 7)] else if opc = 0x44 then [(40, 31)] else if 0xA2 ≤ opc && opc ≤ 0xA3 then [(40, 2)] else []

def tRaw (s : State) (opc : Nat) (x : Issue) : Path :=
  (pathOf s opc x).getD { l := tLaunch tGrp, t := tTeam tGrp, g := tGrp, pc := 0, lanes := [], act := [], w := 0 }
def tPath (s : State) (opc : Nat) (x : Issue) : Path := (tRaw s opc x).issue

def tIssues (s : State) (opc : Nat) (x : Issue) : Bool :=
  decide (Runs (simtDom s x.launch x.team) s) && (match pathOf s opc x with
    | some p => allowed s p.pc 8 && wordOk p.l.regs p.w && decide (p.act ≠ [])
    | none => false)

theorem tIssues_issues {s : State} {opc : Nat} {x : Issue} (h : tIssues s opc x = true) :
    Issues s opc x (tPath s opc x) := by
  unfold tIssues at h
  unfold Issues tPath tRaw
  cases hp : pathOf s opc x with
  | none => simp [hp] at h
  | some p =>
    simp only [hp, Bool.and_eq_true, decide_eq_true_eq] at h
    exact ⟨h.1, by simp, h.2.1.1, h.2.1.2, h.2.2⟩

theorem tMap {s : State} {opc : Nat} {x : Issue} (h : (pathOf s opc x).isSome = true) :
    (pathOf s opc x).map Path.issue = some (tPath s opc x) := by
  unfold tPath tRaw
  cases hp : pathOf s opc x <;> simp_all

theorem tSome {α : Type} {o : Option α} (d : α) (h : o.isSome = true) : o = some (o.getD d) := by
  cases o <;> simp_all

theorem tPair {α : Type} {q : α × Bool} (h : q.2 = true) : q = (q.1, true) := by
  cases q; simp_all

def tOk : Plan → List Piece
  | .ok ps => ps
  | _ => []
def tIsOk : Plan → Bool
  | .ok _ => true
  | _ => false
theorem tPlan {q : Plan} (h : tIsOk q = true) : q = .ok (tOk q) := by
  cases q <;> simp_all [tIsOk, tOk]

/-- A table of two rows of four INT8 elements in region 0, in every partition. -/
def tDesc : TblDesc :=
  { cfg := 0x80000000#32, geom := 0x00020004#32, rowsLo := 1, shard := 0xFF#32, bLo := 0x1000#32 }

def tTab : State := { tUp with
  fe := tFe
  mem := tMem
  rat := tRat
  tbl := { desc := [(0, tDesc)] } }

/-- Context 0 may use host page 0. -/
def tAtc (w : Bool) : Atc := { ents := [{ pasid := 0, ctx := 0, gen := 1, page := 0, ppn := 0, r := w, w := w, noWrite := false }] }

def tTabHas (c : Cmd) : State := { tTab with fe := { tFe with cmds := [c] } }

/-- A gather of one bag of one position in the row that every read of it misses. -/
def tPos : Pos := { bag := 0, ix := 0, aux := 0, table := 0, part := 0 }
def tGather (st : GStage) (ps : List Pos) (sub : SubState) : Gather :=
  { stage := st, bags := [(0, 1)], pos := ps, subs := [(0, sub)] }
def tGath (g : Gather) (l : List (Nat × Nat × Nat)) : Cmd :=
  { tCmd .gatherPool .running l with work := .gather g, tables := [(0, tDesc)] }

/-- A whole line without poison, as returned to its requester. -/
def tGot (line : Nat) : Got := { line := line, sm := 0xF, data := List.replicate 128 0#8, poison := 0 }

/-- The group's core has the line of host page 0 from its home, which owns it; context 0 may use the page and has an atomic grant. -/
def tHost (g : Group) (w : Bool) : State :=
  modSlice (lineHome hostLine) (fun sl => { sl with lines := [{ newLine 0 0 hostLine with h0 := .E, h1 := .E }] }) { tSimt g with
    atc := tAtc w
    fe := { tFe with atg := [(0, { lo := 12#32, hi := 0x80000000#32 })] }
    simt := { (tSimt g).simt with cores := [(0, { ret := [tGot hostLine] })] } }

/-- A work item that its kernel has taken. -/
def tItem : Item := { tag := 5, arg := 0, cmd := 1, taken := true }

/-- A tile of one line of one INT8 block at local-store offset 0, its header at 512; `role` as R176. -/
def tTile (role : Bool) : BitVec 128 := 0x00000000000002000000000000000000#128 ||| (if role then 0x80000000#128 else 0#128)

/-- The group's launch holds stream 0 of its core. -/
def tPress (st : Stream) : State := { tSimt tGrp with
  simt := { (tRun { tLaunch tGrp with pdt := [tTile false, tTile true] }).simt with streams := [(0, { st with launch := some 0 })] } }
def tIns (opc : Byte) : PressIns := { opc := opc, word := opc.setWidth 64, adj := 0, hreg := 0, tok := 0 }

def tXfer : Xfer := { id := 0, owner := .simt 0 0 0 0 0 0, ctx := 0, gen := 1, desc := [] }
def tMove (x : Xfer) : State := { tSimt tGrp with mov := { xfers := [x], next := 1 }, hif := { tUp.hif with prAlloc := 1 } }

/-- Device line 5 in its home slice, and a core's side of it. -/
def tLine (f : Slice → Slice) (k : Core) : State :=
  modSlice (lineHome 5) f { tTab with simt := { cores := [(255, k)] } }
def tTxn (sn an : List Nat) : Txn :=
  { line := 5, kind := .recall, inval := true, snoops := sn, answers := an, data := none, kept := false, since := 0 }
def tStore : StoreEnt := { launch := 0, cmd := 0, team := 0, group := 0, lanes := [0], line := 5, bytes := [(640, 1#8)], level := .core }
def tL1 : L1Line := { line := 5, set := 0, way := 0, st := .M, data := [], poison := 0 }

def tReq : XlatReq :=
  { id := 7, pasid := 0, ctx := 0, gen := 1, page := 3, noWrite := true, who := .prefetch, va := 0, pc := 0, since := 0 }

/-- Port 143, the last far one, with requests sent. -/
def tPort (l : List PReq) : State := { tTab with mem := { tMem with fpres := 0x8000#16 }, ports := [(143, { sent := l, cap := 1 })] }
def tReqOp (op : POp) (who : Requester) : PReq := { op := op, tag := 3, dline := 0, smask := 1, who := who }

/-- HVDM of one 256-MiB unit, decoded at 4 GiB. -/
def tHvdm : State := { tTab with
  mem := { tMem with hvdm0 := 1#32 }
  hif := { tUp.hif with hdm := [(0, { base := 0x100000000, size := 0x10000000, committed := true })] } }
def tD2h (op : D2hOp) : D2h := { tag := 9, op := op, pa := 0 }

def tReset (kind : ResetKind) (k : Nat) (fromSafe : Bool) : State :=
  { tUp with fe := tFe, rst := [{ kind := kind, index := k, start := 0, fromSafe := fromSafe, asked := true }] }

def tIntake : Intake :=
  { buf := 8, isOver := false, rep := report 0x43 none locHif none 0, gen := 0, time := 0, react := classReact 6 }
def tRec (n : Nat) : Rec := newRec n 1 (classReact 1) { tIntake with rep := report 0x06 (some 0) (locCore 0) none 0 }

/-- A management command without an answer. -/
def tJob (src : JobSrc) (op : Nat) (b : Bytes) : Job := { id := 0, src := src, opcode := op, payload := b }
def tMail (op : Nat) (b : Bytes) : Job := tJob (.mailbox 15) op b
def tRook (j : Job) (r : Rook) : State := { tTab with rook := { r with state := 2, jobs := [j], nextJob := 1 } }

/-- An image of one byte in slot `k` with a sequence number (R401). -/
def tImage (k seq : Nat) (r : Rook) : Rook :=
  let h := tBytes 0x3C [(0, 4, 0x4B4F4F52), (4, 4, seq), (0xC, 4, 1), (0x14, 4, crc32c [0#8])]
  flashWrite (slotBase k + 256) [0#8] (flashWrite (slotBase k) (h ++ leBytes 4 (crc32c h)) r)
def tConfig (r : Rook) : Rook :=
  let b := tBytes 0x3C [(0, 4, 0x47464343)]
  flashWrite 0x10000 (b ++ leBytes 4 (crc32c b)) r

def tEntry : CatEntry := { table := 1, okA := true, okB := false, desc := tDesc, dgA := 7, dgB := 0 }
def tCat : Catalogue := { seq := 1, reason := 4, version := 0, entries := [tEntry] }
def tKept (j : Job) : State := { tRook j {} with ret := { list := some tCat } }
def tSession (src : JobSrc) : FwSession := { owner := src, slot := 1, len := 256, last := 0 }

/-! ## Operands -/

/-- No operand beyond its range is a command's. -/
theorem test_illFormed_refused :
    ([.tailDoorbell 16384 ⟨[none, none, none, none], false⟩, .tailDoorbell 0 ⟨[none], false⟩, .dbapSlotWrite 0 0xFFF ⟨[none, none], false⟩,
      .phaseTagLineIssue 4096, .coalesceDelayExpiry 4096, .pllStop 8, .rowSectorArrival 0 0 0 64, .upapRead 0xFFFFFF 2,
      .plapRead 0xFFFFFFF 2, .upwClose 16 0 0, .rowCommit 64, .returnHomeDone 16384 0 0, .digestScanDone 0 2,
      .loReadLatch 2 0, .mngFreeze 10 0 0, .rcRead 0x1FFFFFC [0, 0], .l1ctlWrite 64 0 0, .registerWrite 0x2000000 ⟨[], false⟩,
      .add { launch := 0, team := 0, group := 0, lane := 32, bits := 0 }, .pressInstrStart 256 0, .pressInstrComplete 0 2 0,
      .teamPlace 0 256, .prgResponse 512 0, .prgResponse 0 16, .atsInvalidationRequest 32 0 0 1, .invalidationCompletion 32,
      .reservationExpiry 0 0 0 32, .snpInv 32, .d2hResponse 0 [0] .S, .memRd 1, .memWr 0 [] false, .portCredit 144,
      .portReadData 0 0 [.ok], .configRequest (.msixMask 4096 true), .hdmDecoderCommit 2 0 0 true true, .ideCheckFail 4,
      .sidebandRequest 8 0 [], .setEndpointId 256, .faultReport 9 none, .endOverrun ⟨0, 0⟩ 0 16384 0 0,
      .resetOverrun .cluster 72 .partition 0, .pdomAck 11 true, .clockStop 72, .tempSample [], .resetComplete .context 4096,
      .resetComplete .partition 8, .resetComplete .block 1] : List Instr).all (fun c => !c.wellFormed) = true := by decide +kernel

theorem test_wellFormed_accepted :
    ([.tailDoorbell 16383 ⟨[none, none, none, some 0], false⟩, .upapRead 0xFFFFFE 2, .plapRead 0xFFFFFFF 1, .rowCommit 63,
      .rcRead 0x1FFFFF8 [0, 0], .pressInstrStart 255 1, .portCredit 143, .resetComplete .cluster 71, .clockStop 71,
      .snpInv 64, .admission 5] : List Instr).all (fun c => c.wellFormed) = true := by decide +kernel

/-! ## The block's queue -/

theorem test_noWordSpellsACommand : ([0, 8, 64].all fun n => (decodeTableWord n 0).isNone) = true := by decide +kernel

theorem test_withFetchWord_unchanged : tUp.withFetchWord 64 7 = tUp := by decide +kernel

/-- PORST_N released, the Rook's domain powered and locked: the first steps after reset (R465, R467). -/
theorem test_porstRelease_startsPower :
    (match exec .porstDeassert State.reset with
      | .next s => (s.pwr.porstLow, s.pwr.en, s.out)
      | _ => (true, 0, [])) = (false, 1#11, [.pdomEn 0 true]) := by decide +kernel

/-! ## Worked examples of the spec -/

/-- The binary32 row of the example after R56. -/
def tRow : List Val :=
  ([0xC0A9999A, 0x40F00000, 0x3DCCCCCD, 0x7FC00000].map (fpDecode 8)) ++ List.replicate 28 .zero
    ++ [fpDecode 8 0x3CA3D70A, .fin 49 1 (-13), .fin 51 1 (-13), fpDecode 8 0xB8D1B717] ++ List.replicate 28 .zero

/-- Example after R56: group exponent, deltas and codes of the row in IB8. -/
theorem test_ib8_row :
    ((convert 0 0 tRow).q.er, (convert 0 0 tRow).q.d,
      (blockImage 0 0 ((convert 0 0 tRow).q.blocks.getD 0 [])).1.take 5, (blockImage 0 0 ((convert 0 0 tRow).q.blocks.getD 1 [])).1.take 5)
    = (0x7B, [0, 8], [0xAB#8, 0x78#8, 0x02#8, 0x80#8, 0#8], [0x52#8, 0x18#8, 0x1A#8, 0#8, 0#8]) := by decide +kernel

/-- Example after R80: what the same row adds to a Mangle site, and the block that the precision guard flags. -/
theorem test_mangle_counts :
    let m := ({} : MngSite).add (convert 0 0 tRow).elems 0
    (m.cnt, m.sse, m.spec, m.under, m.sat, flagged 2048 (convert 0 0 tRow).elems) = (64#48, 57198#48, 1, 1, 0, [1]) := by
  decide +kernel

/-- Example after R56: a delta that clamps at 15. -/
theorem test_ib8_delta_clamps :
    let x := (tRow.take 32) ++ [fpDecode 8 0x37A7C5AC] ++ List.replicate 31 .zero
    ((convert 0 0 x).q.d, (blockImage 0 0 ((convert 0 0 x).q.blocks.getD 1 [])).1.take 1) = ([0, 15], [10#8]) := by decide +kernel

/-- Example after R64: −5.3 as DP8 beside 7.5. -/
theorem test_dp8_pair :
    let q := quantise 5 0 [[fpDecode 8 0xC0A9999A, fpDecode 8 0x40F00000] ++ List.replicate 30 .zero]
    (binCode 8 (q.val 5 0 0)).1 = 0xC0A99800 := by decide +kernel

/-- Example after R64: IB8 block 0 into MXFP8 E4M3. -/
theorem test_mxfp8_block :
    let c := convert 0x11 0 ([.fin (-85) 1 (-4), .fin 120 1 (-4), .fin 2 1 (-4), .nan] ++ List.replicate 28 .zero)
    (c.scales, c.codes.take 5) = ([0x79], [0xFB, 0x7E, 0x50, 0x7F, 0]) := by decide +kernel

/-- Example after R70: bins of five binary16 scores. -/
theorem test_histogram_bins :
    ([0x3A00, 0x01F7, 0, 0x4D00, 0x7E00].map fun v => histBin (fpDecode 9 v)) = [33, 18, 0, 38, 39] := by decide +kernel

/-- Example after R92: sizes of rows. -/
theorem test_row_sizes : (rowSize 0 0 32, rowSize 3 0 64, rowSize 4 4 128, rowSize 0 0 1984) = (40, 40, 56, 2024) := by
  decide +kernel

/-- Example after R112: the weight of age 5 with HALF_LIFE = 4. -/
theorem test_decay_weight : (decTable.getD (16 * 5 / 4 % 16) 0, 15 + 16 * 5 / 4 / 16) = (27554, 16) := by decide +kernel

/-- Example after R116: the mean of a bag over two partitions, in binary16. -/
theorem test_mean_pool :
    let p2 := accContribution poolBound (accEmpty 2) [(.int 100, -6), (.int (-3), -6)]
    let p5 := accContribution poolBound (accEmpty 2) [(.int 90, -2), (.int 7, -2)]
    let h := accContribution poolBound (accContribution poolBound (accEmpty 2) (partialTerms p2)) (partialTerms p5)
    (h.e, h.a, (binCode 9 (accVal h 3 0)).1, (binCode 9 (accVal h 3 1)).1) = (some (-6), [1540, 109], 0x4803, 0x388B) := by
  decide +kernel

/-- Example after R184: two blocks reach an accumulator element. -/
theorem test_pmma_align :
    let a := accElem pressBound (some (-13)) (accEmpty 1) 0 (.int 3000) (-13)
    let b := accElem pressBound (some (-15)) a 0 (.int (-1201)) (-15)
    (a.e, b.e, b.a) = (some (-13), some (-13), [2700]) := by decide +kernel

/-- Example after R218: one point of a sigmoid table. -/
theorem test_tli_sigmoid :
    let t := placed 0 (leBytes 4 (2 ^ 32 - 524288) ++ [14#8, 6#8]) ++ placed (8 + 66) (leBytes 2 18421 ++ leBytes 2 20397)
    tliOf { tSimt tGrp with simt := { (tSimt tGrp).simt with cores := [(0, { ls := memWrite [] t })] } } (tLaunch tGrp) 0 19661 0
      = .val 1233140064#32 := by decide +kernel

/-- Example after R377: the near port and port line of an HVDM address. -/
theorem test_port_of_address :
    ({ npres := 0xFF#8, ncap := 48#7, nloc := 4#7, lock := true, mapped := true } : MemMap).port 0x412345680
      = some (55, 0x08246880 / 128) := by decide +kernel

/-- R496: a write of some bytes of a register is counted with reason 1; none enabled has no effect. -/
theorem test_partial_write :
    (match exec (.registerWrite 0x120004 ⟨[(5, 0x1#4)], false⟩) tUp, exec (.registerWrite 0x120004 ⟨[(5, 0#4)], false⟩) tUp with
      | .next s, .next t => (s.acc, s.regs, decide (t = tUp))
      | _, _ => ({}, [(0, 0)], false)) = ({ reason := 1, count := 1, offset := 0x120004#25 }, [], true) := by decide +kernel

/-! ## Witnesses of what the obligations assume -/

/-- What each clause of StepRunsFrontCommand assumes is met. -/
theorem witness_StepRunsFrontCommand :
    ∃ (s : State) (c : Instr) (rest : List Instr), s.pending = c :: rest :=
  ⟨{ tUp with pending := [.portAbsent, .porstAssert] }, .portAbsent, [.porstAssert], by decide +kernel⟩

/-- What each clause of IdleStepIsOneAclkEdge assumes is met. -/
theorem witness_IdleStepIsOneAclkEdge :
    ∃ (s : State), s.pending = [] ∧ s.pwr.porstLow = false :=
  ⟨tUp, by decide +kernel⟩

/-- What each clause of PorstHoldsTheResetState assumes is met. -/
theorem witness_PorstHoldsTheResetState :
    (∃ (s t : State), HeldByPorst s ∧ (∀ c ∈ s.pending, c ≠ .porstDeassert) ∧ step s = .next t)
    ∧ (∃ (s t : State) (c : Instr), HeldByPorst s ∧ (∀ c ∈ s.pending, c ≠ .porstDeassert) ∧ step s = .next t ∧ c ∈ t.pending) :=
  ⟨⟨{ State.reset with pending := [.perstAssert] },
      (match step { State.reset with pending := [.perstAssert] } with | .next t => t | _ => State.reset),
      by unfold HeldByPorst; decide +kernel, by decide +kernel, rfl⟩,
   ⟨{ State.reset with pending := [.porstAssert, .perstAssert] },
      (match step { State.reset with pending := [.porstAssert, .perstAssert] } with | .next t => t | _ => State.reset),
      .perstAssert, by unfold HeldByPorst; decide +kernel, by decide +kernel, rfl, by decide +kernel⟩⟩

/-- What each clause of LostReferenceStopsTheOtherDomains assumes is met. -/
theorem witness_LostReferenceStopsTheOtherDomains :
    (∃ (s : State) (c : Instr), s.pwr.refLoss = true ∧ onAon c = false)
    ∧ (∃ (s : State) (c : Instr), s.pwr.refLoss = true ∧ onAon c = true) :=
  ⟨⟨tLost, .admission 0, by decide +kernel⟩,
   ⟨tLost, .porstAssert, by decide +kernel⟩⟩

/-- What each clause of NoCommandStopsWithItsReference assumes is met. -/
theorem witness_NoCommandStopsWithItsReference :
    ∃ (s : State), s.pwr.refLoss = false :=
  ⟨tUp, by decide +kernel⟩

/-- What each clause of AdmissionTakesHomeOrRefuses assumes is met. -/
theorem witness_AdmissionTakesHomeOrRefuses :
    (∃ (s : State) (id : Nat) (c : Cmd), Runs .fab s ∧ s.fe.cmd id = some c ∧ c.op ≠ .move ∧ admittable s c = true ∧ pdtWaits s
      c = false ∧ admitStatus s c (chooseHome s (s.fe.ctxOf c.ctx).pmask) ≠ 0)
    ∧ (∃ (s : State) (id home : Nat) (c : Cmd), Runs .fab s ∧ s.fe.cmd id = some c ∧ c.op ≠ .move ∧ admittable s c = true ∧
      pdtWaits s c = false ∧ chooseHome s (s.fe.ctxOf c.ctx).pmask = some home ∧ admitStatus s c (some home) = 0 ∧ (hdrDeadline
      c.bytes = 0 ∨ resignableOp c.op = false ∨ (s.devtime.toNat < hdrDeadline c.bytes ∧ (s.fe.ctxOf c.ctx).pred = false)))
    ∧ (∃ (s : State) (id home : Nat) (c : Cmd), Runs .fab s ∧ s.fe.cmd id = some c ∧ c.op = .gatherPool ∧ admittable s c = true
      ∧ chooseHome s (s.fe.ctxOf c.ctx).pmask = some home ∧ admitStatus s c (some home) = 0 ∧ hdrDeadline c.bytes ≠ 0 ∧
      hdrDeadline c.bytes ≤ s.devtime.toNat)
    ∧ (∃ (s : State) (id home : Nat) (c : Cmd), Runs .fab s ∧ s.fe.cmd id = some c ∧ c.op = .nop ∧ admittable s c = true ∧
      chooseHome s (s.fe.ctxOf c.ctx).pmask = some home ∧ admitStatus s c (some home) = 0) :=
  ⟨⟨tHas (tCmd .gatherPool .checked []), 0, tCmd .gatherPool .checked [], by decide +kernel⟩,
   ⟨tHas (tCmd .nop .checked []), 0, 0, tCmd .nop .checked [], by decide +kernel⟩,
   ⟨tHas (tCmd .gatherPool .checked [(1, 1, 4), (8, 8, 1)]), 0, 0, tCmd .gatherPool .checked [(1, 1, 4), (8, 8, 1)],
      by decide +kernel⟩,
   ⟨tHas (tCmd .nop .checked []), 0, 0, tCmd .nop .checked [], by decide +kernel⟩⟩

/-- What each clause of OpcodesStart assumes is met. -/
theorem witness_OpcodesStart :
    (∃ (s : State) (id : Nat) (c : Cmd), Runs .fab s ∧ InPhase s id .nop .admitted c)
    ∧ (∃ (s : State) (id : Nat) (c : Cmd), Runs .fab s ∧ InPhase s id .fence .admitted c)
    ∧ (∃ (s : State) (id : Nat) (c : Cmd), Runs .fab s ∧ InPhase s id .signal .admitted c)
    ∧ (∃ (s : State) (id : Nat) (c : Cmd), Runs .fab s ∧ InPhase s id .timestamp .admitted c)
    ∧ (∃ (s : State) (id : Nat) (c : Cmd), Runs .fab s ∧ InPhase s id .commit .admitted c)
    ∧ (∃ (s : State) (id : Nat) (c : Cmd), Runs .fab s ∧ InPhase s id .castle .admitted c)
    ∧ (∃ (s : State) (id : Nat) (c : Cmd), Runs .fab s ∧ InPhase s id .gatherPool .admitted c ∧ hdrForm c.bytes = true)
    ∧ (∃ (s : State) (id : Nat) (c : Cmd), Runs .fab s ∧ InPhase s id .gatherPool .admitted c ∧ hdrForm c.bytes = false ∧
      (inlinePos c).any (fun x => decide (x.part < 8)) = true)
    ∧ (∃ (s : State) (id : Nat) (c : Cmd), Runs .fab s ∧ InPhase s id .seqPool .admitted c ∧ gpRange c.bytes = true) :=
  ⟨⟨tHas (tCmd .nop .admitted []), 0, tCmd .nop .admitted [], by decide +kernel⟩,
   ⟨tHas (tCmd .fence .admitted []), 0, tCmd .fence .admitted [], by decide +kernel⟩,
   ⟨tHas (tCmd .signal .admitted []), 0, tCmd .signal .admitted [], by decide +kernel⟩,
   ⟨tHas (tCmd .timestamp .admitted []), 0, tCmd .timestamp .admitted [], by decide +kernel⟩,
   ⟨tHas (tCmd .commit .admitted []), 0, tCmd .commit .admitted [], by decide +kernel⟩,
   ⟨tHas (tCmd .castle .admitted []), 0, tCmd .castle .admitted [], by decide +kernel⟩,
   ⟨tHas (tCmd .gatherPool .admitted [(1, 1, 4)]), 0, tCmd .gatherPool .admitted [(1, 1, 4)], by decide +kernel⟩,
   ⟨tHas (tCmd .gatherPool .admitted [(1, 1, 1), (0x40, 1, 1)]), 0, tCmd .gatherPool .admitted [(1, 1, 1), (0x40, 1, 1)],
      by decide +kernel⟩,
   ⟨tHas (tCmd .seqPool .admitted [(0x26, 1, 0x80), (0x34, 4, 1)]), 0, tCmd .seqPool .admitted [(0x26, 1, 0x80), (0x34, 4,
      1)], by decide +kernel⟩⟩

/-- What each clause of OrderingPointsAndLimitsEndCommands assumes is met. -/
theorem witness_OrderingPointsAndLimitsEndCommands :
    (∃ (s : State) (id : Nat) (c : Cmd), Runs .fab s ∧ InPhase s id .fence .orderWait c ∧ (∀ d ∈ s.fe.cmds, d.sq = c.sq → c.id
      ≤ d.id))
    ∧ (∃ (s : State) (id : Nat) (c : Cmd), Runs .fab s ∧ InPhase s id .signal .orderWait c ∧ (∀ d ∈ s.fe.cmds, d.sq = c.sq →
      c.id ≤ d.id) ∧ c.wrote = false ∧ sgSpace c.bytes = 1 ∧ allowed s (sgAddr c.bytes) 8 = true)
    ∧ (∃ (s : State) (id : Nat) (c : Cmd), Runs .fab s ∧ InPhase s id .timestamp .orderWait c ∧ (∀ d ∈ s.fe.cmds, d.sq = c.sq →
      c.id ≤ d.id) ∧ c.wrote = false ∧ sgSpace c.bytes = 1 ∧ allowed s (sgAddr c.bytes) 8 = true)
    ∧ (∃ (s : State) (id : Nat) (c : Cmd), Runs .fab s ∧ InPhase s id .signal .orderWait c ∧ (∀ d ∈ s.fe.cmds, d.sq = c.sq →
      c.id ≤ d.id) ∧ c.wrote = false ∧ sgSpace c.bytes = 1 ∧ allowed s (sgAddr c.bytes) 8 = false)
    ∧ (∃ (s : State) (id : Nat) (c : Cmd), Runs .fab s ∧ s.fe.cmd id = some c ∧ resignable s c = true ∧ bit c.cfg 29 = true ∧
      hdrDeadline c.bytes ≠ 0 ∧ hdrDeadline c.bytes ≤ s.devtime.toNat)
    ∧ (∃ (s : State) (id : Nat) (c : Cmd), Runs .fab s ∧ s.fe.cmd id = some c ∧ c.home.isSome = true ∧ c.phase ≠ .checked ∧
      unfinished s c = true ∧ launchEnding s c = false ∧ wdogLimit c ≤ s.devtime.toNat - c.tAdmit.toNat) :=
  ⟨⟨tHas (tCmd .fence .orderWait []), 0, tCmd .fence .orderWait [], by decide +kernel⟩,
   ⟨tTabHas (tCmd .signal .orderWait [(0x20, 8, 0x400000), (0x28, 8, 7), (0x30, 1, 1)]), 0, tCmd .signal .orderWait [(0x20, 8,
      0x400000), (0x28, 8, 7), (0x30, 1, 1)], by decide +kernel⟩,
   ⟨tTabHas (tCmd .timestamp .orderWait [(0x20, 8, 0x400000), (0x28, 8, 7), (0x30, 1, 1)]), 0, tCmd .timestamp .orderWait
      [(0x20, 8, 0x400000), (0x28, 8, 7), (0x30, 1, 1)], by decide +kernel⟩,
   ⟨tHas (tCmd .signal .orderWait [(0x20, 8, 0xFFF0000000000), (0x28, 8, 7), (0x30, 1, 1)]), 0, tCmd .signal .orderWait [(0x20,
      8, 0xFFF0000000000), (0x28, 8, 7), (0x30, 1, 1)], by decide +kernel⟩,
   ⟨tHas { tCmd .gatherPool .running [(8, 8, 1)] with cfg := 0x20000000#32 }, 0,
      { tCmd .gatherPool .running [(8, 8, 1)] with cfg := 0x20000000#32 }, by decide +kernel⟩,
   ⟨tHas (tCmd .fence .orderWait []), 0, tCmd .fence .orderWait [], by decide +kernel⟩⟩

/-- What each clause of CommandsAreReadAtHead assumes is met. -/
theorem witness_CommandsAreReadAtHead :
    (∃ (s : State) (sq : Nat), Runs .fab s ∧ headReady s sq = true ∧
      s.fe.mayServe .front (frontReqs s) ((s.fe.sqOf sq).ctx, sq) = true)
    ∧ (∃ (s : State) (sq ctx : Nat), Runs .fab s ∧ headReady s sq = true ∧
      s.fe.isDue .front (frontReqs s) (s.fe.sqOf sq).ctx = false ∧ ctx ∈ reqCtxs (frontReqs s) ∧
      s.fe.isDue .front (frontReqs s) ctx = true)
    ∧ (∃ (s : State) (sq : Nat), Runs .fab s ∧ (s.fe.sqOf sq).en = true ∧ (s.fe.sqOf sq).isRing = true ∧
      (s.fe.sqOf sq).err = false) :=
  ⟨⟨{ tUp with fe := { tFe with sq := [(0, { regs := { cfg := 0x80000000#32 }, tail := 1 })] } }, 0, by decide +kernel⟩,
   ⟨{ tUp with fe := tTwo }, 0, 1, by decide +kernel⟩,
   ⟨{ tUp with fe := { tFe with sq := [(0, { regs := { cfg := 0xC0000000#32 } })] } }, 0, by decide +kernel⟩⟩

/-- What each clause of DoorbellsAndSlots assumes is met. -/
theorem witness_DoorbellsAndSlots :
    (∃ (s : State) (sq off : Nat), Runs .hif s ∧ ctlReach s = true ∧ s.flt.safe = false ∧ portHeld s = false ∧
      sq < 16384 ∧ 0x40 ≤ off)
    ∧ (∃ (s : State) (sq : Nat) (b0 b1 b2 b3 : Byte), Runs .hif s ∧ ctlReach s = true ∧ s.flt.safe = false ∧ portHeld s = false
      ∧ sq < 16384 ∧ (s.fe.sqOf sq).en = true ∧ (s.fe.sqOf sq).err = false ∧ s.rook.qstate ≠ 3 ∧ leNat [b0, b1, b2, b3] < 2 ^
      15 ∧ leNat [b0, b1, b2, b3] < (s.fe.sqOf sq).size)
    ∧ (∃ (s : State) (sq : Nat), Runs .hif s ∧ ctlReach s = true ∧ s.flt.safe = false ∧ portHeld s = false ∧ sq < 16384 ∧
      (s.fe.sqOf sq).en = false) :=
  ⟨⟨tUp, 16383, 0x40, by decide +kernel⟩,
   ⟨{ tUp with fe := tFe }, 0, 62#8, 0#8, 0#8, 0#8, by decide +kernel⟩,
   ⟨{ tUp with fe := tFe }, 16383, by decide +kernel⟩⟩

/-- What each clause of CompletionRecordsAreIssued assumes is met. -/
theorem witness_CompletionRecordsAreIssued :
    (∃ (s : State) (id : Nat) (c : Cmd), Runs .fab s ∧ s.fe.cmd id = some c ∧ c.phase = .ready ∧ s.flt.safe = false ∧
      c.waitsReport = false ∧ releaseInForce s c = false ∧ recordMayIssue (untag id s) c = true ∧ (s.fe.cqOf c.cq).en = true ∧
      (s.fe.cqOf c.cq).err = false ∧ (s.fe.cqOf c.cq).full = false ∧ (s.fe.cqOf c.cq).dev = true ∧ (∀ i ∈ [0, 1, 2], allowed
      (untag id s) ((s.fe.cqOf c.cq).base + 192 * (s.fe.cqOf c.cq).tail + 64 * i) 64 = true))
    ∧ (∃ (s : State) (cq : Nat) (t : TagLine), Runs .fab s ∧ s.flt.safe = false ∧ (s.fe.tags.find? fun x => x.cq = cq &&
      !x.sent && !whoOut s (.record x.id)) = some t ∧ t.failed = false)
    ∧ (∃ (s : State) (id : Nat) (c : Cmd), Runs .fab s ∧ s.fe.cmd id = some c ∧ c.phase = .ready ∧ c.cqWaited = true ∧ c.cqLate
      = false ∧ 10000000 < s.devtime.toNat - c.cqSince.toNat ∧ (s.fe.cqOf c.cq).full = true)
    ∧ (∃ (s : State) (q : Nat) (v : W32), CtlOpen (0xC4000 + 4 * q) s ∧ q < 4096 ∧ fld v 14 0 < (s.fe.cqOf q).size)
    ∧ (∃ (s : State) (q : Nat) (v : W32), CtlOpen (0xC4000 + 4 * q) s ∧ q < 4096 ∧ (s.fe.cqOf q).en = true ∧ (s.fe.cqOf q).size
      ≤ fld v 14 0)
    ∧ (∃ (s : State) (vec : Nat), Runs .hif s ∧ 0 < (fget {} s.hif.coal vec).n ∧ 1000 * fld (rget s (0xE1000 + 4 * vec)) 15 0 ≤
      s.devtime.toNat - (fget {} s.hif.coal vec).first.toNat) :=
  ⟨⟨{ tTab with fe := { tFe with cmds := [tCmd .nop .ready []], cq := [(0, { regs := { cfg := 0xC0400000#32, baseLo := 0x400000#32 } })] } },
      0, tCmd .nop .ready [], by decide +kernel⟩,
   ⟨{ tUp with fe := { tFe with tags := [{ id := 0, cq := 0, ctx := 0, dev := true, addr := scrBase, line0 := [], vec := none }] } },
      0, { id := 0, cq := 0, ctx := 0, dev := true, addr := scrBase, line0 := [], vec := none }, by decide +kernel⟩,
   ⟨{ tHas ({ tCmd .nop .ready [] with cqWaited := true }) with fe := { tFe with cmds := [{ tCmd .nop .ready [] with cqWaited := true }], cq := [(0, { regs := { cfg := 0x80100000#32 }, head := 1 })] } },
      0, { tCmd .nop .ready [] with cqWaited := true }, by decide +kernel⟩,
   ⟨{ tUp with fe := tFe }, 4095, 0#32, by decide +kernel⟩,
   ⟨{ tUp with fe := tFe }, 0, 16#32, by decide +kernel⟩,
   ⟨{ tUp with hif := { tUp.hif with coal := [(0, { n := 1, first := 0 })] } }, 0, by decide +kernel⟩⟩

/-- What each clause of SequencersGrantAndYield assumes is met. -/
theorem witness_SequencersGrantAndYield :
    (∃ (s : State) (id : Nat) (c : Cmd), Runs .fab s ∧ s.fe.cmd id = some c ∧ c.phase = .waitSeq ∧
      seqHeld s.fe (seqKind c) < seqCount c.op ∧ (bestWaiter s.fe (seqKind c)).map Cmd.id = some id)
    ∧ (∃ (s : State) (id : Nat) (c : Cmd), Runs .fab s ∧ s.fe.cmd id = some c ∧ atBoundary s c = true ∧
      bestWaiter s.fe (seqKind c) = none)
    ∧ (∃ (s : State) (id : Nat) (c w : Cmd), Runs .fab s ∧ s.fe.cmd id = some c ∧ atBoundary s c = true ∧
      bestWaiter s.fe (seqKind c) = some w ∧ entitled s.fe (seqKind c) c.ctx w.ctx = false)
    ∧ (∃ (f : FrontEnd) (a : Arb) (reqs : List (Nat × Nat)) (r : Nat × Nat) (c : Nat), r ∈ reqs ∧ (∀ x ∈ reqs, x.1 < 4096) ∧
      (∀ c ∈ reqCtxs reqs, f.owedAt a c ≤ f.weightSum reqs ∧ (c ≠ r.1 → f.isDue a reqs c = false)) ∧ c ∈ reqCtxs reqs) :=
  ⟨⟨tHas (tCmd .seqPool .waitSeq []), 0, tCmd .seqPool .waitSeq [], by decide +kernel⟩,
   ⟨tHas ({ tCmd .seqPool .running [] with strideAt := 0, work := .gather {}, strideStart := 0 }), 0,
      { tCmd .seqPool .running [] with strideAt := 0, work := .gather {}, strideStart := 0 }, by decide +kernel⟩,
   ⟨{ tUp with fe := { tFe with cmds := [{ tCmd .seqPool .running [] with strideAt := 0, work := .gather {}, strideStart := 0 }, { tCmd .seqPool .waitSeq [] with id := 1 }] } },
      0, { tCmd .seqPool .running [] with strideAt := 0, work := .gather {}, strideStart := 0 },
      { tCmd .seqPool .waitSeq [] with id := 1 }, by decide +kernel⟩,
   ⟨tTwo, .front, [(0, 0), (1, 1)], (1, 1), 0, by decide +kernel⟩⟩

/-- R357: with weights 3 and 1 the lighter context is due once four grants have gone to the other, and the second of two SQs of a context is
next in turn after the first. -/
theorem test_arbiter_owes :
    (let f0 : FrontEnd := { tTwo with ctx := [(0, { share := 0x300#32 }), (1, {})], owed := [] }
     let go (f : FrontEnd) : FrontEnd := f.serve .front [(0, 0), (1, 1)] (0, 0) 1
     ((go (go (go f0))).isDue .front [(0, 0), (1, 1)] 1, (go (go (go (go f0)))).isDue .front [(0, 0), (1, 1)] 1,
      (go f0).mayServe .front [(0, 0), (0, 5)] (0, 0), (go f0).mayServe .front [(0, 0), (0, 5)] (0, 5))) =
      (false, true, false, true) := by decide +kernel

/-- What each clause of IntegerAndSaturatingArithmetic assumes is met. -/
theorem witness_IntegerAndSaturatingArithmetic :
    ∀ opc ∈ ([0x10, 0x11, 0x12, 0x13, 0x14, 0x15, 0x19, 0x18, 0x16, 0x17, 0x1A, 0x1B, 0x1C, 0x1D] : List Nat), ∃ s x p,
      Issues s opc x p :=
  fun opc h => ⟨_, _, _, tIssues_issues (List.all_eq_true.mp (by decide +kernel :
      (([0x10, 0x11, 0x12, 0x13, 0x14, 0x15, 0x19, 0x18, 0x16, 0x17, 0x1A, 0x1B, 0x1C,
      0x1D] : List Nat).all fun opc => tIssues (tSimt tGrp) opc (tWord (tFields opc))) = true) opc h)⟩

/-- What each clause of LogicShiftsAndBitFields assumes is met. -/
theorem witness_LogicShiftsAndBitFields :
    (∀ opc ∈ ([0x20, 0x21, 0x22, 0x23, 0x27, 0x28, 0x29, 0x2A, 0x2B, 0x2C, 0x2D, 0x24, 0x25, 0x26] : List Nat), ∃ s x p,
      Issues s opc x p)
    ∧ (∃ (m k : Nat), m < 32 ∧ k < 32)
    ∧ (∃ (k : Nat), k < 32) :=
  ⟨fun opc h => ⟨_, _, _, tIssues_issues (List.all_eq_true.mp (by decide +kernel :
      (([0x20, 0x21, 0x22, 0x23, 0x27, 0x28, 0x29, 0x2A, 0x2B, 0x2C, 0x2D, 0x24, 0x25,
      0x26] : List Nat).all fun opc => tIssues (tSimt tGrp) opc (tWord (tFields opc))) = true) opc h)⟩,
   ⟨31, 31, by decide +kernel⟩,
   ⟨31, by decide⟩⟩

/-- What each clause of CompareSelectAndMove assumes is met. -/
theorem witness_CompareSelectAndMove :
    ∀ opc ∈ ([0x30, 0x31, 0x32, 0x33, 0x34, 0x35] : List Nat), ∃ s x p, Issues s opc x p :=
  fun opc h => ⟨_, _, _, tIssues_issues (List.all_eq_true.mp (by decide +kernel :
      (([0x30, 0x31, 0x32, 0x33, 0x34, 0x35] : List Nat).all fun opc => tIssues (tSimt tGrp) opc (tWord (tFields opc))) = true) opc h)⟩

/-- What each clause of FixedPointAndBlockScale assumes is met. -/
theorem witness_FixedPointAndBlockScale :
    (∀ opc ∈ ([0x40, 0x41, 0x42, 0x43] : List Nat), ∃ s x p, Issues s opc x p)
    ∧ (∃ (s : State) (x : Issue) (p : Path), Issues s 0x44 x p ∧ 0 < p.m)
    ∧ (∀ opc ∈ ([0x50, 0x51, 0x53, 0x54, 0x55, 0x56, 0x57, 0x58, 0x59] : List Nat), ∃ s x p, Issues s opc x p) :=
  ⟨fun opc h => ⟨_, _, _, tIssues_issues (List.all_eq_true.mp (by decide +kernel :
      (([0x40, 0x41, 0x42, 0x43] : List Nat).all fun opc => tIssues (tSimt tGrp) opc (tWord (tFields opc))) = true) opc h)⟩,
   ⟨(tSimt tGrp), tWord (tFields 0x44), tPath (tSimt tGrp) 0x44 (tWord (tFields 0x44)), tIssues_issues (by decide +kernel),
      by decide +kernel⟩,
   fun opc h => ⟨_, _, _, tIssues_issues (List.all_eq_true.mp (by decide +kernel :
      (([0x50, 0x51, 0x53, 0x54, 0x55, 0x56, 0x57, 0x58,
      0x59] : List Nat).all fun opc => tIssues (tSimt tGrp) opc (tWord (tFields opc))) = true) opc h)⟩⟩

/-- What each clause of ResultsGoToVdAlone assumes is met. -/
theorem witness_ResultsGoToVdAlone :
    ∃ (p : Path) (g : Group), fwf (fun _ => (0 : W32)) g.regs = true ∧ fwf (fun _ => g.pc0) g.pcs = true ∧ wRd p.w < 256 :=
  ⟨{ tPath (tSimt tGrp) 0x10 (tWord []) with w := 0xFF10 }, tGrp, by decide +kernel⟩

/-- What each clause of CollectivesAndInterpolation assumes is met. -/
theorem witness_CollectivesAndInterpolation :
    (∃ (s : State) (x : Issue) (p : Path), (∀ i ∈ p.act, metAll p i = true) ∧ Issues s 0x70 x p)
    ∧ (∃ (s : State) (x : Issue) (p : Path), (∀ i ∈ p.act, metAll p i = true) ∧ Issues s 0x71 x p)
    ∧ (∃ (s : State) (x : Issue) (p : Path), (∀ i ∈ p.act, metAll p i = true) ∧ Issues s 0x72 x p)
    ∧ (∃ (s : State) (x : Issue) (p : Path), (∀ i ∈ p.act, metAll p i = true) ∧ Issues s 0x73 x p)
    ∧ (∃ (s : State) (x : Issue) (p : Path), (∀ i ∈ p.act, metAll p i = true) ∧ Issues s 0x74 x p)
    ∧ (∃ (s : State) (x : Issue) (p : Path), (∀ i ∈ p.act, metAll p i = true) ∧ Issues s 0x52 x p)
    ∧ (∃ (s : State) (x : Issue) (p : Path), Issues s 0x72 x p ∧ (∀ i ∈ p.act, metAll p i = false) ∧ p.act = p.lanes)
    ∧ (∃ (s : State) (x : Issue) (p : Path) (f : Nat → W32), Issues s 0x60 x p ∧ (∀ i ∈ p.act,
      tliOf (clocked p s) p.l p.t.core (p.a i) (p.b i) = .val (f i)))
    ∧ (∃ (s : State) (x : Issue) (p : Path) (i o : _), Issues s 0x60 x p ∧ p.act = [i] ∧
      tliOf (clocked p s) p.l p.t.core (p.a i) (p.b i) = .out o) :=
  ⟨⟨(tSimt { tGrp with regs := [(0, 1#32)] }), tWord (tFields 0x70),
      tPath (tSimt { tGrp with regs := [(0, 1#32)] }) 0x70 (tWord (tFields 0x70)), by decide +kernel,
      tIssues_issues (by decide +kernel)⟩,
   ⟨(tSimt { tGrp with regs := [(0, 1#32)] }), tWord (tFields 0x71),
      tPath (tSimt { tGrp with regs := [(0, 1#32)] }) 0x71 (tWord (tFields 0x71)), by decide +kernel,
      tIssues_issues (by decide +kernel)⟩,
   ⟨(tSimt { tGrp with regs := [(0, 1#32)] }), tWord (tFields 0x72),
      tPath (tSimt { tGrp with regs := [(0, 1#32)] }) 0x72 (tWord (tFields 0x72)), by decide +kernel,
      tIssues_issues (by decide +kernel)⟩,
   ⟨(tSimt { tGrp with regs := [(0, 1#32)] }), tWord (tFields 0x73),
      tPath (tSimt { tGrp with regs := [(0, 1#32)] }) 0x73 (tWord (tFields 0x73)), by decide +kernel,
      tIssues_issues (by decide +kernel)⟩,
   ⟨(tSimt { tGrp with regs := [(0, 1#32)] }), tWord (tFields 0x74),
      tPath (tSimt { tGrp with regs := [(0, 1#32)] }) 0x74 (tWord (tFields 0x74)), by decide +kernel,
      tIssues_issues (by decide +kernel)⟩,
   ⟨(tSimt { tGrp with regs := [(0, 1#32)] }), tWord (tFields 0x52),
      tPath (tSimt { tGrp with regs := [(0, 1#32)] }) 0x52 (tWord (tFields 0x52)), by decide +kernel,
      tIssues_issues (by decide +kernel)⟩,
   ⟨(tSimt { tGrp with exited := 0xFFFFFFFC#32, pcs := [(1, scrBase + 8)], regs := [(0, 2#32)] }), tWord [],
      tPath (tSimt { tGrp with exited := 0xFFFFFFFC#32, pcs := [(1, scrBase + 8)], regs := [(0, 2#32)] }) 0x72 (tWord []),
      tIssues_issues (by decide +kernel), by decide +kernel⟩,
   ⟨(tSimt tGrp), tWord [], tPath (tSimt tGrp) 0x60 (tWord []), fun _ => 0x80000000#32, tIssues_issues (by decide +kernel),
      by decide +kernel⟩,
   ⟨(tSimt { tGrp with regs := [(1, 1024#32)] }), tWord [(24, 1)],
      tPath (tSimt { tGrp with regs := [(1, 1024#32)] }) 0x60 (tWord [(24, 1)]), 0, 1024, tIssues_issues (by decide +kernel),
      by decide +kernel⟩⟩

/-- What each clause of ControlAndBarriers assumes is met. -/
theorem witness_ControlAndBarriers :
    (∀ opc ∈ ([0x00, 0x01, 0x02] : List Nat), ∃ s x p, Issues s opc x p)
    ∧ (∃ (s : State) (x : Issue) (p : Path), Issues s 0x03 x p ∧ (∀ i ∈ p.act, (fget [] p.g.callStacks i).length < 16))
    ∧ (∃ (s : State) (x : Issue) (p : Path), Issues s 0x03 x p ∧ (∃ i ∈ p.act, 16 ≤ (fget [] p.g.callStacks i).length))
    ∧ (∃ (s : State) (x : Issue) (p : Path), Issues s 0x04 x p ∧ (∀ i ∈ p.act, fget [] p.g.callStacks i ≠ []))
    ∧ (∃ (s : State) (x : Issue) (p : Path), Issues s 0x04 x p ∧ (∃ i ∈ p.act, fget [] p.g.callStacks i = []))
    ∧ (∀ opc ∈ ([0x07, 0x08, 0x05, 0x06] : List Nat), ∃ s x p, Issues s opc x p)
    ∧ (∃ (s : State) (x : Issue) (p : Path), Issues s 0x09 x p ∧ (∀ i ∈ p.act, (p.c i).getLsbD i = true) ∧ p.g.gs = []) :=
  ⟨fun opc h => ⟨_, _, _, tIssues_issues (List.all_eq_true.mp (by decide +kernel :
      (([0x00, 0x01, 0x02] : List Nat).all fun opc => tIssues (tSimt tGrp) opc (tWord (tFields opc))) = true) opc h)⟩,
   ⟨(tSimt { tGrp with callStacks := [(0, List.replicate 15 scrBase)] }), tWord [],
      tPath (tSimt { tGrp with callStacks := [(0, List.replicate 15 scrBase)] }) 0x03 (tWord []),
      tIssues_issues (by decide +kernel), by decide +kernel⟩,
   ⟨(tSimt { tGrp with callStacks := [(0, List.replicate 16 scrBase)] }), tWord [],
      tPath (tSimt { tGrp with callStacks := [(0, List.replicate 16 scrBase)] }) 0x03 (tWord []),
      tIssues_issues (by decide +kernel), by decide +kernel⟩,
   ⟨(tSimt { tGrp with callStacks := [(0, List.replicate 1 scrBase)] }), tWord [],
      tPath (tSimt { tGrp with callStacks := [(0, List.replicate 1 scrBase)] }) 0x04 (tWord []),
      tIssues_issues (by decide +kernel), by decide +kernel⟩,
   ⟨(tSimt tGrp), tWord [], tPath (tSimt tGrp) 0x04 (tWord []), tIssues_issues (by decide +kernel), by decide +kernel⟩,
   fun opc h => ⟨_, _, _, tIssues_issues (List.all_eq_true.mp (by decide +kernel :
      (([0x07, 0x08, 0x05, 0x06] : List Nat).all fun opc => tIssues (tSimt tGrp) opc (tWord (tFields opc))) = true) opc h)⟩,
   ⟨(tSimt { tGrp with regs := [(0, 1#32)] }), tWord [], tPath (tSimt { tGrp with regs := [(0, 1#32)] }) 0x09 (tWord []),
      tIssues_issues (by decide +kernel), by decide +kernel⟩⟩

/-- What each clause of FetchAndDecodeOfWords assumes is met. -/
theorem witness_FetchAndDecodeOfWords :
    (∃ (s : State) (x : Issue) (p : Path) (opc : Byte), Runs (simtDom s x.launch x.team) s ∧ pathOf s opc.toNat x = some p ∧
      allowed s p.pc 8 = true ∧ wordOk p.l.regs p.w = false)
    ∧ (∃ (s : State) (x : Issue) (p : Path), Runs (simtDom s x.launch x.team) s ∧ (pathOf s 0x10 x).map Path.issue = some p ∧
      allowed s p.pc 8 = false)
    ∧ (∃ (s : State) (x : Issue) (p : Path), Runs (simtDom s x.launch x.team) s ∧ (pathOf s 0x10 x).map Path.issue = some p ∧
      allowed s p.pc 8 = true ∧ wordOk p.l.regs p.w = false)
    ∧ (∃ (s : State) (x : Issue) (p : Path), Runs (simtDom s x.launch x.team) s ∧ (pathOf s 0x10 x).map Path.issue = some p ∧
      allowed s p.pc 8 = true ∧ wordOk p.l.regs p.w = true ∧ p.act = []) :=
  ⟨⟨(tSimt tGrp), tWord [], tRaw (tSimt tGrp) 0xFF (tWord []), 0xFF#8, by decide +kernel, tSome _ (by decide +kernel),
      by decide +kernel⟩,
   ⟨tSimt { tGrp with pc0 := 0x7FFFFC }, tWord [], tPath (tSimt { tGrp with pc0 := 0x7FFFFC }) 0x10 (tWord []),
      by decide +kernel, tMap (by decide +kernel), by decide +kernel⟩,
   ⟨tSimt tGrp, tWord [(48, 1)], tPath (tSimt tGrp) 0x10 (tWord [(48, 1)]), by decide +kernel, tMap (by decide +kernel),
      by decide +kernel⟩,
   ⟨tSimt tGrp, tWord [(63, 1)], tPath (tSimt tGrp) 0x10 (tWord [(63, 1)]), by decide +kernel, tMap (by decide +kernel),
      by decide +kernel⟩⟩

/-- What each clause of GathersPoolTheirPositions assumes is met. -/
theorem witness_GathersPoolTheirPositions :
    (∃ (s : State) (id : Nat) (list : ReadBack) (c : Cmd) (g : Gather) (b : Bytes) (devs : List (Nat ×
      Nat)), Runs .fab s ∧ InPhase s id .gatherPool .running c ∧ c.work = .gather g ∧ g.stage = .list ∧ poolRead s c (gpSrc
      c.bytes) (16 * gpBags c.bytes) list = .ok b devs ∧ bagListStatus s c ((List.range (gpBags c.bytes)).map (bagEnt c.bytes
      b)) ≠ 0)
    ∧ (∃ (s : State) (id : Nat) (list : ReadBack) (arrays : List ReadBack) (c : Cmd) (g : Gather) (b y : Bytes)
      (es : List BagEnt) (ds devs : List (Nat × Nat)), Runs .fab s ∧ InPhase s id .gatherPool .running c ∧ c.work = .gather g ∧
      g.stage = .list ∧ poolRead s c
      (gpSrc c.bytes) (16 * gpBags c.bytes) list = .ok b ds ∧ es = (List.range (gpBags c.bytes)).map (bagEnt c.bytes b) ∧
      bagListStatus s c es = 0 ∧ bagArrays s c es arrays = .ok y devs)
    ∧ (∃ (s : State) (id part : Nat) (c : Cmd) (g : Gather), Runs (.part part) s ∧ clusterInReset s (64 + part) = false ∧
      s.fe.cmd id = some c ∧ c.phase = .running ∧ c.work = .gather g ∧ g.stage = .gather ∧ g.subs.contains (part, .sent) =
      true ∧ s.fe.mayServe (.gather part) (gatherReqs s part) (c.ctx, c.sq) = true)
    ∧ (∃ (s : State) (id part pos sec k a : Nat) (c : Cmd) (g : Gather) (x : Pos) (b : Bytes) (bad : Bool), Runs (.part part) s
      ∧ clusterInReset s (64 + part) = false ∧ s.fe.cmd id = some c ∧ c.phase = .running ∧ c.work = .gather g ∧ g.pos[pos]? =
      some x ∧ x.part = part ∧ x.done = false ∧ g.subs.contains (part, .received) = true ∧ sec < ((c.table x.table).size + 31)
      / 32 ∧ (x.got.any fun e => e.1 = sec) = false ∧ (sec = 0 ∨ (x.got.any fun e => e.1 = 0) = true) ∧ posAddr s c x = (k, a)
      ∧ sectorNow s k (a + 32 * sec) = .data b bad)
    ∧ (∃ (s : State) (id part : Nat) (c : Cmd) (g : Gather), Runs .fab s ∧ s.fe.cmd id = some c ∧ c.phase = .running ∧ c.work =
      .gather g ∧ g.stage = .gather ∧ g.subs.contains (part, .received) = true ∧ (g.pos.all fun x => x.part ≠ part || x.done) =
      true)
    ∧ (∃ (s : State) (id : Nat) (c : Cmd) (g : Gather) (l t : Nat) (rest : List (Nat × Nat)), Runs .fab s ∧ s.fe.cmd id = some
      c ∧ c.phase = .running ∧ c.work = .gather g ∧ g.stage = .landing ∧ c.landTo = (l, t) :: rest ∧ (∀ x ∈ c.landTo, teamHeld
      s (outCore c.bytes (c.home.getD 0)) x.1 x.2 = true))
    ∧ (∃ (s : State) (c : Cmd) (sec k : Nat) (x : Pos) (b : Bytes), 0 < sec ∧ (s.dc.slice k).side = [] ∧ ((List.range
      (((c.table x.table).size + 31) / 32)).all fun j => ((sec, b) :: x.got).any fun e => e.1 = j) = false) :=
  ⟨⟨{ tTabHas (tGath (tGather .list [] .sent) [(1, 1, 4)]) with atc := tAtc true }, 0, .data (List.replicate 16 0xFF#8),
      tGath (tGather .list [] .sent) [(1, 1, 4)], tGather .list [] .sent, List.replicate 16 0xFF#8, [], by decide +kernel⟩,
   ⟨{ tTabHas (tGath (tGather .list [] .sent) [(1, 1, 4)]) with atc := tAtc true }, 0, .data (tBytes 16 [(8, 4, 1)]), [.data
      [0#8]], tGath (tGather .list [] .sent) [(1, 1, 4)], tGather .list [] .sent, tBytes 16 [(8, 4, 1)], [0#8], [bagEnt (tGath
      (tGather .list [] .sent) [(1, 1, 4)]).bytes (tBytes 16 [(8, 4, 1)]) 0], [], [], by decide +kernel⟩,
   ⟨tTabHas (tGath (tGather .gather [tPos] .sent) []), 0, 0, tGath (tGather .gather [tPos] .sent) [], tGather .gather [tPos]
      .sent, by decide +kernel⟩,
   ⟨{ tTabHas (tGath { tGather .gather [{ tPos with part := (shardHome 0 0xFF 0).1 }] .sent with subs := [((shardHome 0 0xFF 0).1, .received)] } []) with dc := { slices := [((shardHome 0 0xFF 0).2, { sliceDef (shardHome 0 0xFF 0).2 with lines := [{ newLine 0 0 0 with bv := 0xFFFFFFFF#128 }] })] } },
      0, (shardHome 0 0xFF 0).1, 0, 0, (shardHome 0 0xFF 0).2, 0, tGath
      { tGather .gather [{ tPos with part := (shardHome 0 0xFF 0).1 }] .sent with subs := [((shardHome 0 0xFF 0).1, .received)] }
      [],
      { tGather .gather [{ tPos with part := (shardHome 0 0xFF 0).1 }] .sent with subs := [((shardHome 0 0xFF 0).1, .received)] },
      { tPos with part := (shardHome 0 0xFF 0).1 }, List.replicate 32 0#8, false, by and_intros <;> first | rfl | decide +kernel⟩,
   ⟨tTabHas (tGath (tGather .gather [{ tPos with done := true }] .received) []), 0, 0, tGath (tGather .gather
      [{ tPos with done := true }] .received) [], tGather .gather [{ tPos with done := true }] .received, by decide +kernel⟩,
   ⟨{ tTabHas ({ tGath (tGather .landing [] .combined) [(0x23, 1, 0x40)] with landTo := [(0, 0)] }) with simt := { launches := [{ tLaunch tGrp with resident := true }] } },
      0, { tGath (tGather .landing [] .combined) [(0x23, 1, 0x40)] with landTo := [(0, 0)] }, tGather .landing [] .combined, 0,
      0, [], by decide +kernel⟩,
   ⟨tTab, tGath (tGather .gather [tPos] .received) [], 1, 63, tPos, [], by decide +kernel⟩⟩

/-- What each clause of LiveWritesReadsAndCommits assumes is met. -/
theorem witness_LiveWritesReadsAndCommits :
    (∃ (s : State) (off : Nat), Runs .hif s ∧ ctlReach s = true ∧ s.flt.safe = false ∧ s.rook.qstate ≠ 3 ∧ off < 2 ^ 24 ∧
      (s.upd.set (off / 2 ^ 20)).en = true)
    ∧ (∃ (s : State) (off : Nat), Runs .hif s ∧ ctlReach s = true ∧ s.flt.safe = false ∧ off < 2 ^ 24 ∧ (s.upd.set (off / 2 ^
      20)).en = false)
    ∧ (∃ (s : State) (off : Nat) (reqid : W16), Runs .hif s ∧ ctlReach s = true ∧ s.flt.safe = false ∧ s.rook.qstate ≠ 3 ∧ off
      < 2 ^ 28 ∧ (fget {} s.upd.plc (off / 2 ^ 18)).set.en = true ∧ (reqid &&& ((fget {} s.upd.plc (off / 2 ^ 18)).key >>>
      16).setWidth 16) = ((fget {} s.upd.plc (off / 2 ^ 18)).key.setWidth 16 &&& ((fget {} s.upd.plc (off / 2 ^ 18)).key >>>
      16).setWidth 16))
    ∧ (∃ (s : State) (off : Nat), Runs .hif s ∧ ctlReach s = true ∧ s.flt.safe = false ∧ s.rook.qstate ≠ 3 ∧ off < 2 ^ 28 ∧
      (fget {} s.upd.plc (off / 2 ^ 18)).set.en = false)
    ∧ (∃ (s : State) (off : Nat), Runs .hif s ∧ ctlReach s = true ∧ off < 2 ^ 24 ∧ (s.upd.set (off / 2 ^ 20)).en = false)
    ∧ (∃ (s : State), Runs .hif s)
    ∧ (∃ (s : State) (p : RowPart) (rest : List RowPart), Runs .hif s ∧ s.upd.held = p :: rest)
    ∧ (∃ (s : State) (slice : Nat) (r : StagedRow), Runs (.part (partOfSlice slice)) s ∧ commitWaiting s slice = some r ∧
      bgTurn s slice (decide (15 ≤ (s.dc.slice slice).gapCommit)) r.at_ 50000 = true)
    ∧ (∃ (size i : Nat), i < size)
    ∧ (∃ (size i : Nat) (j : _), i < size ∧ j < size ∧ j ≠ i)
    ∧ (∃ (s : State) (off n : Nat) (w : WinSet), Runs .hif s ∧ ctlReach s = true ∧ off < 2 ^ 24 ∧ w = s.upd.set (off / 2 ^ 20)
      ∧ w.en = true ∧ 0 < n ∧ off % 64 + n ≤ 64 ∧ off % 2 ^ 20 % w.sstride + n ≤ w.sstride ∧
      rowWaits s (rowCopy s w.table (tableOf s w.table) w.side (w.row + off % 2 ^ 20 / w.sstride)).1 (tableOf s w.table).size = false)
    ∧ (∃ (s : State) (w : WinSet) (d : TblDesc) (r b n : Nat), w.conv = false ∧ r ≤ d.rows ∧ b + n ≤ rowSpan d w ∧
      (∀ i, i < n → rowNowhere s ((rowCopy s w.table d w.side r).1 + (b + i)) 1 = false ∧
        devPoison s (shardHome w.table d.shards r).2 ((rowCopy s w.table d w.side r).1 + (b + i)) 1 = false))
    ∧ (∃ (d : TblDesc) (r : Nat), d.rows < r) :=
  ⟨⟨{ tTab with upd := { win := [(15, { com := { ctl := 0x80020000#32 } })] } }, 0xFFFFFC, by decide +kernel⟩,
   ⟨tTab, 0xFFFFFF, by decide +kernel⟩,
   ⟨{ tTab with upd := { plc := [(1023, { cfg := 0x80020000#32, key := 0xFFFF0007#32 })] } }, 0xFFFFFFC, 7, by decide +kernel⟩,
   ⟨tTab, 0xFFFFFFF, by decide +kernel⟩,
   ⟨tTab, 0xFFFFFF, by decide +kernel⟩,
   ⟨tTab, by decide +kernel⟩,
   ⟨{ tTab with upd := { held := [{ tgt := 0, row := 0, bytes := [(0, 1#8)] }] } },
      { tgt := 0, row := 0, bytes := [(0, 1#8)] }, [], by decide +kernel⟩,
   ⟨{ tTab with upd := { staging := [{ tgt := 0, batch := 0, slice := 63, table := 0, side := 0, row := 0, desc := tDesc, conv := none, bytes := [], ticket := some 0, closer := none }] } },
      63,
      { tgt := 0, batch := 0, slice := 63, table := 0, side := 0, row := 0, desc := tDesc, conv := none, bytes := [], ticket := some 0, closer := none },
      by decide +kernel⟩,
   ⟨64, 63, by decide +kernel⟩,
   ⟨64, 63, 62, by decide⟩,
   ⟨{ tTab with upd := { win := [(15, { com := { ctl := 0x80020000#32 } })] } }, 0xF00000, 8, ({ ctl := 0x80020000#32 } : WinRegs).set,
      by decide +kernel⟩,
   ⟨tTab, ({ ctl := 0x80020000#32 } : WinRegs).set, tDesc, 1, 0, 1, by decide +kernel⟩,
   ⟨tDesc, 2, by decide +kernel⟩⟩

/-- What each clause of WindowsAndRegionsCommit assumes is met. -/
theorem witness_WindowsAndRegionsCommit :
    (∃ (s : State) (w : Nat) (v : W32), CtlOpen (0x8000C + 0x40 * w) s ∧ w < 16 ∧ bit v 0 = true ∧
      setBad s (fget {} s.upd.win w).staged.set = false)
    ∧ (∃ (s : State) (w : Nat) (v : W32), CtlOpen (0x8000C + 0x40 * w) s ∧ w < 16 ∧ bit v 0 = true ∧
      setBad s (fget {} s.upd.win w).staged.set = true)
    ∧ (∃ (s : State) (w : Nat) (v : W32), CtlOpen (0x80010 + 0x40 * w) s ∧ w < 16 ∧ bit v 0 = true)
    ∧ (∃ (s : State) (v : W32), CtlOpen 0x81018 s ∧ bit v 31 = true)
    ∧ (∃ (s : State), CtlOpen 0x81000 s)
    ∧ (∃ (s : State) (v : W32), CtlOpen 0x81014 s ∧ bit v 0 = true ∧ setBad s s.upd.plcStaged.set = false)
    ∧ (∃ (s : State) (v : W32), CtlOpen 0x81014 s ∧ bit v 0 = true ∧ setBad s s.upd.plcStaged.set = true) :=
  ⟨⟨{ tTab with upd := { win := [(15, { staged := { ctl := 0x80020000#32 } })] } }, 15, 1, by decide +kernel⟩,
   ⟨{ tTab with upd := { win := [(15, { staged := { ctl := 0x80030000#32 } })] } }, 15, 1, by decide +kernel⟩,
   ⟨tTab, 15, 1, by decide +kernel⟩,
   ⟨tTab, 0x800003FF#32, by decide +kernel⟩,
   ⟨tTab, by decide +kernel⟩,
   ⟨{ tTab with upd := { plcStaged := { cfg := 0x80020000#32 } } }, 1, by decide +kernel⟩,
   ⟨{ tTab with upd := { plcStaged := { cfg := 0x80030000#32 } } }, 1, by decide +kernel⟩⟩

/-- What each clause of MigrationAndDigests assumes is met. -/
theorem witness_MigrationAndDigests :
    (∃ (s : State) (v : W32), CtlOpen 0x82020 s ∧ fld v 7 0 ≠ 0)
    ∧ (∃ s : State, Runs .fab s ∧ epochOver s = true ∧ s.flt.safe = true)
    ∧ (∃ s : State, Runs .fab s ∧ epochOver s = true ∧ s.flt.safe = false ∧ s.mig.fwd = [] ∧ s.mig.sticky = [] ∧ bit (rget s
      0x82020) 31 = false)
    ∧ (∃ (s : State) (t side row k : Nat) (f : Fwd), Runs .fab s ∧ s.mig.entry t side row = some f ∧ f.st = .copying ∧ warmOn
      s.fe f.cmd = true ∧ k = fwdSlice s t row ∧ migTurn s f k ((tableOf s t).rowAddr side row) (tableOf s t).size = true)
    ∧ (∃ (s : State) (t side row : Nat) (f : Fwd), Runs .fab s ∧ s.mig.entry t side row = some f ∧ f.st = .returning ∧ migTurn
      s f (fwdSlice s t row) (slotAddr s f) (tableOf s t).size = true)
    ∧ (∃ (s : State) (t side : Nat), Runs .fab s ∧ sideReleased s t side = true ∧ s.flt.safe = false)
    ∧ (∃ (s : State) (t side : Nat), Runs .fab s ∧ (fget {} s.tbl.dig (digKey t side)).st = .scanning ∧ s.flt.safe = false)
    ∧ (∃ s : State, Runs .fab s ∧ epochOver s = false)
    ∧ (∃ (s : State) (t side : Nat) (d : TblDesc), (∀ r, r ≤ d.rows → rowNowhere s (rowCopy s t d side r).1 d.size = false)) :=
  ⟨⟨tTab, 0x800000FF#32, by decide +kernel⟩,
   ⟨tSafe, by decide +kernel⟩,
   ⟨{ tTab with regs := [(0x82020, 0x0010040A#32)] }, by decide +kernel⟩,
   ⟨{ tTab with mig := { fwd := [{ table := 0, side := 0, row := 0, st := .copying, dirty := false, slot := 0, count := 0, at_ := 0, cmd := none }] } },
      0, 0, 0, fwdSlice tTab 0 0,
      { table := 0, side := 0, row := 0, st := .copying, dirty := false, slot := 0, count := 0, at_ := 0, cmd := none },
      by decide +kernel⟩,
   ⟨{ tTab with mig := { fwd := [{ table := 0, side := 0, row := 0, st := .returning, dirty := false, slot := 0, count := 0, at_ := 0, cmd := none }] } },
      0, 0, 0,
      { table := 0, side := 0, row := 0, st := .returning, dirty := false, slot := 0, count := 0, at_ := 0, cmd := none },
      by decide +kernel⟩,
   ⟨tTab, 0, 1, by decide +kernel⟩,
   ⟨{ tTab with tbl := { tTab.tbl with dig := [(digKey 0 1, { st := .scanning })] } }, 0, 1, by decide +kernel⟩,
   ⟨{ tTab with mig := { epochAt := tUp.devtime, epoch := 10 } }, by decide +kernel⟩,
   ⟨tTab, 0, 0, tDesc, by decide +kernel⟩⟩

/-- What each clause of CastlesSwitchTables assumes is met. -/
theorem witness_CastlesSwitchTables :
    (∃ (s : State) (id : Nat) (c : Cmd) (drain : List (Nat × Nat)), Runs .fab s ∧ InPhase s id .castle .running c ∧ c.work =
      .castle false drain ∧ drained s.upd drain = true ∧ castlesBefore s.fe c = false ∧ ((caEntries c.bytes).all fun e =>
      (tableOf s e.1).valid && (tableOf s e.1).owner = c.ctx) = true ∧ caWarm c.bytes = false)
    ∧ (∃ (s : State) (id : Nat) (c : Cmd) (drain : List (Nat × Nat)), Runs .fab s ∧ InPhase s id .castle .running c ∧ c.work =
      .castle false drain ∧ drained s.upd drain = true ∧ castlesBefore s.fe c = false ∧ ((caEntries c.bytes).all fun e =>
      (tableOf s e.1).valid && (tableOf s e.1).owner = c.ctx) = false)
    ∧ (∃ (s : State) (id : Nat) (c : Cmd) (drain : List (Nat × Nat)), Runs .fab s ∧ InPhase s id .castle .running c ∧ c.work =
      .castle true drain ∧ s.mig.waiting = [] ∧ (s.mig.fwd.any fun f => f.st = .copying && f.cmd = some id) = false) :=
  ⟨⟨tTabHas ({ tCmd .castle .running [(0x22, 2, 0x8000)] with work := .castle false [] }), 0,
      { tCmd .castle .running [(0x22, 2, 0x8000)] with work := .castle false [] }, [], by decide +kernel⟩,
   ⟨tTabHas ({ tCmd .castle .running [(0x22, 2, 0x3FFF)] with work := .castle false [] }), 0,
      { tCmd .castle .running [(0x22, 2, 0x3FFF)] with work := .castle false [] }, [], by decide +kernel⟩,
   ⟨tTabHas { tCmd .castle .running [] with work := .castle true [] }, 0,
      { tCmd .castle .running [] with work := .castle true [] }, [], by decide +kernel⟩⟩

/-- What each clause of CatalogueRegistersAndEvents assumes is met. -/
theorem witness_CatalogueRegistersAndEvents :
    (∃ (s : State) (v : W32), CtlOpen 0x83000 s ∧ bit v 1 = false ∧ bit v 0 = true ∧ s.ret.busy = false ∧ catBase s ≠ 0)
    ∧ (∃ (s : State) (v : W32), CtlOpen 0x83000 s ∧ bit v 1 = true ∧ bit v 0 = false)
    ∧ (∃ (s : State), Runs .fab s ∧ s.ret.busy = true ∧ s.flt.safe = false)
    ∧ (∃ s : State, Runs .mgt s ∧ catBase s ≠ 0)
    ∧ (∃ s : State, Runs .mgt s ∧ catBase s = 0) :=
  ⟨⟨{ tUp with regs := [(0x83004, 0x00400000#32)] }, 1, by decide +kernel⟩,
   ⟨tUp, 2, by decide +kernel⟩,
   ⟨{ tUp with ret := { busy := true } }, by decide +kernel⟩,
   ⟨{ tUp with regs := [(0x83004, 0x00400000#32)] }, by decide +kernel⟩,
   ⟨tUp, by decide +kernel⟩⟩

/-- What each clause of SelectsAndStagedMembers assumes is met. -/
theorem witness_SelectsAndStagedMembers :
    (∃ (s : State), CtlOpen 0x70000 s)
    ∧ (∃ (s : State), CtlOpen 0xC0000 s)
    ∧ (∃ (s : State), CtlOpen 0xC1000 s)
    ∧ (∃ (s : State), CtlOpen 0xC2000 s)
    ∧ (∃ (s : State), CtlOpen 0xB1000 s)
    ∧ (∃ (s : State), CtlOpen 0x70004 s)
    ∧ (∃ (s : State), CtlOpen 0xC1008 s)
    ∧ (∃ (s : State), CtlOpen 0xA0000 s) :=
  ⟨⟨tUp, by decide +kernel⟩,
   ⟨tUp, by decide +kernel⟩,
   ⟨tUp, by decide +kernel⟩,
   ⟨tUp, by decide +kernel⟩,
   ⟨tUp, by decide +kernel⟩,
   ⟨tUp, by decide +kernel⟩,
   ⟨tUp, by decide +kernel⟩,
   ⟨tUp, by decide +kernel⟩⟩

/-- What each clause of CommitsTakeAllOrNothingOfAGroup assumes is met. -/
theorem witness_CommitsTakeAllOrNothingOfAGroup :
    (∃ (s : State) (v : W32), bit v 0 = true ∧ CtlOpen 0x70030 s ∧
      commitRefused s.rat.com (tableOf s s.tbl.sel) s.tbl.staged = false)
    ∧ (∃ (s : State) (v : W32), bit v 0 = true ∧ CtlOpen 0x70030 s ∧
      commitRefused s.rat.com (tableOf s s.tbl.sel) s.tbl.staged = true)
    ∧ (∃ (s : State) (v : W32), bit v 0 = true ∧ CtlOpen 0xC0010 s ∧ ctxRefused s.fe s.fe.ctxSel s.fe.ctxStaged = false)
    ∧ (∃ (s : State) (v : W32), bit v 0 = true ∧ CtlOpen 0xC0010 s ∧ ctxRefused s.fe s.fe.ctxSel s.fe.ctxStaged = true)
    ∧ (∃ (s : State) (v : W32), bit v 0 = true ∧ CtlOpen 0xC1014 s ∧
      sqRefused s.fe (s.fe.sqOf s.fe.sqSel).regs s.fe.sqStaged = false ∧ (s.fe.sqOf s.fe.sqSel).en = true ∧
      bit s.fe.sqStaged.cfg 31 = true)
    ∧ (∃ (s : State) (v : W32), bit v 0 = true ∧ CtlOpen 0xC1014 s ∧
      sqRefused s.fe (s.fe.sqOf s.fe.sqSel).regs s.fe.sqStaged = true)
    ∧ (∃ (s : State) (v : W32), bit v 0 = true ∧ CtlOpen 0xC2014 s ∧
      cqRefused s.fe s.fe.cqSel (s.fe.cqOf s.fe.cqSel).regs s.fe.cqStaged = false)
    ∧ (∃ (s : State) (v : W32), bit v 0 = true ∧ CtlOpen 0xB100C s ∧ s.fe.atgStaged.bad = false)
    ∧ (∃ (s : State) (v : W32), bit v 0 = true ∧ CtlOpen 0xB100C s ∧ s.fe.atgStaged.bad = true)
    ∧ (∃ (s : State) (v : W32), bit v 0 = true ∧ CtlOpen 0xA1000 s ∧ s.rat.busy = false ∧ ratRefused s s.rat.staged = false)
    ∧ (∃ (s : State) (v : W32), bit v 0 = true ∧ CtlOpen 0xA1000 s ∧ s.rat.busy = false ∧ ratRefused s s.rat.staged = true)
    ∧ (∃ (c : Ctx) (r : CtxRegs), bit r.cfg 31 = true ∧ bit c.cfg 31 = false)
    ∧ (∃ (c : Ctx) (r : CtxRegs), bit r.cfg 31 = bit c.cfg 31)
    ∧ (∃ (q : Sq) (r : QRegs), bit r.cfg 31 = true ∧ q.en = false)
    ∧ (∃ (q : Cq) (r : QRegs), bit r.cfg 31 = true ∧ q.en = false) :=
  ⟨⟨{ tTab with tbl := { tTab.tbl with staged := { tDesc with pg := 1 } } }, 1, by decide +kernel⟩,
   ⟨{ tTab with tbl := { tTab.tbl with staged := { tDesc with shard := 0 } } }, 1, by decide +kernel⟩,
   ⟨{ tTab with fe := { tFe with ctxStaged := { cfg := 0x80FF0001#32 } } }, 1, by decide +kernel⟩,
   ⟨{ tTab with fe := { tFe with ctxStaged := {} } }, 1, by decide +kernel⟩,
   ⟨{ tTab with fe := { tFe with sqStaged := { cfg := 0x800003FF#32 } } }, 1, by decide +kernel⟩,
   ⟨{ tTab with fe := { tFe with sqSel := 16383, sqStaged := { cfg := 0x80000000#32, aux := 0x0FFF0000#32 } } }, 1,
      by decide +kernel⟩,
   ⟨{ tTab with fe := { tFe with cqSel := 4095, cqStaged := { cfg := 0x80F00FFF#32 } } }, 1, by decide +kernel⟩,
   ⟨{ tTab with fe := { tFe with atgStaged := { lo := 47#32, hi := 0x80000000#32 } } }, 1, by decide +kernel⟩,
   ⟨{ tTab with fe := { tFe with atgStaged := { lo := 48#32, hi := 0x80000000#32 } } }, 1, by decide +kernel⟩,
   ⟨{ tTab with rat := { tRat with staged := tRat.com } }, 1, by decide +kernel⟩,
   ⟨{ tTab with rat := tRat }, 1, by decide +kernel⟩,
   ⟨{}, { cfg := 0x80FF0000#32 }, by decide +kernel⟩,
   ⟨{}, {}, by decide +kernel⟩,
   ⟨{}, { cfg := 0x80000000#32 }, by decide +kernel⟩,
   ⟨{}, { cfg := 0x80000000#32 }, by decide +kernel⟩⟩

/-- What each clause of UnitRegistersTakeEffect assumes is met. -/
theorem witness_UnitRegistersTakeEffect :
    (∃ s : State, Runs .fab s ∧ s.rat.busy = true ∧ ratBusy s = false)
    ∧ (∃ (s : State) (k : Nat) (v : W32), CtlOpen (0xA2000 + 16 * k) s ∧ k < 64 ∧ (s.dc.slice k).busy = false ∧ (8 < fld v 11 8
      ∨ 10 < fld v 11 8 + fld v 3 0))
    ∧ (∃ (s : State) (k : Nat) (v : W32), CtlOpen (0xA2000 + 16 * k) s ∧ k < 64 ∧ (s.dc.slice k).busy = false ∧ fld v 11 8 ≤ 8
      ∧ fld v 11 8 + fld v 3 0 ≤ 10)
    ∧ (∃ (s : State) (k : Nat), Runs (.part (partOfSlice k)) s ∧ (s.dc.slice k).busy = true ∧ (∀ l ∈ (s.dc.slice k).lines,
      (s.dc.slice k).cacheWays ≤ l.way → (s.dc.slice k).inTxn l.line = false))
    ∧ (∃ (s : State) (c : Nat), CtlOpen (0xA3000 + 4 * c) s ∧ c < 64 ∧ rget s (0xA3000 + 4 * c) &&& 0xF#32 = 0#32)
    ∧ (∃ (s : State) (p : Nat) (v : W32), CtlOpen (0x120100 + 4 * p) s ∧ p < 8 ∧ bit v 30 = true ∧ 10 ≤ fld v 15 0)
    ∧ (∃ (s : State) (k : Nat) (v : W32), CtlOpen (0x60000 + 0x40 * k) s ∧ k < 10 ∧ bit v 0 = true)
    ∧ (∃ (s : State) (k : Nat) (v : W32), CtlOpen (0x60000 + 0x40 * k) s ∧ k < 10 ∧ bit v 0 = false)
    ∧ (∃ (s : State), CtlOpen 0xD0000 s ∧ fwf regReset s.regs = true) :=
  ⟨⟨{ tTab with rat := { tRat with busy := true, applying := tRat.com } }, by decide +kernel⟩,
   ⟨tUp, 63, 0x00000803#32, by decide +kernel⟩,
   ⟨tUp, 63, 0x00000802#32, by decide +kernel⟩,
   ⟨{ tUp with dc := { slices := [(63, { sliceDef 63 with busy := true })] } }, 63, by decide +kernel⟩,
   ⟨{ tUp with regs := [(0xA30FC, 0#32)] }, 63, by decide +kernel⟩,
   ⟨tUp, 7, 0x4000000A#32, by decide +kernel⟩,
   ⟨tUp, 9, 3, by decide +kernel⟩,
   ⟨tUp, 9, 2, by decide +kernel⟩,
   ⟨tUp, by decide +kernel⟩⟩

/-- What each clause of LocalStoreAccesses assumes is met. -/
theorem witness_LocalStoreAccesses :
    (∃ (s : State) (x : Issue) (p : Path), Issues s 0x90 x p ∧ lsOut p (accBytes (wMod p.w)) = none ∧
      lsBadRead (clocked p s) p (accBytes (wMod p.w)) = false ∧ accBytes (wMod p.w) % 4 = 0)
    ∧ (∃ (s : State) (x : Issue) (p : Path), Issues s 0x91 x p ∧ lsOut p (accBytes (wMod p.w)) = none)
    ∧ (∃ (s : State) (x : Issue) (p : Path) (i : _), Issues s 0x92 x p ∧ p.act = [i] ∧ lsOut p (atomSize (wMod p.w)) = none ∧
      lsBadRead (clocked p s) p (atomSize (wMod p.w)) = false)
    ∧ (∃ (s : State) (x : Issue) (p : Path) (o : _), Issues s 0x91 x p ∧ lsOut p (accBytes (wMod p.w)) = some o) :=
  ⟨⟨(tSimt { tGrp with regs := [(1, 1020#32)] }), tWord [(16, 1), (40, 2)],
      tPath (tSimt { tGrp with regs := [(1, 1020#32)] }) 0x90 (tWord [(16, 1), (40, 2)]), tIssues_issues (by decide +kernel),
      by decide +kernel⟩,
   ⟨(tSimt { tGrp with regs := [(1, 1023#32)] }), tWord [(16, 1)],
      tPath (tSimt { tGrp with regs := [(1, 1023#32)] }) 0x91 (tWord [(16, 1)]), tIssues_issues (by decide +kernel),
      by decide +kernel⟩,
   ⟨(tSimt { tGrp with regs := [(1, 1020#32)] }), tWord [(16, 1)],
      tPath (tSimt { tGrp with regs := [(1, 1020#32)] }) 0x92 (tWord [(16, 1)]), 0, tIssues_issues (by decide +kernel),
      by decide +kernel⟩,
   ⟨(tSimt { tGrp with regs := [(1, 1024#32)] }), tWord [(16, 1)],
      tPath (tSimt { tGrp with regs := [(1, 1024#32)] }) 0x91 (tWord [(16, 1)]), 1024, tIssues_issues (by decide +kernel),
      by decide +kernel⟩⟩

/-- The group holds a reservation on the line, and stores to it conditionally. -/
def tResv : State := tHost { tGrp with resv := [{ lane := 0, line := hostLine, at_ := tUp.devtime, n := 0 }] } true
def tResvPath : Path := tPath tResv 0xA3 (tWord [(40, 2)])
def tResvPiece : Piece :=
  (tOk (planOf (clocked tResvPath tResv) tResvPath.l true (vaAccess tResvPath 4))).headD { lane := 0, off := 0, n := 0, va := 0, key := 0 }
def tResvReady : State × Bool := homeReady true tResvPath.t.core (tResvPiece.key / 128) 0 (clocked tResvPath tResv)

/-- What each clause of GlobalLoadsAndStores assumes is met. -/
theorem witness_GlobalLoadsAndStores :
    (∃ (s : State) (x : Issue) (p : Path) (ps : List Piece), Issues s 0x80 x p ∧ planOf (clocked p s) p.l false (vaAccess p
      (accBytes (wMod p.w))) = .ok ps ∧ (∀ l ∈ linesOf ps, pieceMask ps l &&& ~~~coreMask (clocked p s) p.t.core l = 0) ∧ (∀ y
      ∈ ps, piecePoison (clocked p s) p.t.core y = false) ∧ 4 ≤ accBytes (wMod p.w))
    ∧ (∃ (s : State) (x : Issue) (p : Path) (ps : List Piece), Issues s 0xA2 x p ∧ misaligned p (accBytes (wMod p.w)) = none ∧
      planOf (clocked p s) p.l false (vaAccess p (accBytes (wMod p.w))) = .ok ps ∧ storesTo (clocked p s) p.t.core (linesOf ps)
      = false ∧ (∀ l ∈ linesOf ps, pieceMask ps l &&& ~~~coreMask (clocked p s) p.t.core l = 0) ∧ (∀ y ∈ ps, piecePoison
      (clocked p s) p.t.core y = false) ∧ 4 ≤ accBytes (wMod p.w))
    ∧ (∃ (s : State) (x : Issue) (p : Path) (va : _), Issues s 0xA2 x p ∧ misaligned p (accBytes (wMod p.w)) = some va)
    ∧ (∃ (s : State) (x : Issue) (p : Path) (va : _), Issues s 0x80 x p ∧ planOf (clocked p s) p.l false (vaAccess p (accBytes
      (wMod p.w))) = .denied va)
    ∧ (∃ (s : State) (x : Issue) (p : Path) (ps : List Piece), Issues s 0x81 x p ∧ planOf (clocked p s) p.l true (vaAccess p
      (accBytes (wMod p.w))) = .ok ps ∧ wMod p.w / 64 < 2)
    ∧ (∃ (s : State) (x : Issue) (p : Path) (va : _), Issues s 0x81 x p ∧ planOf (clocked p s) p.l true (vaAccess p (accBytes
      (wMod p.w))) = .denied va)
    ∧ (∃ (s : State) (x : Issue) (p : Path) (ps : List Piece), Issues s 0xA3 x p ∧ misaligned p (accBytes (wMod p.w)) = none ∧
      wMod p.w / 64 < 2 ∧ planOf (clocked p s) p.l true (vaAccess p (accBytes (wMod p.w))) = .ok ps ∧ (∀ y ∈ ps, holdsResv
      (clocked p s) p y.lane (y.key / 128) = false))
    ∧ (∃ (s : State) (x : Issue) (p : Path) (i : Nat) (y : Piece) (t : State), Issues s 0xA3 x p ∧ p.act = [i] ∧ misaligned p
      (accBytes (wMod p.w)) = none ∧ wMod p.w / 64 < 2 ∧ planOf (clocked p s) p.l true (vaAccess p (accBytes (wMod p.w))) = .ok
      [y] ∧ y.lane = i ∧ holdsResv (clocked p s) p i (y.key / 128) = true ∧ linesOf [y] = [y.key / 128] ∧ storesTo (clocked p
      s) p.t.core [y.key / 128] = false ∧ homeReady true p.t.core (y.key / 128) 0 (clocked p s) = (t, true) ∧ holdsResv t p i
      (y.key / 128) = true)
    ∧ (∃ (s : State) (x : Issue) (p : Path) (va : Nat), Issues s 0xA3 x p ∧ misaligned p (accBytes (wMod p.w)) = some va) :=
  ⟨⟨tHost tGrp true, tWord [(40, 2)], (tPath (tHost tGrp true) 0x80 (tWord [(40, 2)])), (tOk (planOf (clocked (tPath (tHost
      tGrp true) 0x80 (tWord [(40, 2)])) (tHost tGrp true)) (tPath (tHost tGrp true) 0x80 (tWord [(40, 2)])).l false (vaAccess
      (tPath (tHost tGrp true) 0x80 (tWord [(40, 2)])) (accBytes (wMod (tPath (tHost tGrp true) 0x80 (tWord [(40, 2)])).w))))),
      tIssues_issues (by decide +kernel), tPlan (by decide +kernel), by decide +kernel⟩,
   ⟨tHost tGrp true, tWord [(40, 2)], (tPath (tHost tGrp true) 0xA2 (tWord [(40, 2)])), (tOk (planOf (clocked (tPath (tHost
      tGrp true) 0xA2 (tWord [(40, 2)])) (tHost tGrp true)) (tPath (tHost tGrp true) 0xA2 (tWord [(40, 2)])).l false (vaAccess
      (tPath (tHost tGrp true) 0xA2 (tWord [(40, 2)])) (accBytes (wMod (tPath (tHost tGrp true) 0xA2 (tWord [(40, 2)])).w))))),
      tIssues_issues (by decide +kernel), by decide +kernel, tPlan (by decide +kernel), by decide +kernel⟩,
   ⟨(tHost { tGrp with regs := [(0, 2#32)] } true), tWord [(40, 2)], tPath (tHost { tGrp with regs := [(0, 2#32)] } true) 0xA2
      (tWord [(40, 2)]), 2, tIssues_issues (by decide +kernel), by decide +kernel⟩,
   ⟨(tHost tGrp false), tWord [], tPath (tHost tGrp false) 0x80 (tWord []), 0, tIssues_issues (by decide +kernel), by rfl⟩,
   ⟨(tHost tGrp true), tWord [(40, 4)], tPath (tHost tGrp true) 0x81 (tWord [(40, 4)]), (tOk (planOf (clocked (tPath (tHost
      tGrp true) 0x81 (tWord [(40, 4)])) (tHost tGrp true)) (tPath (tHost tGrp true) 0x81 (tWord [(40, 4)])).l true (vaAccess
      (tPath (tHost tGrp true) 0x81 (tWord [(40, 4)])) (accBytes (wMod (tPath (tHost tGrp true) 0x81 (tWord [(40, 4)])).w))))),
      tIssues_issues (by decide +kernel), tPlan (by decide +kernel), by decide +kernel⟩,
   ⟨(tHost tGrp false), tWord [], tPath (tHost tGrp false) 0x81 (tWord []), 0, tIssues_issues (by decide +kernel), by rfl⟩,
   ⟨(tHost tGrp true), tWord [(40, 2)], tPath (tHost tGrp true) 0xA3 (tWord [(40, 2)]), (tOk (planOf (clocked (tPath (tHost
      tGrp true) 0xA3 (tWord [(40, 2)])) (tHost tGrp true)) (tPath (tHost tGrp true) 0xA3 (tWord [(40, 2)])).l true (vaAccess
      (tPath (tHost tGrp true) 0xA3 (tWord [(40, 2)])) (accBytes (wMod (tPath (tHost tGrp true) 0xA3 (tWord [(40, 2)])).w))))),
      tIssues_issues (by decide +kernel), by decide +kernel, by decide +kernel, tPlan (by decide +kernel), by decide +kernel⟩,
   ⟨tResv, tWord [(40, 2)], tResvPath, 0, tResvPiece, tResvReady.1, tIssues_issues (by decide +kernel),
      by and_intros <;> first | exact tPair (by decide +kernel) | decide +kernel⟩,
   ⟨tSimt { tGrp with regs := [(0, 2#32)] }, tWord [(40, 3)], tPath (tSimt { tGrp with regs := [(0, 2#32)] }) 0xA3 (tWord [(40,
      3)]), 2, tIssues_issues (by decide +kernel), by decide +kernel⟩⟩

/-- An atomic of the host page: its path, its pieces, and what the homes answer. -/
def tAtom (opc : Nat) : Path := tPath (tHost tGrp true) opc (tWord [])
def tAtomPs (opc : Nat) : List Piece :=
  tOk (planOf (clocked (tAtom opc) (tHost tGrp true)) (tAtom opc).l true (vaAccess (tAtom opc) (atomSize (wMod (tAtom opc).w))))
def tAtomEnd (opc : Nat) (red : Bool) : State × Bool :=
  let d := decideAtoms (tAtom opc) red (linesOf (tAtomPs opc)) (clocked (tAtom opc) (tHost tGrp true))
  d.2.foldl (fun (a : State × Bool) d => let y := atomReady (tAtom opc) red (tAtomPs opc) d a.1; (y.1, a.2 && y.2)) (d.1, true)

/-- What each clause of AtomicsAndTheirOperations assumes is met. -/
theorem witness_AtomicsAndTheirOperations :
    (∃ (s : State) (x : Issue) (p : Path) (ps : List Piece) (t : State), Issues s 0xA0 x p ∧ misaligned p (atomSize (wMod p.w))
      = none ∧ (∀ a ∈ vaAccess p (atomSize (wMod p.w)), granted (clocked p s) p.l.ctx a.2.1 (atomSize (wMod p.w)) = true) ∧
      planOf (clocked p s) p.l true (vaAccess p (atomSize (wMod p.w))) = .ok ps ∧ wMod p.w / 64 < 2 ∧ storesTo (clocked p s)
      p.t.core (linesOf ps) = false ∧ (decideAtoms p false (linesOf ps) (clocked p s)).2.foldl (fun (a : State × Bool) d =>
      let y := atomReady p false ps d a.1; (y.1, a.2 && y.2)) ((decideAtoms p false (linesOf ps) (clocked p s)).1, true) = (t,
      true))
    ∧ (∃ (s : State) (x : Issue) (p : Path) (ps : List Piece) (t : State), Issues s 0xA1 x p ∧ misaligned p (atomSize (wMod
      p.w)) = none ∧ planOf (clocked p s) p.l true (vaAccess p (atomSize (wMod p.w))) = .ok ps ∧ wMod p.w / 64 < 2 ∧ storesTo
      (clocked p s) p.t.core (linesOf ps) = false ∧ (decideAtoms p true (linesOf ps) (clocked p s)).2.foldl (fun (a : State ×
      Bool) d => let y := atomReady p true ps d a.1; (y.1, a.2 && y.2)) ((decideAtoms p true (linesOf ps) (clocked p s)).1,
      true) = (t, true))
    ∧ (∃ (s : State) (x : Issue) (p : Path) (a : _), Issues s 0xA0 x p ∧ misaligned p (atomSize (wMod p.w)) = none ∧ ((vaAccess
      p (atomSize (wMod p.w))).find? fun a => !granted (clocked p s) p.l.ctx a.2.1 (atomSize (wMod p.w))) = some a) :=
  ⟨⟨tHost tGrp true, tWord [], tAtom 0xA0, tAtomPs 0xA0, (tAtomEnd 0xA0 false).1, tIssues_issues (by decide +kernel),
      by decide +kernel, by decide +kernel, tPlan (by decide +kernel), by decide +kernel, by decide +kernel, tPair (by
      decide +kernel)⟩,
   ⟨tHost tGrp true, tWord [], tAtom 0xA1, tAtomPs 0xA1, (tAtomEnd 0xA1 true).1, tIssues_issues (by decide +kernel),
      by decide +kernel, tPlan (by decide +kernel), by decide +kernel, by decide +kernel, tPair (by decide +kernel)⟩,
   ⟨(tHost { tGrp with regs := [(0, 4096#32)] } true), tWord [], tPath (tHost { tGrp with regs := [(0, 4096#32)] } true) 0xA0
      (tWord []), (0, 4096, 4), tIssues_issues (by decide +kernel), by decide +kernel⟩⟩

/-- What each clause of FencesWaitsAndItems assumes is met. -/
theorem witness_FencesWaitsAndItems :
    (∃ (s : State) (x : Issue) (p : Path), Issues s 0xB0 x p ∧ (wMod p.w / 4 = 1 ∨ wMod p.w % 4 < 2))
    ∧ (∃ (s : State) (x : Issue) (p : Path), Issues s 0xB0 x p ∧ wMod p.w / 4 ≠ 1 ∧ wMod p.w % 4 = 2 ∧ ((coreAt s
      p.t.core).sb.any fun e => e.level = .core) = true)
    ∧ (∃ (s : State) (x : Issue) (p : Path), Issues s 0xB1 x p ∧ wRa p.w ≠ 8)
    ∧ (∃ (s : State) (x : Issue) (p : Path), Issues s 0xB1 x p ∧ wRa p.w = 8)
    ∧ (∃ (s : State) (x : Issue) (p : Path), Issues s 0xB2 x p ∧ (∀ i ∈ p.act, (p.a i).toNat ≤ fget 0 (coreAt s p.t.core).land
      p.l.id))
    ∧ (∃ (s : State) (x : Issue) (p : Path), Issues s 0xB2 x p ∧ (∃ i ∈ p.act, fget 0 (coreAt s p.t.core).land p.l.id < (p.a
      i).toNat))
    ∧ (∃ (s : State) (x : Issue) (p : Path) (it : _), Issues s 0xB3 x p ∧ (p.l.items.find? fun i => !i.taken) = some it)
    ∧ (∃ (s : State) (x : Issue) (p : Path) (i : Nat) (it : Item) (t : State), Issues s 0xB4 x p ∧ p.act = [i] ∧ p.l.items =
      [it] ∧ it.tag % 2 ^ 32 = (p.a i).toNat ∧ it.done = false ∧ drain p 3 (clocked p s) = (t, true))
    ∧ (∃ (s : State) (x : Issue) (p : Path) (i v : _), Issues s 0xB4 x p ∧ p.act = [i] ∧ p.l.items = [] ∧ v = (p.a i).toNat)
    ∧ (∃ (s : State) (x : Issue) (p : Path) (i pa : _), Issues s 0x82 x p ∧ p.act = [i] ∧ xlat (clocked p s) p.l.ctx p.l.gen
      (p.g.reg64 i (wRa p.w)) false = .pa pa ∧ physOk (clocked p s) pa 1 = true)
    ∧ (∃ (s : State) (x : Issue) (p : Path) (t : State), Issues s 0xB0 x p ∧ wMod p.w / 4 ≠ 1 ∧ drain p (wMod p.w % 4) (clocked
      p s) = (t, true)) :=
  ⟨⟨(tSimt tGrp), tWord [(40, 4)], tPath (tSimt tGrp) 0xB0 (tWord [(40, 4)]), tIssues_issues (by decide +kernel),
      by decide +kernel⟩,
   ⟨({ tSimt tGrp with simt := { (tSimt tGrp).simt with cores := [(0, { sb := [{ launch := 0, team := 0, cmd := 0, group := 0, lanes := [0], line := hostLine, bytes := [], level := .core }] })] } }),
      tWord [(40, 2)], tPath
      ({ tSimt tGrp with simt := { (tSimt tGrp).simt with cores := [(0, { sb := [{ launch := 0, team := 0, cmd := 0, group := 0, lanes := [0], line := hostLine, bytes := [], level := .core }] })] } })
      0xB0 (tWord [(40, 2)]), tIssues_issues (by decide +kernel), by decide +kernel⟩,
   ⟨(tSimt tGrp), tWord [(16, 9)], tPath (tSimt tGrp) 0xB1 (tWord [(16, 9)]), tIssues_issues (by decide +kernel),
      by decide +kernel⟩,
   ⟨(tSimt tGrp), tWord [(16, 8)], tPath (tSimt tGrp) 0xB1 (tWord [(16, 8)]), tIssues_issues (by decide +kernel),
      by decide +kernel⟩,
   ⟨(tSimt tGrp), tWord [], tPath (tSimt tGrp) 0xB2 (tWord []), tIssues_issues (by decide +kernel), by decide +kernel⟩,
   ⟨(tSimt { tGrp with regs := [(0, 1#32)] }), tWord [], tPath (tSimt { tGrp with regs := [(0, 1#32)] }) 0xB2 (tWord []),
      tIssues_issues (by decide +kernel), by decide +kernel⟩,
   ⟨(tRun { tLaunch tGrp with resident := true, items := [{ tItem with taken := false }] }), tWord [], tPath (tRun
      { tLaunch tGrp with resident := true, items := [{ tItem with taken := false }] }) 0xB3 (tWord []),
      { tItem with taken := false }, tIssues_issues (by decide +kernel), by decide +kernel⟩,
   ⟨(tRun { tLaunch { tGrp with regs := [(0, 5#32)] } with resident := true, items := [tItem] }), tWord [], tPath (tRun
      { tLaunch { tGrp with regs := [(0, 5#32)] } with resident := true, items := [tItem] }) 0xB4 (tWord []), 0, tItem, (drain
      (tPath (tRun { tLaunch { tGrp with regs := [(0, 5#32)] } with resident := true, items := [tItem] }) 0xB4 (tWord [])) 3
      (clocked (tPath (tRun { tLaunch { tGrp with regs := [(0, 5#32)] } with resident := true, items := [tItem] }) 0xB4 (tWord
      [])) (tRun { tLaunch { tGrp with regs := [(0, 5#32)] } with resident := true, items := [tItem] }))).1, tIssues_issues (by decide +kernel),
      by and_intros <;> first | exact tPair (by decide +kernel) | decide +kernel⟩,
   ⟨(tSimt tGrp), tWord [], tPath (tSimt tGrp) 0xB4 (tWord []), 0, 0, tIssues_issues (by decide +kernel), by decide +kernel⟩,
   ⟨(tHost tGrp true), tWord [], tPath (tHost tGrp true) 0x82 (tWord []), 0, 0, tIssues_issues (by decide +kernel),
      by decide +kernel⟩,
   ⟨tSimt tGrp, tWord [(40, 2)], tPath (tSimt tGrp) 0xB0 (tWord [(40, 2)]), (drain (tPath (tSimt tGrp) 0xB0 (tWord [(40, 2)]))
      2 (clocked (tPath (tSimt tGrp) 0xB0 (tWord [(40, 2)])) (tSimt tGrp))).1, tIssues_issues (by decide +kernel),
      by decide +kernel, tPair (by decide +kernel)⟩⟩

/-- What each clause of MoverInstructions assumes is met. -/
theorem witness_MoverInstructions :
    (∃ (s : State) (x : Issue) (p : Path), Issues s 0xC0 x p ∧ queuedAt (clocked p s) p.t.core < 32)
    ∧ (∃ (s : State) (x : Issue) (p : Path), Issues s 0xC0 x p ∧ 32 ≤ queuedAt (clocked p s) p.t.core)
    ∧ (∃ (s : State) (x : Issue) (p : Path) (tag : _), Issues s 0xC1 x p ∧
      toutTag p.l (p.g.reg (p.act.headD 0) (wRb p.w)) = some tag ∧ queuedAt (clocked p s) p.t.core < 32)
    ∧ (∃ (s : State) (x : Issue) (p : Path), Issues s 0xC1 x p ∧ toutTag p.l (p.g.reg (p.act.headD 0) (wRb p.w)) = none)
    ∧ (∃ (s : State) (x : Issue) (p : Path) (off : _), Issues s 0xC0 x p ∧ off = (p.a (p.act.headD 0)).toNat ∧
      inTeams p.l p.t.core off 64 = true ∧ lsPoison (clocked p s) p.t.core off 64 = false ∧ off % 64 = 0 ∧
      tdReserved (lsRead s p.t.core off 64) = false ∧ tdGeometry (lsRead s p.t.core off 64) false false = false ∧
      tdDspace (lsRead s p.t.core off 64) = 2)
    ∧ (∃ (s : State) (x : Issue) (p : Path), Issues s 0xC2 x p ∧ (∀ i ∈ p.act,
      (BitVec.ofNat 32 (mcOf (clocked p s) p.t.core p.l.id (wMod p.w % 8)) - p.a i).msb = false)) :=
  ⟨⟨({ tSimt tGrp with mov := { xfers := List.replicate 31 tXfer } }), tWord [],
      tPath ({ tSimt tGrp with mov := { xfers := List.replicate 31 tXfer } }) 0xC0 (tWord []),
      tIssues_issues (by decide +kernel), by decide +kernel⟩,
   ⟨({ tSimt tGrp with mov := { xfers := List.replicate 32 tXfer } }), tWord [],
      tPath ({ tSimt tGrp with mov := { xfers := List.replicate 32 tXfer } }) 0xC0 (tWord []),
      tIssues_issues (by decide +kernel), by decide +kernel⟩,
   ⟨(tSimt { tGrp with regs := [(0, 0xFFFFFFFF#32)] }), tWord [],
      tPath (tSimt { tGrp with regs := [(0, 0xFFFFFFFF#32)] }) 0xC1 (tWord []), none, tIssues_issues (by decide +kernel),
      by decide +kernel⟩,
   ⟨(tSimt tGrp), tWord [], tPath (tSimt tGrp) 0xC1 (tWord []), tIssues_issues (by decide +kernel), by decide +kernel⟩,
   ⟨({ tSimt tGrp with simt := { (tSimt tGrp).simt with cores := [(0, { ls := [(16, 9#8), (20, 1#8)] })] } }), tWord [],
      tPath ({ tSimt tGrp with simt := { (tSimt tGrp).simt with cores := [(0, { ls := [(16, 9#8), (20, 1#8)] })] } }) 0xC0 (tWord []),
      0, tIssues_issues (by decide +kernel), by decide +kernel⟩,
   ⟨(tSimt tGrp), tWord [(40, 7)], tPath (tSimt tGrp) 0xC2 (tWord [(40, 7)]), tIssues_issues (by decide +kernel),
      by decide +kernel⟩⟩

/-- What each clause of PressInstructionsIssue assumes is met. -/
theorem witness_PressInstructionsIssue :
    (∀ opc ∈ [0xE0, 0xE1, 0xE2], ∃ s x p, (streamAt s p.t.core (wS p.w)).launch = some p.l.id ∧
      pendOf s p.t.core p.l.id (wTok p.w) < 63 ∧ (streamAt s p.t.core (wS p.w)).queue.length < 8 ∧ Issues s opc x p)
    ∧ (∃ (s : State) (x : Issue) (p : Path), (streamAt s p.t.core (wS p.w)).launch = some p.l.id ∧
      8 ≤ (streamAt s p.t.core (wS p.w)).queue.length ∧ Issues s 0xE1 x p)
    ∧ (∃ (s : State) (x : Issue) (p : Path), (streamAt s p.t.core (wS p.w)).launch ≠ some p.l.id ∧ Issues s 0xE0 x p)
    ∧ (∃ (s : State) (x : Issue) (p : Path), Issues s 0xE3 x p ∧ pendOf s p.t.core p.l.id (wTok p.w) ≤ wDi p.w)
    ∧ (∃ (s : State) (x : Issue) (p : Path), Issues s 0xE3 x p ∧ wDi p.w < pendOf s p.t.core p.l.id (wTok p.w)) :=
  ⟨fun opc h => ⟨_, _, tPath (tPress { queue := List.replicate 7 (tIns 0xE0#8) }) opc (tWord []), by
      revert opc; decide +kernel, by revert opc; decide +kernel, by revert opc; decide +kernel,
      tIssues_issues (List.all_eq_true.mp (by decide +kernel : ([0xE0, 0xE1, 0xE2].all fun opc =>
        tIssues (tPress { queue := List.replicate 7 (tIns 0xE0#8) }) opc (tWord [])) = true) opc h)⟩,
   ⟨(tPress { queue := List.replicate 8 (tIns 0xE0#8) }), tWord [],
      tPath (tPress { queue := List.replicate 8 (tIns 0xE0#8) }) 0xE1 (tWord []), by decide +kernel, by decide +kernel,
      tIssues_issues (by decide +kernel)⟩,
   ⟨(tSimt tGrp), tWord [], tPath (tSimt tGrp) 0xE0 (tWord []), by decide +kernel, tIssues_issues (by decide +kernel)⟩,
   ⟨({ tPress {} with simt := { (tPress {}).simt with cores := [(0, { tok := [(0, 63)] })] } }), tWord [(16, 63)],
      tPath ({ tPress {} with simt := { (tPress {}).simt with cores := [(0, { tok := [(0, 63)] })] } }) 0xE3 (tWord [(16,
      63)]), tIssues_issues (by decide +kernel), by decide +kernel⟩,
   ⟨({ tPress {} with simt := { (tPress {}).simt with cores := [(0, { tok := [(0, 63)] })] } }), tWord [(16, 62)],
      tPath ({ tPress {} with simt := { (tPress {}).simt with cores := [(0, { tok := [(0, 63)] })] } }) 0xE3 (tWord [(16,
      62)]), tIssues_issues (by decide +kernel), by decide +kernel⟩⟩

/-- What each clause of PressInstructionsRunAndComplete assumes is met. -/
theorem witness_PressInstructionsRunAndComplete :
    (∃ (s : State) (core strm : Nat) (i : PressIns) (rest : List PressIns) (lid : Nat) (l : Launch),
      Runs (.part (partOfCore core)) s ∧ (streamAt s core strm).launch = some lid ∧ findLaunch s lid = some l ∧
      l.ending = none ∧ s.flt.safe = false ∧ clusterInReset s (core / 4) = false ∧ (streamAt s core strm).queue = i :: rest ∧
      mayStart s core strm i = true ∧ pressBad l core ((streamAt s core strm).swap i).active i = false)
    ∧ (∃ (s : State) (core strm : Nat) (i : PressIns) (rest : List PressIns) (lid : Nat) (l : Launch),
      Runs (.part (partOfCore core)) s ∧ (streamAt s core strm).launch = some lid ∧ findLaunch s lid = some l ∧
      l.ending = none ∧ s.flt.safe = false ∧ clusterInReset s (core / 4) = false ∧ (streamAt s core strm).queue = i :: rest ∧
      mayStart s core strm i = true ∧ pressBad l core ((streamAt s core strm).swap i).active i = true)
    ∧ (∃ (s : State) (core strm : Nat) (i : PressIns) (lid : Nat) (l : Launch) (opc : _), Runs (.part (partOfCore core)) s ∧
      (streamAt s core strm).launch = some lid ∧ findLaunch s lid = some l ∧ l.ending = none ∧ s.flt.safe = false ∧
      clusterInReset s (core / 4) = false ∧ ((streamAt s core strm).running.find? fun j => j.opc = opc) = some i)
    ∧ (∃ (s : State) (l : Launch) (core : Nat) (i : PressIns) (d : BitVec 128), l.pdt[wDi i.word.toNat]? = some d ∧
      tilePoison s (tileAt d core i.adj) = false ∧ i.opc = 0xE0#8)
    ∧ (∃ (s : State) (l : Launch) (core : Nat) (i : PressIns) (d : BitVec 128), l.pdt[wDi i.word.toNat]? = some d ∧
      tilePoison s (tileAt d core i.adj) = false ∧ i.opc = 0xE1#8)
    ∧ (∃ (s : State) (l : Launch) (core : Nat) (i : PressIns) (d : BitVec 128), l.pdt[wDi i.word.toNat]? = some d ∧
      tilePoison s (tileAt d core i.adj) = false ∧ i.opc = 0xE2#8) :=
  ⟨⟨tPress { queue := [tIns 0xE0#8], running := [] }, 0, 0, tIns 0xE0#8, [], 0,
      { tLaunch tGrp with pdt := [tTile false, tTile true] }, by decide +kernel⟩,
   ⟨tPress { queue := [tIns 0xE2#8], running := [] }, 0, 0, tIns 0xE2#8, [], 0,
      { tLaunch tGrp with pdt := [tTile false, tTile true] }, by decide +kernel⟩,
   ⟨tPress { queue := [], running := [tIns 0xE0#8] }, 0, 0, tIns 0xE0#8, 0,
      { tLaunch tGrp with pdt := [tTile false, tTile true] }, 0xE0#8, by decide +kernel⟩,
   ⟨tPress {}, { tLaunch tGrp with pdt := [tTile false, tTile true] }, 0, tIns 0xE0#8, tTile false, by decide +kernel⟩,
   ⟨tPress {}, { tLaunch tGrp with pdt := [tTile false, tTile true] }, 0, tIns 0xE1#8, tTile false, by decide +kernel⟩,
   ⟨tPress {}, { tLaunch tGrp with pdt := [tTile false, tTile true] }, 0, { tIns 0xE2#8 with word := 0x100E2#64 }, tTile true,
      by decide +kernel⟩⟩

/-- What each clause of LaunchesAndTeams assumes is met. -/
theorem witness_LaunchesAndTeams :
    (∃ (s : State) (id : Nat) (c : Cmd), Runs .fab s ∧ InPhase s id .launch .admitted c ∧ lnAttach c.bytes = false)
    ∧ (∃ (s : State) (id : Nat) (c : Cmd), Runs .fab s ∧ InPhase s id .launch .admitted c ∧ lnAttach c.bytes = true)
    ∧ (∃ (s : State) (launch core base : Nat) (slots : List Nat) (l : Launch), Runs (.part (partOfCore core)) s ∧ findLaunch s
      launch = some l ∧ l.ending = none ∧ l.placed < l.nteams ∧ coreFor l core = true ∧ clusterInReset s (core / 4) = false ∧
      s.flt.safe = false ∧ fits s l core = some (base, slots) ∧
      s.fe.mayServe (.team (partOfCore core)) (teamReqs s (partOfCore core)) (l.ctx, l.sq) = true)
    ∧ (∃ (s : State) (launch team : Nat) (l : Launch) (t : Team), Runs (simtDom s launch team) s ∧ findLaunch s launch = some l
      ∧ (l.teams.find? fun y => y.num = team) = some t)
    ∧ (∃ (s : State) (launch : Nat) (l : Launch), Runs .fab s ∧ findLaunch s launch = some l ∧ l.ending = none ∧ l.nteams ≤
      l.placed ∧ l.teams = [] ∧ pressBusy s l.id = false ∧ moverBusy s l.id = false ∧ storesHeld s l.cmd = false ∧ writesOut
      (settleLaunch l s) l.cmd = false)
    ∧ (∃ (s : State) (launch : Nat) (l : Launch) (st : Byte), Runs .fab s ∧ findLaunch s launch = some l ∧ l.ending = some st) :=
  ⟨⟨tHas (tCmd .launch .admitted []), 0, tCmd .launch .admitted [], by decide +kernel⟩,
   ⟨tHas (tCmd .launch .admitted [(0x3D, 1, 0x80)]), 0, tCmd .launch .admitted [(0x3D, 1, 0x80)], by decide +kernel⟩,
   ⟨tRun { tLaunch tGrp with teams := [], placed := 0 }, 0, 31, 0, [0], { tLaunch tGrp with teams := [], placed := 0 },
      by decide +kernel⟩,
   ⟨tSimt tGrp, 0, 0, tLaunch tGrp, tTeam tGrp, by decide +kernel⟩,
   ⟨tRun { tLaunch tGrp with teams := [] }, 0, { tLaunch tGrp with teams := [] }, by decide +kernel⟩,
   ⟨tRun { tLaunch tGrp with ending := some 0x20 }, 0, { tLaunch tGrp with ending := some 0x20 }, 0x20, by decide +kernel⟩⟩

/-- What each clause of CoherenceRequestsAndWrites assumes is met. -/
theorem witness_CoherenceRequestsAndWrites :
    (∃ (s : State) (core line : Nat), Runs (.part (partOfSlice (lineHome line))) s ∧ asks s core line false = true ∧
      clusterInReset s (core / 4) = false ∧ slotOwed s (lineHome line) false = false)
    ∧ (∃ (s : State) (core line : Nat), Runs (.part (partOfSlice (lineHome line))) s ∧ asks s core line true = true ∧
      clusterInReset s (core / 4) = false ∧ slotOwed s (lineHome line) false = false)
    ∧ (∃ (s : State) (core line : Nat) (own : Bool), ratWait s line = false ∧ l1Room s core line = true ∧ refused s core line
      (reqKind own) = true)
    ∧ (∃ (s : State) (core line : Nat) (own : Bool), ratWait s line = false ∧ l1Room s core line = true ∧ refused s core line
      (reqKind own) = false ∧ ((coreAt s core).wb.find? fun m => m.line = line) = none ∧ keepsLine (clearNak core line (reqKind
      own) s) core line = true ∧ dirRoom (clearNak core line (reqKind own) s) line = .room ∧ dirOf (clearNak core line (reqKind
      own) s) line = none ∧ (homeLine (clearNak core line (reqKind own) s) (lineHome line) line (missMask (clearNak core line
      (reqKind own) s) core line own)).isSome = true ∧ hostOwns (clearNak core line (reqKind own) s) (lineHome line) line =
      true)
    ∧ (∃ (s : State) (core line : Nat) (n : Nak) (own : Bool), Runs (.part (partOfSlice (lineHome line))) s ∧ ((s.dc.slice
      (lineHome line)).naks.find? fun n => n.core = core && n.line = line) = some n ∧ n.wanted s = true ∧ mayRetry s core line
      n.kind = true ∧ slotOwed s (lineHome line) false = false ∧ n.kind = reqKind own)
    ∧ (∃ (s : State) (line : Nat), Runs (.part (partOfSlice (lineHome line))) s ∧ isHostLine line = false ∧ ratWait s line =
      false ∧ slotOwed s (lineHome line) false = false)
    ∧ (∃ (s : State) (core : Nat) (e : StoreEnt), Runs (.part (partOfCore core)) s ∧ clusterInReset s (core / 4) = false ∧
      oldestStore (coreAt s core) = some e ∧ ratWait s e.line = false ∧ mayRetry s core e.line .writeThrough = true ∧ homeCan s
      e.line = true ∧ slotOwed s (lineHome e.line) true = false ∧ ((coreAt s core).wb.find? fun m => m.line = e.line) = none ∧
      refused (takeSlot (lineHome e.line) true s) core e.line .writeThrough = false ∧ others (clearNak core e.line
      .writeThrough (takeSlot (lineHome e.line) true s)) e.line core = [])
    ∧ (∃ (s : State) (core : Nat) (e : StoreEnt), Runs (.part (partOfCore core)) s ∧ clusterInReset s (core / 4) = false ∧
      oldestStore (coreAt s core) = some e ∧ ratWait s e.line = false ∧ mayRetry s core e.line .writeThrough = true ∧ homeCan s
      e.line = true ∧ slotOwed s (lineHome e.line) true = false ∧ ((coreAt s core).wb.find? fun m => m.line = e.line) = none ∧
      refused (takeSlot (lineHome e.line) true s) core e.line .writeThrough = false ∧ others (clearNak core e.line
      .writeThrough (takeSlot (lineHome e.line) true s)) e.line core ≠ [])
    ∧ (∃ (s : State) (w : PendWrite), Runs .fab s ∧ nextWrite s = some w ∧ refused (takeSlot (lineHome w.line) true s) noCopy
      w.line .write = false ∧ others (clearNak noCopy w.line .write
      { (takeSlot (lineHome w.line) true s) with dc := { (takeSlot (lineHome w.line) true s).dc with writes := dropFirst (fun x => decide (x = w)) (takeSlot (lineHome w.line) true s).dc.writes } })
      w.line noCopy = [])
    ∧ (∃ (s : State) (core : Nat) (m : L1Line) (rest : List L1Line), Runs (.part (partOfCore core)) s ∧ (coreAt s core).wb = m
      :: rest ∧ txnOn s m.line = none ∧ ratWait s m.line = false)
    ∧ (∃ (s : State) (core line : Nat), Runs (.part (partOfCore core)) s ∧ (coreAt s core).notices.contains line = true ∧ txnOn
      s line = none ∧ ((coreAt (modCore core (fun k => { k with notices := dropFirst (fun x => decide (x = line)) k.notices })
      s) core).line line) = none)
    ∧ (∃ (s : State) (line : Nat) (need : BitVec 4), lineReady s line need = true)
    ∧ (∃ (s : State) (line : Nat) (need : BitVec 4), lineReady s line need = false ∧ mayRetry s noCopy line .readCurrent = true
      ∧ s.dc.want.contains line = false ∧ refused { s with dc := { s.dc with want := s.dc.want ++ [line] } } noCopy line
      .readCurrent = false)
    ∧ (∃ (s : State) (core : Nat) (e : StoreEnt), Runs (.part (partOfCore core)) s ∧ clusterInReset s (core / 4) = false ∧
      oldestStore (coreAt s core) = some e ∧ ratWait s e.line = false ∧ mayRetry s core e.line .writeThrough = true ∧ homeCan s
      e.line = true ∧ slotOwed s (lineHome e.line) true = false ∧ refused (takeSlot (lineHome e.line) true s) core e.line
      .writeThrough = true) :=
  ⟨⟨tLine (fun sl => sl) { miss := [{ line := 5, own := false, launch := 0, sm := 1 }] }, 255, 5, by decide +kernel⟩,
   ⟨tLine (fun sl => sl) { miss := [{ line := 5, own := true, launch := 0, sm := 1 }] }, 255, 5, by decide +kernel⟩,
   ⟨tLine (fun sl => { sl with txns := [tTxn [0] []] }) {}, 255, 5, false, by decide +kernel⟩,
   ⟨{ tLine (fun sl => { sl with lines := [{ newLine 0 0 5 with bv := 0xFFFFFFFFFFFFFFFFFFFFFFFFFFFFFFFF#128 }] }) { split := 1 } with regs := [(0xA30FC, 15#32)] },
      255, 5, true, by decide +kernel⟩,
   ⟨tLine (fun sl => { sl with naks := [{ core := 255, line := 5, kind := .readOwn, n := 1, at_ := 0 }] })
      { miss := [{ line := 5, own := true, launch := 0, sm := 1 }] }, 255, 5,
      { core := 255, line := 5, kind := .readOwn, n := 1, at_ := 0 }, true, by decide +kernel⟩,
   ⟨tTab, 5, by decide +kernel⟩,
   ⟨tLine (fun sl => sl) { sb := [tStore] }, 255, tStore, by decide +kernel⟩,
   ⟨tLine (fun sl => { sl with dir := [{ line := 5, owner := some (0, .M), sharers := 0 }] }) { sb := [tStore] }, 255, tStore,
      by decide +kernel⟩,
   ⟨{ tTab with dc := { writes := [{ who := .none, line := 5, bytes := [], tag := none }] } },
      { who := .none, line := 5, bytes := [], tag := none }, by decide +kernel⟩,
   ⟨tLine (fun sl => sl) { wb := [tL1] }, 255, tL1, [], by decide +kernel⟩,
   ⟨tLine (fun sl => sl) { notices := [5] }, 255, 5, by decide +kernel⟩,
   ⟨tLine (fun sl => { sl with lines := [{ newLine 0 0 5 with bv := 0xFFFFFFFFFFFFFFFFFFFFFFFFFFFFFFFF#128 }] }) {}, 5, 15#4,
      by decide +kernel⟩,
   ⟨tTab, 5, 15#4, by decide +kernel⟩,
   ⟨tLine (fun sl => { sl with txns := [tTxn [0] []] }) { sb := [tStore] }, 255, tStore, by decide +kernel⟩⟩

/-- What each clause of SnoopsAndExpiries assumes is met. -/
theorem witness_SnoopsAndExpiries :
    (∃ (s : State) (core line : Nat) (t : Txn) (l : L1Line), Runs (.part (partOfCore core)) s ∧ txnOn s line = some t ∧
      t.snoops.contains core = true ∧ clusterInReset s (core / 4) = false ∧ t.inval = true ∧ l1On s core = true ∧ ((coreAt s
      core).wb.find? fun m => m.line = line) = none ∧ (coreAt s core).line line = some l)
    ∧ (∃ (s : State) (core line : Nat) (t : Txn), Runs (.part (partOfSlice (lineHome line))) s ∧ txnOn s line = some t ∧
      t.answers.contains core = true ∧ (t.snoops ≠ [] ∨ t.answers.filter (· ≠ core) ≠ []))
    ∧ (∃ (s : State) (core line : Nat) (t : Txn), Runs (.part (partOfSlice (lineHome line))) s ∧ txnOn s line = some t ∧
      t.snoops.contains core = true ∧ 10000 ≤ s.devtime.toNat - t.since.toNat)
    ∧ (∃ (s : State) (slice line : Nat) (e : SideEnt), Runs (.part (partOfSlice slice)) s ∧ e ∈ (s.dc.slice slice).side ∧
      e.line = line ∧ 50000 ≤ s.devtime.toNat - e.placed.toNat)
    ∧ (∃ (s : State), Runs .fab s)
    ∧ (∃ (s : State) (core line : Nat) (t : Txn) (l : L1Line), Runs (.part (partOfCore core)) s ∧ txnOn s line = some t ∧
      t.snoops.contains core = true ∧ clusterInReset s (core / 4) = false ∧ t.inval = false ∧ l1On s core = true ∧ ((coreAt s
      core).wb.find? fun m => m.line = line) = none ∧ (coreAt s core).line line = some l ∧ l.st ≠ .S)
    ∧ (∃ (s : State) (core line : Nat) (t : Txn), Runs (.part (partOfSlice (lineHome line))) s ∧ txnOn s line = some t ∧
      t.answers.contains core = true ∧ t.snoops = [] ∧ t.answers.filter (· ≠ core) = []) :=
  ⟨⟨{ tLine (fun sl => { sl with txns := [tTxn [255] []] }) { split := 1, l1 := [tL1] } with regs := [(0xA30FC, 15#32)] }, 255,
      5, tTxn [255] [], tL1, by decide +kernel⟩,
   ⟨tLine (fun sl => { sl with txns := [tTxn [0] [255]] }) {}, 255, 5, tTxn [0] [255], by decide +kernel⟩,
   ⟨tLine (fun sl => { sl with txns := [tTxn [255] []] }) {}, 255, 5, tTxn [255] [], by decide +kernel⟩,
   ⟨tLine (fun sl => { sl with side := [{ line := 5, data := [], placed := 0 }] }) {}, lineHome 5, 5,
      { line := 5, data := [], placed := 0 }, by decide +kernel⟩,
   ⟨tTab, by decide +kernel⟩,
   ⟨{ tLine (fun sl => { sl with txns := [{ tTxn [255] [] with inval := false }] }) { split := 1, l1 := [tL1] } with regs := [(0xA30FC, 15#32)] },
      255, 5, { tTxn [255] [] with inval := false }, tL1, by decide +kernel⟩,
   ⟨tLine (fun sl => { sl with txns := [tTxn [] [255]] }) {}, 255, 5, tTxn [] [255], by decide +kernel⟩⟩

/-- What each clause of TransfersProgress assumes is met. -/
theorem witness_TransfersProgress :
    (∃ (s : State) (id : Nat) (c : Cmd), Runs .fab s ∧ InPhase s id .move .checked c ∧ mvDesc c.bytes % 64 ≠ 0)
    ∧ (∃ (s : State) (id : Nat) (host : ReadBack) (d : Bytes) (devs : List (Nat × Nat)) (c : Cmd), Runs .fab s ∧ InPhase s id
      .move .checked c ∧ mvDesc c.bytes % 64 = 0 ∧ moveDesc s c host = .ok d devs)
    ∧ (∃ (s : State) (id : Nat) (c : Cmd), InPhase s id .move .admitted c)
    ∧ (∃ (s : State) (id n : Nat) (x : Xfer), Runs .fab s ∧ findXfer s id = some x ∧ x.isOver = false ∧
      (x.rows.find? fun r => r.n = n) = none ∧ rowTurn s x n = true)
    ∧ (∃ (s : State) (id n : Nat) (x : Xfer) (r : XRow), Runs .fab s ∧ findXfer s id = some x ∧ x.isOver = false ∧
      (x.rows.find? fun r => r.n = n) = some r ∧ r.done = false ∧ rowOut s id n = false)
    ∧ (∃ (s : State) (id : Nat) (x : Xfer) (p : Nat × Bool) (i : Nat), Runs .hif s ∧ findXfer s id = some x ∧ x.stuck = some p
      ∧ freeIndex s.atc = some i ∧ x.prg = none ∧ s.atc.prFail = false ∧ s.flt.safe = false ∧ sumOf (s.atc.prgs.map fun g =>
      g.pages.length) + (groupPages s x p).length ≤ min 2048 s.hif.prAlloc)
    ∧ (∃ (s : State) (i : Nat) (g : Prg) (x : Xfer), Runs .hif s ∧ (s.atc.prgs.find? fun g => g.index = i) = some g ∧ findXfer
      s g.xfer = some x ∧ g.abandoned = false ∧ x.prg = some i)
    ∧ (∃ (s : State) (i : Nat) (g : Prg) (x : Xfer), Runs .hif s ∧ (s.atc.prgs.find? fun g => g.index = i && !g.abandoned &&
      2000000000 ≤ since s.devtime g.since) = some g ∧ findXfer s g.xfer = some x ∧ x.prg = some i) :=
  ⟨⟨tHas (tCmd .move .checked [(0x20, 8, 1)]), 0, tCmd .move .checked [(0x20, 8, 1)], by decide +kernel⟩,
   ⟨{ tHas (tCmd .move .checked []) with atc := tAtc true }, 0, .data (List.replicate 64 0#8), List.replicate 64 0#8, [], tCmd
      .move .checked [], by decide +kernel⟩,
   ⟨tHas (tCmd .move .admitted []), 0, tCmd .move .admitted [], by decide +kernel⟩,
   ⟨tMove tXfer, 0, 0, tXfer, by decide +kernel⟩,
   ⟨tMove { tXfer with rows := [{ n := 0, done := false, hist := [] }] }, 0, 0,
      { tXfer with rows := [{ n := 0, done := false, hist := [] }] }, { n := 0, done := false, hist := [] },
      by decide +kernel⟩,
   ⟨tMove { tXfer with stuck := some (0, false) }, 0, { tXfer with stuck := some (0, false) }, (0, false), 0,
      by decide +kernel⟩,
   ⟨{ tMove { tXfer with prg := some 511 } with atc := { prgs := [{ index := 511, xfer := 0, pages := [0], since := 0, abandoned := false }] } },
      511, { index := 511, xfer := 0, pages := [0], since := 0, abandoned := false }, { tXfer with prg := some 511 },
      by decide +kernel⟩,
   ⟨{ tMove { tXfer with prg := some 511 } with atc := { prgs := [{ index := 511, xfer := 0, pages := [0], since := 0, abandoned := false }] } },
      511, { index := 511, xfer := 0, pages := [0], since := 0, abandoned := false }, { tXfer with prg := some 511 },
      by decide +kernel⟩⟩

/-- What each clause of TranslationsAndInvalidations assumes is met. -/
theorem witness_TranslationsAndInvalidations :
    (∃ (s : State) (q : Nat) (r : XlatReq), Runs .hif s ∧ (s.atc.reqs.find? fun r => r.id = q) = some r ∧ r.gen = (s.fe.ctxOf
      r.ctx).gen)
    ∧ (∃ (s : State) (q : Nat), Runs .hif s ∧ (s.atc.reqs.find? fun r => r.id = q) = none)
    ∧ (∃ (a : Atc), a.ents.length < 16384)
    ∧ (∃ (s : State) (q : Nat) (r : XlatReq), Runs .hif s ∧ (s.atc.reqs.find? fun r => r.id = q && s.hif.cto ≤ since s.devtime
      r.since) = some r ∧ r.gen = (s.fe.ctxOf r.ctx).gen)
    ∧ (∃ (s : State), Runs .hif s)
    ∧ (∃ (s : State) (itag : Nat) (i : Inv), Runs .hif s ∧ (s.atc.invs.find? fun i => i.itag = itag) = some i ∧ pagesBusy s
      i.ppns = false)
    ∧ (∃ (s : State) (q : Nat) (r : XlatReq), Runs .hif s ∧ (s.atc.reqs.find? fun r => r.id = q) = some r
      ∧ r.gen = (s.fe.ctxOf r.ctx).gen) :=
  ⟨⟨{ tUp with fe := tFe, atc := { reqs := [tReq] } }, 7, tReq, by decide +kernel⟩,
   ⟨tUp, 7, by decide +kernel⟩,
   ⟨{}, by decide +kernel⟩,
   ⟨{ tUp with fe := tFe, atc := { reqs := [tReq] } }, 7, tReq, by decide +kernel⟩,
   ⟨tUp, by decide +kernel⟩,
   ⟨{ tUp with atc := { invs := [{ itag := 31, ppns := [] }] } }, 31, { itag := 31, ppns := [] }, by decide +kernel⟩,
   ⟨{ tTab with fe := tFe, atc := { reqs := [tReq] } }, 7, tReq, by decide +kernel⟩⟩

/-- What each clause of PortsAnswer assumes is met. -/
theorem witness_PortsAnswer :
    (∃ (s : State) (p : Nat), Runs (portDom p) s)
    ∧ (∃ (s : State) (p tag : Nat) (st : List SectorStatus) (r : PReq), Runs (portDom p) s ∧ ((portAt s.ports p).sent.find? fun
      r => isRead r && r.tag = tag) = some r ∧ inHostOrder (portAt s.ports p) r = true ∧ (∀ k, statusOf st k = .ok) ∧ r.snapBad
      = 0)
    ∧ (∃ (s : State) (p tag : Nat) (r : PReq), Runs (portDom p) s ∧ ((portAt s.ports p).sent.find? fun r => isRead r && r.tag =
      tag) = some r ∧ inHostOrder (portAt s.ports p) r = true ∧ r.snapBad = 0 ∧ r.smask = 1 ∧ r.stale = 0 ∧ r.dline ≠ noLine)
    ∧ (∃ (s : State) (p tag : Nat) (r : PReq) (id : Nat), Runs (portDom p) s ∧ ((portAt s.ports p).sent.find? fun r => r.op =
      .wr && r.tag = tag) = some r ∧ r.who = .record id)
    ∧ (∃ (s : State) (p tag hpa : Nat) (r : PReq), Runs (portDom p) s ∧ ((portAt s.ports p).sent.find? fun r => r.op = .wr &&
      r.tag = tag) = some r ∧ r.who = .hostWrite hpa ∧ inHostOrder (portAt s.ports p) r = true)
    ∧ (∃ (s : State) (p : Nat), Runs (portDom p) s ∧ ((portAt s.ports p).sent.any fun r => r.op = .sre) = true)
    ∧ (∃ (s : State) (p : Nat), Runs (portDom p) s ∧ ((portAt s.ports p).sent.any fun r => r.op = .srx) = true)
    ∧ (∃ (s : State) (p : Nat) (r : PReq) (l : List PReq), Runs (portDom p) s ∧ (portAt s.ports p).sent = r :: l ∧ overdue
      s.devtime r = true ∧ (portAt s.ports p).lost = false)
    ∧ (∃ (s : State) (p : Nat) (r : PReq) (l : List PReq), Runs (portDom p) s ∧ (portAt s.ports p).sent = r :: l ∧ r.op = .trn
      false)
    ∧ (∃ (s : State), s.pwr.porstLow = false ∧ 650000000 ≤ since s.devtime s.pwr.bootAt ∧ s.mem.mapped = false)
    ∧ (∃ (s : State) (p : Nat), Runs (portDom p) s ∧ bit (rget s 0xB0020) 31 = true ∧ s.mem.present p = true ∧ (portAt s.ports
      p).selfRefresh = false ∧ (((portAt s.ports p).queue ++ (portAt s.ports p).sent).any isCtl) = false ∧ portDead s.mem
      s.ports p = false ∧ portLines p (portAt s.ports p).cap ≠ 0) :=
  ⟨⟨tTab, 143, by decide +kernel⟩,
   ⟨tPort [tReqOp .rd .none], 143, 3, [], tReqOp .rd .none, by decide +kernel, by decide +kernel, by decide +kernel, fun _ =>
      rfl, by decide +kernel⟩,
   ⟨tPort [tReqOp .rd .none], 143, 3, tReqOp .rd .none, by decide +kernel⟩,
   ⟨tPort [tReqOp .wr (.record 1)], 143, 3, tReqOp .wr (.record 1), 1, by decide +kernel⟩,
   ⟨tPort [tReqOp .wr (.hostWrite 64)], 143, 3, 64, tReqOp .wr (.hostWrite 64), by decide +kernel⟩,
   ⟨tPort [tReqOp .sre .none], 143, by decide +kernel⟩,
   ⟨tPort [tReqOp .srx .none], 143, by decide +kernel⟩,
   ⟨tPort [tReqOp .rd .none], 143, tReqOp .rd .none, [], by decide +kernel⟩,
   ⟨tPort [tReqOp (.trn false) .none], 143, tReqOp (.trn false) .none, [], by decide +kernel⟩,
   ⟨tUp, by decide +kernel⟩,
   ⟨{ tPort [] with regs := [(0xB0020, 0x80000001#32)] }, 143, by decide +kernel⟩⟩

/-- What each clause of HostSnoopsAndResponses assumes is met. -/
theorem witness_HostSnoopsAndResponses :
    (∃ (s : State) (pa : Nat), Runs .hif s ∧ s.hif.linkUp = true ∧ s.flt.safe = false ∧ s.pwr.pllOff.getLsbD (partOfSlice
      (lineHome (hostLine + pa / 128))) = false ∧ txnOn s (hostLine + pa / 128) = none ∧ others s (hostLine + pa / 128) noCopy
      = [])
    ∧ (∃ (s : State), Runs .hif s ∧ s.hif.linkUp = true ∧ s.flt.safe = true)
    ∧ (∃ (s : State) (pa : Nat) (l : DcLine), ((s.dc.slice (lineHome (hostLine + pa / 128))).find (hostLine + pa / 128)) = some
      l ∧ pa / 64 % 2 = 0 ∧ l.h0 = .M ∧ l.h1 ≠ .I ∧ l.line = hostLine + pa / 128)
    ∧ (∃ (s : State) (tag : Nat) (r : D2h), Runs .hif s ∧ (s.hif.d2h.find? fun r => r.tag = tag) = some r ∧ (r.op = .rdShared ∨
      r.op = .rdOwn) ∧ s.hif.held = [])
    ∧ (∃ (s : State) (tag : Nat) (r : D2h), Runs .hif s ∧ (s.hif.d2h.find? fun r => r.tag = tag) = some r ∧ r.op = .dirtyEvict
      ∧ s.hif.held = [])
    ∧ (∃ (s : State) (tag : Nat) (r : D2h), Runs .hif s ∧ (s.hif.d2h.find? fun r => r.tag = tag && 50000000 ≤ since s.devtime
      r.since) = some r ∧ r.op = .dirtyEvict ∧ r.who = .none ∧ s.hif.held = []) :=
  ⟨⟨tTab, 64, by decide +kernel⟩,
   ⟨tSafe, by decide +kernel⟩,
   ⟨modSlice (lineHome hostLine) (fun sl => { sl with lines := [{ newLine 0 0 hostLine with h0 := .M, h1 := .S }] }) tTab, 0,
      { newLine 0 0 hostLine with h0 := .M, h1 := .S }, by decide +kernel⟩,
   ⟨{ tUp with hif := { tUp.hif with d2h := [tD2h .rdOwn] } }, 9, tD2h .rdOwn, by decide +kernel⟩,
   ⟨{ tUp with hif := { tUp.hif with d2h := [tD2h .dirtyEvict] } }, 9, tD2h .dirtyEvict, by decide +kernel⟩,
   ⟨{ tUp with hif := { tUp.hif with d2h := [tD2h .dirtyEvict] } }, 9, tD2h .dirtyEvict, by decide +kernel⟩⟩

/-- What each clause of HostMemoryRequests assumes is met. -/
theorem witness_HostMemoryRequests :
    (∃ (s : State) (hpa a p line : Nat), Runs .hif s ∧ s.hif.linkUp = true ∧ s.flt.safe = false ∧
      hvdmOf s (hpa / 64 * 64) = some a ∧ s.mem.port a = some (p, line) ∧ portDead s.mem s.ports p = false)
    ∧ (∃ (s : State) (hpa : Nat), Runs .hif s ∧ s.hif.linkUp = true ∧ s.flt.safe = false ∧ hvdmOf s (hpa / 64 * 64) = none)
    ∧ (∃ (s : State) (hpa a : Nat), Runs .hif s ∧ s.hif.linkUp = true ∧ s.flt.safe = false ∧ hvdmOf s (hpa / 64 * 64) = some a)
    ∧ (∃ (s : State) (hpa a : Nat) (data : Masked), Runs .hif s ∧ s.hif.linkUp = true ∧ s.flt.safe = false ∧
      hvdmOf s (hpa / 64 * 64) = some a ∧ placedMasked 0 (data.take 64) ≠ [])
    ∧ (∃ (s : State), Runs .hif s)
    ∧ (∃ (s : State), Runs .hif s ∧ s.hif.linkUp = true)
    ∧ (∃ (s : State) (k size : Nat), Runs .hif s ∧ k < 2 ∧ s.mem.lock = true ∧ hvdmSize s.mem k ≠ 0 ∧ size = hvdmSize s.mem k)
    ∧ (∃ (s : State) (k : Nat) (oneWay lawful : Bool), Runs .hif s ∧ k < 2 ∧ (oneWay && lawful) = false) :=
  ⟨⟨tHvdm, 0x100000040, 64, ((tMem.port 64).getD (0, 0)).1, ((tMem.port 64).getD (0, 0)).2, by decide +kernel⟩,
   ⟨tHvdm, 0x110000000, by decide +kernel⟩,
   ⟨tHvdm, 0x10FFFFFC0, 0x0FFFFFC0, by decide +kernel⟩,
   ⟨tHvdm, 0x10FFFFFC0, 0x0FFFFFC0, [some 1#8], by decide +kernel⟩,
   ⟨tUp, by decide +kernel⟩,
   ⟨tUp, by decide +kernel⟩,
   ⟨tHvdm, 0, 0x10000000, by decide +kernel⟩,
   ⟨tHvdm, 1, false, true, by decide +kernel⟩⟩

/-- What each clause of LinkEvents assumes is met. -/
theorem witness_LinkEvents :
    (∃ (s : State) (fmt : BitVec 2), Runs .hif s ∧ s.hif.linkHold = false ∧ s.hif.linkUp = false ∧ fmt ≠ 3#2)
    ∧ (∃ (s : State), Runs .hif s ∧ s.hif.linkHold = false ∧ s.hif.linkUp = false)
    ∧ (∃ (s : State) (v : Nat), Runs .hif s ∧ v < 4096 ∧ fget false s.hif.pba v = false)
    ∧ (∃ (s : State) (v : Nat), Runs .hif s ∧ v < 4096 ∧ fget false s.hif.pba v = true ∧
      vecMasked { s.hif with unmasked := fset false s.hif.unmasked v true } v = false ∧ s.hif.msixEn = true)
    ∧ (∃ (s : State) (v : W32), CtlOpen 0xE0004 s ∧ bit v 0 = true)
    ∧ (∃ (s : State), Runs .hif s ∧ s.hif.cfgReady = true ∧ s.hif.flr = false)
    ∧ (∃ (s : State), Runs .hif s ∧ linkIdle s = true ∧ s.hif.linkUp = true)
    ∧ (∃ (s : State) (tx rx cap w : Nat), Runs .hif s ∧ s.hif.fmt ≠ 0#2 ∧ bit (rget s 0xE0000) 30 = true ∧ s.hif.l0pOn = true ∧
      4 * tx < cap ∧ 4 * rx < cap ∧ w ≤ 16)
    ∧ (∃ (s : State) (tx rx cap w : Nat), Runs .hif s ∧ s.hif.fmt ≠ 0#2 ∧ (cap < 2 * tx ∨ cap < 2 * rx ∨ 16 < w))
    ∧ (∃ (s : State) (n : Nat), Runs .hif s ∧ n < 3)
    ∧ (∃ (s : State), Runs .hif s)
    ∧ (∃ (s : State), Runs .hif s ∧ s.hif.cfgLink = false ∧ 80000000 ≤ since s.devtime s.hif.cfgFrom)
    ∧ (∃ (s : State) (v : BitVec 2), Runs .hif s ∧ v ≠ 3#2)
    ∧ (∃ (s : State) (a : BitVec 12), Runs .hif s ∧ s.hif.csr = some (a, false))
    ∧ (∃ (s : State), Runs .hif s ∧ s.hif.linkUp = true ∧ s.hif.cfgReady = false)
    ∧ (∃ (s : State), Runs .hif s ∧ s.hif.linkUp = true ∧ s.hif.cfgReady = true)
    ∧ (∃ (s : State), Runs .hif s ∧ s.hif.linkUp = true ∧ s.hif.cfgReady = true ∧ s.hif.csr = none)
    ∧ (∃ (s : State), Runs .hif s ∧ s.hif.linkUp = true ∧ s.hif.cfgReady = true ∧ s.hif.flr = false) :=
  ⟨⟨{ tUp with hif := { tUp.hif with linkUp := false } }, 2#2, by decide +kernel⟩,
   ⟨{ tUp with hif := { tUp.hif with linkUp := false } }, by decide +kernel⟩,
   ⟨tUp, 4095, by decide +kernel⟩,
   ⟨{ tUp with hif := { tUp.hif with pba := [(4095, true)], msixEn := true } }, 4095, by decide +kernel⟩,
   ⟨tUp, 1, by decide +kernel⟩,
   ⟨tUp, by decide +kernel⟩,
   ⟨{ tUp with hif := { tUp.hif with aspmL1 := true } }, by decide +kernel⟩,
   ⟨{ tUp with hif := { tUp.hif with fmt := 1#2, l0pOn := true } }, 24, 24, 100, 16, by decide +kernel⟩,
   ⟨{ tUp with hif := { tUp.hif with fmt := 1#2 } }, 51, 0, 100, 0, by decide +kernel⟩,
   ⟨tUp, 2, by decide +kernel⟩,
   ⟨tUp, by decide +kernel⟩,
   ⟨tUp, by decide +kernel⟩,
   ⟨tUp, 2#2, by decide +kernel⟩,
   ⟨{ tUp with hif := { tUp.hif with csr := some (0, false) } }, 0, by decide +kernel⟩,
   ⟨{ tUp with hif := { tUp.hif with cfgReady := false } }, by decide +kernel⟩,
   ⟨tUp, by decide +kernel⟩,
   ⟨tUp, by decide +kernel⟩,
   ⟨tUp, by decide +kernel⟩⟩

/-- What each clause of ResetsTakeTheirRows assumes is met. -/
theorem witness_ResetsTakeTheirRows :
    (∃ (s : State) (v : W32), CtlOpen 0x110100 s ∧ bit v 31 = true ∧ s.flt.safe = false ∧ (s.fe.ctxOf (fld v 11 0)).state =
      1#2)
    ∧ (∃ (s : State) (v : W32), CtlOpen 0x110104 s ∧ bit v 31 = true ∧ s.flt.safe = false ∧ fld v 6 0 < 72 ∧ rstBusy s .cluster
      = false ∧ clusterInReset s (fld v 6 0) = false)
    ∧ (∃ (s : State) (v : W32), CtlOpen 0x110108 s ∧ bit v 31 = true ∧ s.flt.safe = false ∧ rstBusy s .partition = false ∧
      partInReset s (fld v 2 0) = false)
    ∧ (∃ (s : State) (v : W32), CtlOpen 0x11010C s ∧ bit v 31 = true ∧ fld v 15 0 = 0xB10C ∧ s.flt.safe = false ∧ resetting s
      .block 0 = false)
    ∧ (∃ (s : State) (v : W32), CtlOpen 0x11010C s ∧ bit v 31 = true ∧ fld v 15 0 = 0xB10C ∧ s.flt.safe = true ∧ resetting s
      .block 0 = false ∧ s.hif.linkUp = true)
    ∧ (∃ (s : State) (v : W32), CtlOpen 0x11010C s ∧ (bit v 31 = false ∨ fld v 15 0 ≠ 0xB10C))
    ∧ (∃ (s : State) (k : Nat), Runs .fab s ∧ resetting s .context k = true ∧ s.fe.cmds = [])
    ∧ (∃ (s : State) (k : Nat), Runs .fab s ∧ resetting s .cluster k = true ∧ partInReset s (partOfCluster k) = false ∧
      clusterWrites s k = false)
    ∧ (∃ (s : State) (p : Nat), Runs .fab s ∧ resetting s .partition p = true ∧ partWrites s p = false)
    ∧ (∃ (s : State), Runs .fab s ∧ resetting s .block 0 = true ∧ s.ports.any (fun e => training e.2) = false ∧ s.rst.any (fun
      r => decide (r.kind = .block) && r.fromSafe) = true)
    ∧ (∃ (s : State), Runs .fab s ∧ resetting s .block 0 = true ∧ s.ports.any (fun e => training e.2) = false ∧ s.rst.any (fun
      r => decide (r.kind = .block) && r.fromSafe) = false)
    ∧ (∃ (s : State) (kind next : ResetKind) (k n : Nat) (r : ResetRun), s.pwr.porstLow = false ∧ (s.rst.find? fun r => r.kind
      = kind && r.index = k) = some r ∧ resetBound kind ≤ since s.devtime r.start ∧ nextRung kind k next n = true) :=
  ⟨⟨{ tUp with fe := { tFe with ctx := [(4095, { state := 1 })] } }, 0x80000FFF#32, by decide +kernel⟩,
   ⟨tUp, 0x80000047#32, by decide +kernel⟩,
   ⟨tUp, 0x80000007#32, by decide +kernel⟩,
   ⟨tUp, 0x8000B10C#32, by decide +kernel⟩,
   ⟨tSafe, 0x8000B10C#32, by decide +kernel⟩,
   ⟨tUp, 0x8000B10D#32, by decide +kernel⟩,
   ⟨tReset .context 0 false, 0, by decide +kernel⟩,
   ⟨tReset .cluster 71 false, 71, by decide +kernel⟩,
   ⟨tReset .partition 7 false, 7, by decide +kernel⟩,
   ⟨tReset .block 0 true, by decide +kernel⟩,
   ⟨tReset .block 0 false, by decide +kernel⟩,
   ⟨tReset .cluster 63 false, .cluster, .partition, 63, 7,
      { kind := .cluster, index := 63, start := 0, fromSafe := false, asked := true }, by decide +kernel⟩⟩

/-- What each clause of FunctionLevelResets assumes is met. -/
theorem witness_FunctionLevelResets :
    (∃ (s : State), Runs .hif s ∧ s.hif.cfgReady = true ∧ s.hif.linkUp = true ∧ s.hif.flr = false ∧ s.flt.safe = false ∧
      (flrEndWork { s with hif := { s.hif with flr := true } }).hif.bme = true)
    ∧ (∃ s : State, Runs .hif s ∧ s.hif.flr = true ∧ flrWrites s = false)
    ∧ (∃ (s : State), Runs .hif s ∧ s.hif.cfgReady = true ∧ s.hif.linkUp = true ∧ s.hif.d0 = true)
    ∧ (∃ (s : State), Runs .hif s ∧ s.hif.linkUp = true ∧ s.rook.qstate = 3#2)
    ∧ (∃ (s : State), Runs .hif s ∧ s.hif.linkUp = true ∧ s.rook.qstate ≠ 3#2 ∧ s.flt.safe = false ∧ s.hif.flr = false)
    ∧ (∃ (s : State), Runs .hif s ∧ s.hif.linkUp = true)
    ∧ (∃ (s : State), s.flt.safe = false) :=
  ⟨⟨tUp, by decide +kernel⟩,
   ⟨{ tUp with hif := { tUp.hif with flr := true } }, by decide +kernel⟩,
   ⟨tUp, by decide +kernel⟩,
   ⟨{ tUp with rook := { tUp.rook with qstate := 3 } }, by decide +kernel⟩,
   ⟨tUp, by decide +kernel⟩,
   ⟨tUp, by decide +kernel⟩,
   ⟨tUp, by decide +kernel⟩⟩

/-- What each clause of FaultCollector assumes is met. -/
theorem witness_FaultCollector :
    (∃ (s : State) (buf : Nat) (i : Intake), s.pwr.porstLow = false ∧ (s.flt.intake.find? fun i => i.buf = buf) = some i)
    ∧ (∃ (s : State) (r : Report), s.pwr.porstLow = false ∧ hwSource r.source = true ∧ r.source = 0x42 ∧
      s.flt.fires r.loc = false)
    ∧ (∃ (f : Flt) (cls : Nat) (i : Intake), cls ≠ 6 ∧ i.isOver = false ∧ f.pend < 256)
    ∧ (∃ (f : Flt), f.fatal = none)
    ∧ (∃ (f : Flt) (cls : Nat) (i : Intake), cls ≠ 6 ∧ 256 ≤ f.pend ∧ (f.recs.all fun r => !(r.pending && r.sameAs i.rep)) =
      true)
    ∧ (∃ n, n ≤ 0x7FFFFFFF)
    ∧ (∃ (s : State), CtlOpen 0x11000C s)
    ∧ (∃ (r : Rec), r.pending = true)
    ∧ (∃ (s : State) (v : W32) (c : Nat), CtlOpen 0x110018 s ∧ sourceClass (fld (rget s 0x110014) 7 0) = some c ∧ c ≠ 6 ∧ fld v
      10 8 < 6 ∧ leastReset c ≤ fld v 10 8)
    ∧ (∃ (s : State) (v : W32), CtlOpen 0x110020 s ∧ s.flt.safe = false ∧ bit v 0 = true)
    ∧ (∃ (s : State) (v : W32), CtlOpen 0x110024 s ∧ bit v 31 = true ∧ s.flt.chk = none ∧ s.flt.safe = false ∧ checkerOk (fld v
      3 0) (fld v 15 8) = true)
    ∧ (∃ (s : State) (t : ChkTest), s.pwr.porstLow = false ∧ s.flt.chk = some t ∧ 10000000 ≤ since s.devtime t.since)
    ∧ (∃ (s : State) (v : W32), CtlOpen 0x110028 s ∧ s.pwr.ftest = true ∧ bit v 31 = true ∧ fld v 29 27 < 5)
    ∧ (∃ (s : State), CtlOpen 0x110028 s ∧ s.pwr.ftest = false)
    ∧ (∃ (s : State) (id : Nat), Runs .fab s ∧ (s.fe.cmds.any fun c => c.id = id && c.phase ≠ .ready) = false) :=
  ⟨⟨{ tUp with flt := { intake := [tIntake] } }, 8, tIntake, by decide +kernel⟩,
   ⟨tUp, report 0x42 none locHif none 0, by decide +kernel⟩,
   ⟨{ recs := List.replicate 255 (tRec 1) }, 1, tIntake, by decide +kernel⟩,
   ⟨{}, by decide +kernel⟩,
   ⟨{ recs := List.replicate 256 (tRec 1) }, 1, { tIntake with rep := report 0x07 none locHif none 0 }, by decide +kernel⟩,
   ⟨0x7FFFFFFF, by decide +kernel⟩,
   ⟨tUp, by decide +kernel⟩,
   ⟨tRec 1, by decide +kernel⟩,
   ⟨{ tUp with regs := [(0x110014, 0x06#32)] }, 0x500#32, 1, by decide +kernel⟩,
   ⟨tUp, 1, by decide +kernel⟩,
   ⟨tUp, 0x80003F01#32, by decide +kernel⟩,
   ⟨{ tUp with flt := { chk := some { checker := 1, unit := 0, since := 0 } } }, { checker := 1, unit := 0, since := 0 },
      by decide +kernel⟩,
   ⟨{ tUp with pwr := { tUp.pwr with ftest := true } }, 0xA0000000#32, by decide +kernel⟩,
   ⟨tUp, by decide +kernel⟩,
   ⟨tHas (tCmd .nop .ready []), 0, by decide +kernel⟩⟩

/-- What each clause of ManagementCommands assumes is met. -/
theorem witness_ManagementCommands :
    (∃ (s : State) (id : Nat) (j : Job), Waiting s id 0x01 j ∧ j.payload = [])
    ∧ (∃ (s : State) (id : Nat) (j : Job), Waiting s id 0x02 j ∧ j.payload = [])
    ∧ (∃ (s : State) (id : Nat) (j : Job), Waiting s id 0x03 j ∧ j.payload.length = 4 ∧ num j.payload 2 2 ≤ 60)
    ∧ (∃ (s : State) (id : Nat) (j : Job), Waiting s id 0x04 j ∧ j.payload.length = 24 ∧ num j.payload 8 8 = 0)
    ∧ (∃ (s : State) (id : Nat) (j : Job), Waiting s id 0x04 j ∧ j.payload.length = 24 ∧ num j.payload 8 8 ≠ 0 ∧ num j.payload
      0 2 < 4096 ∧ 4 ≤ num j.payload 2 1 ∧ num j.payload 2 1 ≤ 12 ∧ num j.payload 3 5 = 0 ∧ num j.payload 8 8 % 4096 = 0 ∧ num
      j.payload 0x10 8 % 8 = 0 ∧ ctxEnabled s (num j.payload 0 2) = true)
    ∧ (∃ (s : State) (id : Nat) (j : Job), Waiting s id 0x08 j ∧ j.payload = [0#8] ∧ s.rook.qstate = 0#2)
    ∧ (∃ (s : State) (id : Nat) (j : Job), Waiting s id 0x08 j ∧ j.payload = [1#8] ∧ s.rook.qstate = 0#2)
    ∧ (∃ (s : State) (id : Nat) (j : Job), Waiting s id 0x08 j ∧ j.payload = [1#8] ∧ s.rook.qstate = 1#2)
    ∧ (∃ (s : State) (id : Nat) (j : Job), Waiting s id 0x08 j ∧ j.payload = [2#8] ∧ s.rook.qstate = 1#2)
    ∧ (∃ (s : State) (id : Nat) (j : Job), Waiting s id 0x08 j ∧ j.payload = [2#8] ∧ s.rook.qstate ≠ 1#2)
    ∧ (∃ (s : State) (id : Nat) (j : Job), Waiting s id 0x08 j ∧ j.payload = [3#8] ∧ s.rook.qstate = 3#2 ∧ s.flt.safe = false)
    ∧ (∃ (s : State) (id : Nat) (j : Job), Waiting s id 0x09 j ∧ j.payload = [1#8])
    ∧ (∃ (s : State) (id : Nat) (j : Job), Waiting s id 0x0A j ∧ j.payload = [])
    ∧ (∃ (s : State) (id : Nat) (j : Job), Waiting s id 0x14 j ∧ cfgBlockBad j.payload = false ∧ cfgBest s.rook = none)
    ∧ (∃ (s : State) (id : Nat) (j : Job), Waiting s id 0x38 j ∧ j.payload = [1#8])
    ∧ (∃ (s : State) (id : Nat) (j : Job), Waiting s id 0x38 j ∧ j.payload = [0#8])
    ∧ (∃ (s : State) (id : Nat) (j : Job) (op : _), Waiting s id op j ∧ knownOp op = false) :=
  ⟨⟨tRook (tMail 0x01 []) {}, 0, tMail 0x01 [], by decide +kernel⟩,
   ⟨tRook (tMail 0x02 []) {}, 0, tMail 0x02 [], by decide +kernel⟩,
   ⟨tRook (tMail 0x03 (tBytes 4 [(2, 2, 60)])) {}, 0, tMail 0x03 (tBytes 4 [(2, 2, 60)]), by decide +kernel⟩,
   ⟨tRook (tMail 0x04 (tBytes 24 [])) {}, 0, tMail 0x04 (tBytes 24 []), by decide +kernel⟩,
   ⟨tRook (tMail 0x04 (tBytes 24 [(2, 1, 12), (8, 8, 4096)])) {}, 0, tMail 0x04 (tBytes 24 [(2, 1, 12), (8, 8, 4096)]),
      by decide +kernel⟩,
   ⟨tRook (tMail 0x08 [0#8]) { qstate := 0 }, 0, tMail 0x08 [0#8], by decide +kernel⟩,
   ⟨tRook (tMail 0x08 [1#8]) { qstate := 0 }, 0, tMail 0x08 [1#8], by decide +kernel⟩,
   ⟨tRook (tMail 0x08 [1#8]) { qstate := 1 }, 0, tMail 0x08 [1#8], by decide +kernel⟩,
   ⟨tRook (tMail 0x08 [2#8]) { qstate := 1 }, 0, tMail 0x08 [2#8], by decide +kernel⟩,
   ⟨tRook (tMail 0x08 [2#8]) { qstate := 2 }, 0, tMail 0x08 [2#8], by decide +kernel⟩,
   ⟨tRook (tMail 0x08 [3#8]) { qstate := 3 }, 0, tMail 0x08 [3#8], by decide +kernel⟩,
   ⟨tRook (tMail 0x09 [1#8]) {}, 0, tMail 0x09 [1#8], by decide +kernel⟩,
   ⟨tRook (tMail 0x0A []) {}, 0, tMail 0x0A [], by decide +kernel⟩,
   ⟨tRook (tMail 0x14 (tBytes 64 [(0, 4, 0x47464343)])) {}, 0, tMail 0x14 (tBytes 64 [(0, 4, 0x47464343)]), by decide +kernel⟩,
   ⟨tRook (tJob (.sideband 1 9) 0x38 [1#8]) {}, 0, tJob (.sideband 1 9) 0x38 [1#8], by decide +kernel⟩,
   ⟨tRook (tJob (.sideband 1 9) 0x38 [0#8]) {}, 0, tJob (.sideband 1 9) 0x38 [0#8], by decide +kernel⟩,
   ⟨tRook (tMail 0x7F []) {}, 0, tMail 0x7F [], 0x7F, by decide +kernel⟩⟩

/-- What each clause of FirmwareUpdateAndSupervision assumes is met. -/
theorem witness_FirmwareUpdateAndSupervision :
    (∃ (s : State) (id : Nat) (j : Job), Waiting s id 0x10 j ∧ j.payload.length = 8 ∧ num j.payload 0 1 < 2 ∧
      num j.payload 1 3 = 0 ∧ 256 ≤ num j.payload 4 4 ∧ num j.payload 4 4 ≤ 0x100000 ∧ s.rook.session = none ∧
      (s.rook.loaded = false ∨ s.rook.slot ≠ num j.payload 0 1))
    ∧ (∃ (s : State) (id : Nat) (j : Job) (x : FwSession), Waiting s id 0x11 j ∧ s.rook.session = some x ∧ x.owner = j.src ∧
      4 ≤ j.payload.length ∧ j.payload.length ≤ 3840 ∧ num j.payload 0 4 + (j.payload.length - 4) ≤ x.len)
    ∧ (∃ (s : State) (id : Nat) (j : Job) (x : FwSession), Waiting s id 0x12 j ∧ s.rook.session = some x ∧ x.owner = j.src ∧
      j.payload = [] ∧ imageValid s.rook x.slot = true ∧ s.rook.loaded = false)
    ∧ (∃ (s : State) (id : Nat) (j : Job) (x : FwSession), Waiting s id 0x12 j ∧ s.rook.session = some x ∧ x.owner = j.src ∧
      j.payload = [] ∧ imageValid s.rook x.slot = false)
    ∧ (∃ (s : State) (id : Nat) (j : Job), Waiting s id 0x13 j ∧ j.payload = [] ∧ s.rook.session = none)
    ∧ (∃ (s : State) (x : FwSession), s.pwr.porstLow = false ∧ s.rook.session = some x ∧ 60000000000 ≤ since s.devtime x.last)
    ∧ (∃ (s : State), Runs .mgt s ∧ s.rook.state = 1 ∧ bootSlot s.rook = none)
    ∧ (∃ (s : State) (k : Nat), Runs .mgt s ∧ s.rook.state = 3 ∧ bootSlot s.rook = some k)
    ∧ (∃ (r : Rook), imageValid r 0 = true ∧ imageValid r 1 = true)
    ∧ (∃ (s : State), Runs .mgt s ∧ s.rook.state = 2 ∧ cfgBest s.rook = none ∧ s.mem.mapped = false)
    ∧ (∃ (s : State) (k : Nat), Runs .mgt s ∧ s.rook.state = 2 ∧ cfgBest s.rook = some k ∧ s.mem.mapped = true ∧
      s.mem.lock = false)
    ∧ (∃ (s : State), Runs .mgt s ∧ s.rook.state = 2)
    ∧ (∃ (s : State), Runs .mgt s ∧ s.rook.state = 2 ∧ 1000000000 ≤ since s.devtime s.rook.beat ∧ s.rook.restartTimes = []) :=
  ⟨⟨tRook (tMail 0x10 (tBytes 8 [(0, 1, 1), (4, 4, 0x100000)])) { loaded := true }, 0, tMail 0x10 (tBytes 8 [(0, 1, 1), (4, 4,
      0x100000)]), by decide +kernel⟩,
   ⟨tRook (tMail 0x11 (tBytes 260 [])) { session := some (tSession (.mailbox 15)) }, 0, tMail 0x11 (tBytes 260 []),
      tSession (.mailbox 15), by decide +kernel⟩,
   ⟨tRook (tMail 0x12 []) (tImage 1 0 { session := some (tSession (.mailbox 15)) }), 0, tMail 0x12 [], tSession (.mailbox 15),
      by decide +kernel⟩,
   ⟨tRook (tMail 0x12 []) { session := some (tSession (.mailbox 15)) }, 0, tMail 0x12 [], tSession (.mailbox 15),
      by decide +kernel⟩,
   ⟨tRook (tMail 0x13 []) {}, 0, tMail 0x13 [], by decide +kernel⟩,
   ⟨{ tUp with rook := { session := some (tSession (.mailbox 15)) } }, tSession (.mailbox 15), by decide +kernel⟩,
   ⟨{ tUp with rook := { state := 1 } }, by decide +kernel⟩,
   ⟨{ tUp with rook := tImage 1 1 { state := 3 } }, 1, by decide +kernel⟩,
   ⟨tImage 0 1 (tImage 1 2 {}), by decide +kernel⟩,
   ⟨tUp, by decide +kernel⟩,
   ⟨{ tUp with mem := { mapped := true }, rook := tConfig { state := 2 } }, 1, by decide +kernel⟩,
   ⟨tUp, by decide +kernel⟩,
   ⟨tUp, by decide +kernel⟩⟩

/-- What each clause of RetainedTablesAndTelemetry assumes is met. -/
theorem witness_RetainedTablesAndTelemetry :
    (∃ (s : State) (id : Nat) (j : Job), Waiting s id 0x20 j ∧ j.payload.length = 2)
    ∧ (∃ (s : State) (id : Nat) (j : Job) (e : CatEntry), Waiting s id 0x21 j ∧ j.payload.length = 2 ∧
      num j.payload 0 2 < Config.numTables ∧ listed s (num j.payload 0 2) = some e ∧ e.okA = true ∧ e.okB = false)
    ∧ (∃ (s : State) (id : Nat) (j : Job) (e : CatEntry), Waiting s id 0x22 j ∧ j.payload.length = 2 ∧
      num j.payload 0 2 < Config.numTables ∧ listed s (num j.payload 0 2) = some e ∧ (tableOf s e.table).valid = false ∧
      commitRefused s.rat.com (tableOf s e.table) { e.desc with cfg := e.desc.cfg ||| 0x80000000#32 } = false)
    ∧ (∃ (e : CatEntry), e.okA = true ∧ e.okB = false)
    ∧ (∃ (s : State) (id : Nat) (j : Job) (e : CatEntry) (c : Catalogue), Waiting s id 0x23 j ∧ j.payload.length = 2 ∧
      num j.payload 0 2 < Config.numTables ∧ listed s (num j.payload 0 2) = some e ∧ s.ret.list = some c)
    ∧ (∃ (s : State) (id : Nat) (j : Job), Waiting s id 0x30 j ∧ j.payload.length = 16 ∧ num j.payload 4 2 = 0)
    ∧ (∃ (s : State) (id : Nat) (j : Job), Waiting s id 0x30 j ∧ j.payload.length = 16 ∧ num j.payload 4 2 ≠ 0 ∧
      num j.payload 0 2 < 4096 ∧ 4 ≤ num j.payload 2 1 ∧ num j.payload 2 1 ≤ 12 ∧ num j.payload 3 1 = 0 ∧
      num j.payload 4 2 ≤ 10000 ∧ num j.payload 6 2 = 0 ∧ num j.payload 8 8 % 256 = 0 ∧ ctxEnabled s (num j.payload 0 2) = true)
    ∧ (∃ (s : State) (id : Nat) (j : Job), Waiting s id 0x31 j ∧ j.payload = [] ∧ s.rook.latest ≠ [])
    ∧ (∃ (s : State), Runs .mgt s ∧ s.rook.state = 2 ∧ s.flt.safe = false ∧ 100000000 ≤ since s.devtime s.rook.snapAt ∧
      s.rook.telem = none)
    ∧ (∃ (s : State) (r : FaultRing) (x : Rec), Runs .mgt s ∧ s.rook.fring = some r ∧ s.rook.state = 2 ∧ s.flt.safe = false ∧
      whoOut s (.ring false) = false ∧ r.mirror = none ∧ nextMirror s.flt = some x)
    ∧ (∃ (s : State) (r : FaultRing) (q : Nat), Runs .mgt s ∧ s.rook.fring = some r ∧ s.rook.state = 2 ∧ s.flt.safe = false ∧
      whoOut s (.ring false) = false ∧ r.mirror = some q) :=
  ⟨⟨tRook (tMail 0x20 (tBytes 2 [(0, 2, 1)])) {}, 0, tMail 0x20 (tBytes 2 [(0, 2, 1)]), by decide +kernel⟩,
   ⟨tKept (tMail 0x21 (tBytes 2 [(0, 2, 1)])), 0, tMail 0x21 (tBytes 2 [(0, 2, 1)]), tEntry, by decide +kernel⟩,
   ⟨tKept (tMail 0x22 (tBytes 2 [(0, 2, 1)])), 0, tMail 0x22 (tBytes 2 [(0, 2, 1)]), tEntry, by decide +kernel⟩,
   ⟨tEntry, by decide +kernel⟩,
   ⟨tKept (tMail 0x23 (tBytes 2 [(0, 2, 1)])), 0, tMail 0x23 (tBytes 2 [(0, 2, 1)]), tEntry, tCat, by decide +kernel⟩,
   ⟨tRook (tMail 0x30 (tBytes 16 [])) {}, 0, tMail 0x30 (tBytes 16 []), by decide +kernel⟩,
   ⟨tRook (tMail 0x30 (tBytes 16 [(2, 1, 4), (4, 2, 10000), (8, 8, 256)])) {}, 0, tMail 0x30 (tBytes 16 [(2, 1, 4), (4, 2,
      10000), (8, 8, 256)]), by decide +kernel⟩,
   ⟨tRook (tMail 0x31 []) { latest := [1#8] }, 0, tMail 0x31 [], by decide +kernel⟩,
   ⟨tUp, by decide +kernel⟩,
   ⟨{ tUp with rook := { state := 2, fring := some { ctx := 0, log2n := 4, base := 4096, tailAddr := 0 } }, flt := { recs := [tRec 1] } },
      { ctx := 0, log2n := 4, base := 4096, tailAddr := 0 }, tRec 1, by decide +kernel⟩,
   ⟨{ tUp with rook := { state := 2, fring := some { ctx := 0, log2n := 4, base := 4096, tailAddr := 0, mirror := some 1 } } },
      { ctx := 0, log2n := 4, base := 4096, tailAddr := 0, mirror := some 1 }, 1, by decide +kernel⟩⟩

/-- What each clause of QuiesceMailboxAndSideband assumes is met. -/
theorem witness_QuiesceMailboxAndSideband :
    (∃ (s : State), s.pwr.porstLow = false ∧ s.rook.qstate = 0#2)
    ∧ (∃ (s : State), s.pwr.porstLow = false ∧ s.rook.qstate = 1#2)
    ∧ (∃ (s : State), s.pwr.porstLow = false ∧ s.rook.qstate = 1#2 ∧ s.rook.qGrace ≤ since s.devtime s.rook.qStart ∧ s.mem.lock
      = true)
    ∧ (∃ (s : State), Runs .fab s ∧ s.rook.qstate = 2#2 ∧ s.flt.safe = false ∧ s.fe.cmds = [] ∧ s.fe.tags = [] ∧ s.upd.held =
      [] ∧ resetting s .block 0 = false)
    ∧ (∃ (s : State), Runs .fab s ∧ s.rook.qstate = 2#2 ∧ s.flt.safe = false ∧ (s.fe.cmds.any fun c => c.phase ≠ .ready) =
      true)
    ∧ (∃ (s : State) (id m : Nat) (j : Job) (a : Nat × Nat × Bytes), s.pwr.porstLow = false ∧ (s.rook.jobs.find? fun j => j.id
      = id) = some j ∧ j.ans = some a ∧ j.src = .mailbox m ∧ up s .hif = true)
    ∧ (∃ (s : State) (id tag eid : Nat) (j : Job) (a : Nat × Nat × Bytes), s.pwr.porstLow = false ∧ (s.rook.jobs.find? fun j =>
      j.id = id) = some j ∧ j.ans = some a ∧ j.src = .sideband tag eid)
    ∧ (∃ (s : State) (msg : Bytes), s.pwr.porstLow = false ∧ sbReady s = true ∧ 12 ≤ msg.length ∧ msg.length ≤ 3852 ∧ num msg 0
      1 = 0x7E ∧ num msg 1 1 * 256 + num msg 2 1 = s.hif.ids.getD 0 0xFFFE ∧ num msg 3 1 = 1 ∧ num msg 5 1 = 0 ∧ num msg 6 2 =
      0 ∧ num msg 8 4 = 0 ∧ (s.rook.jobs.filter fromSideband).length < 4)
    ∧ (∃ (s : State), s.pwr.porstLow = false ∧ sbReady s = true)
    ∧ (∃ (s : State), s.pwr.porstLow = false ∧ s.rook.dynAddr = none)
    ∧ (∃ (s : State) (v : W32), CtlOpen 0xB0008 s ∧ s.mem.lock = false ∧ bit v 31 = true ∧ mapOk
      { s.mem with nloc := v.setWidth 7 } = true)
    ∧ (∃ (s : State), CtlOpen 0xB0008 s ∧ s.mem.lock = true)
    ∧ (∃ (s : State) (v : W32), CtlOpen 0xB0008 s ∧ s.mem.lock = false ∧ bit v 31 = true ∧ mapOk
      { s.mem with nloc := v.setWidth 7 } = false) :=
  ⟨⟨{ tUp with rook := { state := 2, qstate := 0 } }, by decide +kernel⟩,
   ⟨{ tUp with rook := { state := 2, qstate := 1 } }, by decide +kernel⟩,
   ⟨{ tUp with rook := { state := 2, qstate := 1 }, mem := { lock := true } }, by decide +kernel⟩,
   ⟨{ tUp with rook := { state := 2, qstate := 2 } }, by decide +kernel⟩,
   ⟨{ tHas (tCmd .nop .checked []) with rook := { state := 2, qstate := 2 } }, by decide +kernel⟩,
   ⟨tRook ({ tMail 0x01 [] with ans := some (0, 0, []) }) {}, 0, 15, { tMail 0x01 [] with ans := some (0, 0, []) }, (0, 0, []),
      by decide +kernel⟩,
   ⟨tRook ({ tJob (.sideband 1 9) 0x01 [] with ans := some (0, 0, []) }) {}, 0, 1, 9,
      { tJob (.sideband 1 9) 0x01 [] with ans := some (0, 0, []) }, (0, 0, []), by decide +kernel⟩,
   ⟨{ tUp with rook := { state := 2, dynAddr := some 9 } }, tBytes 12 [(0, 1, 0x7E), (1, 1, 0xFF), (2, 1, 0xFE), (3, 1, 1)],
      by decide +kernel⟩,
   ⟨{ tUp with rook := { state := 2, dynAddr := some 9 } }, by decide +kernel⟩,
   ⟨tUp, by decide +kernel⟩,
   ⟨tUp, 0x80000000#32, by decide +kernel⟩,
   ⟨tTab, by decide +kernel⟩,
   ⟨tUp, 0x8000007F#32, by decide +kernel⟩⟩

/-- What each clause of PowerAndPins assumes is met. -/
theorem witness_PowerAndPins :
    (∃ (s : State), s.pwr.porstLow = true)
    ∧ (∃ (s : State) (d : Nat), s.pwr.fail = 0 ∧ s.pwr.en.getLsbD d = false)
    ∧ (∃ (s : State) (d : Nat), s.pwr.porstLow = false ∧ d < 11 ∧ s.pwr.en.getLsbD d = true ∧ s.pwr.on.getLsbD d = false)
    ∧ (∃ (s : State) (d : Nat), s.pwr.porstLow = false ∧ (d = 0 ∨ d = 2) ∧ s.pwr.en.getLsbD d = true ∧
      s.pwr.on.getLsbD d = false ∧ 1000000 ≤ since s.devtime s.pwr.enAt)
    ∧ (∃ (s : State), s.pwr.porstLow = false ∧ s.pwr.on.getLsbD 0 = true ∧ s.pwr.lockd.getLsbD 0 = false ∧ s.rook.state = 0)
    ∧ (∃ (s : State) (p : Nat), s.pwr.porstLow = false ∧ p < 8 ∧ s.pwr.on.getLsbD (p + 3) = true ∧
      s.pwr.lockd.getLsbD (p + 3) = false)
    ∧ (∃ (s : State), s.pwr.porstLow = false)
    ∧ (∃ (s : State), s.pwr.porstLow = false ∧ s.pwr.sampled = false)
    ∧ (∃ (s : State), s.pwr.perstLow = false ∧ s.pwr.porstLow = false ∧ (s.rook.qstate = 1#2 ∨ s.rook.qstate = 2#2))
    ∧ (∃ (s : State), s.pwr.perstLow = false ∧ s.pwr.porstLow = false ∧ (s.rook.qstate = 0#2 ∨ s.rook.qstate = 3#2))
    ∧ (∃ (s : State), s.pwr.perstLow = true ∧ s.pwr.porstLow = false ∧ s.flt.safe = false ∧ s.pwr.on.getLsbD 0 = true)
    ∧ (∃ (s : State) (k : Nat), Runs (.part (partOfCluster k)) s ∧ k < 64 ∧ clusterInReset s k = false ∧ clusterIdle s k = true)
    ∧ (∃ (s : State) (p : Nat), Runs (.part p) s ∧ p < 8 ∧ clusterInReset s (64 + p) = false ∧ gatherIdle s p = true)
    ∧ (∃ (s : State) (p : Nat), Runs (.part p) s ∧ p < 8 ∧ mayStopPll s p = true)
    ∧ (∃ (s : State) (p : Nat), Runs (.part p) s)
    ∧ (∃ (s : State) (w : Nat), Runs .fab s ∧ capInForce s < w)
    ∧ (∃ (s : State) (w : Nat), Runs .fab s ∧ w ≤ capInForce s ∧ 10 * w < 9 * capInForce s ∧ s.pwr.below < 99)
    ∧ (∃ (s : State) (w : Nat), Runs .fab s ∧ w ≤ capInForce s ∧ 10 * w < 9 * capInForce s ∧ s.pwr.below = 99)
    ∧ (∃ (s : State) (rs : List (Option (BitVec 12))), s.pwr.porstLow = false ∧
      liveReadings s ((List.range 8).foldl (fun p k => takeReading s.devtime p k (rs.getD k none)) s.pwr) = [])
    ∧ (∃ (s : State) (rs : List (Option (BitVec 12))) (x : Int), s.pwr.porstLow = false ∧
      liveReadings s ((List.range 8).foldl (fun p k => takeReading s.devtime p k (rs.getD k none)) s.pwr) = [x] ∧
      (8 * fld (rget s 0x120004) 7 0 : Nat) ≤ x ∧ x < (8 * fld (rget s 0x120004) 15 8 : Nat)) :=
  ⟨⟨State.reset, by decide +kernel⟩,
   ⟨State.reset, 10, by decide +kernel⟩,
   ⟨{ tUp with pwr := { tUp.pwr with on := 0x3FF#11 } }, 10, by decide +kernel⟩,
   ⟨{ tUp with pwr := { tUp.pwr with on := 0x7FB#11 } }, 2, by decide +kernel⟩,
   ⟨{ tUp with pwr := { tUp.pwr with lockd := 0x7FE#11 }, rook := {} }, by decide +kernel⟩,
   ⟨{ tUp with pwr := { tUp.pwr with lockd := 0x3FF#11 } }, 7, by decide +kernel⟩,
   ⟨tUp, by decide +kernel⟩,
   ⟨tUp, by decide +kernel⟩,
   ⟨{ tUp with rook := { state := 2, qstate := 2 } }, by decide +kernel⟩,
   ⟨{ tUp with rook := { state := 2, qstate := 3 } }, by decide +kernel⟩,
   ⟨{ tUp with pwr := { tUp.pwr with perstLow := true } }, by decide +kernel⟩,
   ⟨tUp, 63, by decide +kernel⟩,
   ⟨tUp, 7, by decide +kernel⟩,
   ⟨{ tUp with regs := [(0x12011C, 0x400003E8#32)], pwr := { tUp.pwr with cluStop := ((List.range 8).map fun i => (56 + i, true)) ++ [(71, true)] } },
      7, by decide +kernel⟩,
   ⟨tUp, 7, by decide +kernel⟩,
   ⟨tUp, 421, by decide +kernel⟩,
   ⟨tUp, 377, by decide +kernel⟩,
   ⟨{ tUp with pwr := { tUp.pwr with below := 99 } }, 377, by decide +kernel⟩,
   ⟨tUp, [], by decide +kernel⟩,
   ⟨tUp, [some 760#12], 760, by decide +kernel⟩⟩

/-- What each clause of RegisterWritesAreGated assumes is met. -/
theorem witness_RegisterWritesAreGated :
    (∃ (s : State) (c : Instr) (off : Nat) (be : BitVec 4), regRow c = some (off, be) ∧ s.pwr.refLoss = false ∧ up s .hif =
      false)
    ∧ (∃ (s : State) (c : Instr) (off : Nat) (be : BitVec 4), regRow c = some (off, be) ∧ s.pwr.refLoss = false ∧ ctlReach s =
      false)
    ∧ (∃ (s : State) (c : Instr) (off : Nat) (be : BitVec 4), regRow c = some (off, be) ∧ s.pwr.refLoss = false ∧ be = 0#4)
    ∧ (∃ (s : State) (c : Instr) (off : Nat) (be : BitVec 4), regRow c = some (off, be) ∧ s.pwr.refLoss = false ∧ s.flt.safe =
      true ∧ safeWritable off = false)
    ∧ (∃ (s : State) (c : Instr) (off : Nat) (be : BitVec 4), regRow c = some (off, be) ∧ s.pwr.refLoss = false ∧ up s .hif =
      true ∧ ctlReach s = true ∧ portHeld s = false ∧ (s.flt.safe = false ∨ safeWritable off = true) ∧ be ≠ 0#4 ∧ be ≠ 0xF#4)
    ∧ (∃ (s : State) (c : Instr) (off : Nat) (be : BitVec 4), regRow c = some (off, be) ∧ s.pwr.refLoss = false ∧ up s .hif =
      true ∧ ctlReach s = true ∧ portHeld s = false ∧ (s.flt.safe = false ∨ safeWritable off = true) ∧ be = 0xF#4 ∧ heldInReset
      s off = true)
    ∧ (∃ (s : State) (c : Instr) (off : Nat) (be : BitVec 4), regRow c = some (off, be) ∧ s.pwr.refLoss = false ∧ portHeld s =
      true) :=
  ⟨⟨State.reset, .cqHeadWrite 4095 0 0xF, 0xC7FFC, 0xF, by decide +kernel⟩,
   ⟨{ tUp with hif := { tUp.hif with mse := false } }, .cqHeadWrite 4095 0 0xF, 0xC7FFC, 0xF, by decide +kernel⟩,
   ⟨tUp, .cqHeadWrite 4095 0 0, 0xC7FFC, 0, by decide +kernel⟩,
   ⟨tSafe, .cqHeadWrite 4095 0 0xF, 0xC7FFC, 0xF, by decide +kernel⟩,
   ⟨tUp, .cqHeadWrite 4095 0 0xE, 0xC7FFC, 0xE, by decide +kernel⟩,
   ⟨tReset .cluster 63 false, .l1ctlWrite 63 0 0xF, 0xA30FC, 0xF, by decide +kernel⟩,
   ⟨{ tTab with upd := { held := [{ tgt := 0, row := 0, bytes := [(0, 1#8)] }] } }, .l1ctlWrite 63 0 0xF, 0xA30FC, 0xF,
      by decide +kernel⟩⟩

/-- What each clause of RegisterAccesses assumes is met. -/
theorem witness_RegisterAccesses :
    (∃ (s : State), Runs .hif s ∧ ctlReach s = true)
    ∧ (∃ (s : State), Runs .hif s ∧ ctlReach s = false ∧ s.hif.linkUp = true ∧ s.hif.flr = false)
    ∧ (∃ (s : State), CtlOpen 0x120004 s)
    ∧ (∃ (s : State), CtlOpen 0x82040 s ∧ migLock s = true)
    ∧ (∃ (s : State), CtlOpen 0xF000C s ∧ CtlOpen 0xF0010 s)
    ∧ (∃ (s : State), Runs .hif s)
    ∧ (∃ (s : State) (c : Instr), Runs .hif s ∧ ctlReach s = true ∧ portHeld s = false ∧
      ((∃ sq d, c = .tailDoorbell sq ⟨d, true⟩) ∨ (∃ sq o d, c = .dbapSlotWrite sq o ⟨d, true⟩) ∨ (∃ o d, c = .upapWrite o ⟨d, true⟩) ∨
        (∃ o q d, c = .plapWrite o q ⟨d, true⟩) ∨ ∃ o ws, c = .registerWrite o ⟨ws, true⟩)) :=
  ⟨⟨tUp, by decide +kernel⟩,
   ⟨{ tUp with hif := { tUp.hif with mse := false } }, by decide +kernel⟩,
   ⟨tUp, by decide +kernel⟩,
   ⟨{ tUp with regs := [(0x82020, 0x8010040A#32)] }, by decide +kernel⟩,
   ⟨tUp, by decide +kernel⟩,
   ⟨tUp, by decide +kernel⟩,
   ⟨tUp, _, by decide +kernel, by decide +kernel, by decide +kernel, .inl ⟨0, [], rfl⟩⟩⟩

/-- What each clause of PlapReadsAreUnsupportedRequests assumes is met. -/
theorem witness_PlapReadsAreUnsupportedRequests :
    ∃ (s : State), Runs .hif s :=
  ⟨tUp, by decide +kernel⟩

/-- What each clause of PressWaitsFollowTheirCounters assumes is met. -/
theorem witness_PressWaitsFollowTheirCounters :
    (∃ (s : State) (x : Issue) (p : Path), Issues s 0xE3 x p ∧ wDi p.w < pendOf s p.t.core p.l.id (wTok p.w))
    ∧ (∃ (s : State) (x : Issue) (p : Path), Issues s 0xE3 x p ∧ pendOf s p.t.core p.l.id (wTok p.w) ≤ wDi p.w)
    ∧ (∀ opc ∈ [0xE0, 0xE1, 0xE2], ∃ s x p, (streamAt s p.t.core (wS p.w)).launch = some p.l.id ∧
      63 ≤ pendOf s p.t.core p.l.id (wTok p.w) ∧ Issues s opc x p)
    ∧ (∃ (s : State) (x : Issue) (p : Path), (streamAt s p.t.core (wS p.w)).launch = some p.l.id ∧
      pendOf s p.t.core p.l.id (wTok p.w) < 63 ∧ (streamAt s p.t.core (wS p.w)).queue.length < 8 ∧ Issues s 0xE1 x p) :=
  ⟨⟨({ tPress {} with simt := { (tPress {}).simt with cores := [(0, { tok := [(0, 63)] })] } }), tWord [(16, 62)],
      tPath ({ tPress {} with simt := { (tPress {}).simt with cores := [(0, { tok := [(0, 63)] })] } }) 0xE3 (tWord [(16,
      62)]), tIssues_issues (by decide +kernel), by decide +kernel⟩,
   ⟨({ tPress {} with simt := { (tPress {}).simt with cores := [(0, { tok := [(0, 63)] })] } }), tWord [(16, 63)],
      tPath ({ tPress {} with simt := { (tPress {}).simt with cores := [(0, { tok := [(0, 63)] })] } }) 0xE3 (tWord [(16,
      63)]), tIssues_issues (by decide +kernel), by decide +kernel⟩,
   fun opc h => ⟨_, _, tPath ({ tPress {} with simt := { (tPress {}).simt with cores := [(0, { tok := [(0, 63)] })] } }) opc (tWord []), by
      revert opc; decide +kernel, by revert opc; decide +kernel,
      tIssues_issues (List.all_eq_true.mp (by decide +kernel : ([0xE0, 0xE1, 0xE2].all fun opc =>
        tIssues ({ tPress {} with simt := { (tPress {}).simt with cores := [(0, { tok := [(0, 63)] })] } }) opc (tWord [])) = true) opc h)⟩,
   ⟨({ tPress {} with simt := { (tPress {}).simt with cores := [(0, { tok := [(0, 62)] })] } }), tWord [],
      tPath ({ tPress {} with simt := { (tPress {}).simt with cores := [(0, { tok := [(0, 62)] })] } }) 0xE1 (tWord []),
      by decide +kernel, by decide +kernel, by decide +kernel, tIssues_issues (by decide +kernel)⟩⟩

/-- What each clause of MisalignedAtomicsChangeNoMemory assumes is met. -/
theorem witness_MisalignedAtomicsChangeNoMemory :
    (∃ (regs w : _), wordOk regs w = true ∧ (w % 256 = 0xA2 ∨ w % 256 = 0xA3))
    ∧ (∃ (s : State) (x : Issue) (p : Path) (va : Nat), Issues s 0xA2 x p ∧ misaligned p (accBytes (wMod p.w)) = some va)
    ∧ (∃ (s : State) (x : Issue) (p : Path) (va : Nat), Issues s 0xA3 x p ∧ misaligned p (accBytes (wMod p.w)) = some va)
    ∧ (∃ (s : State) (x : Issue) (p : Path) (va : Nat), Issues s 0xA0 x p ∧ misaligned p (atomSize (wMod p.w)) = some va)
    ∧ (∃ (s : State) (x : Issue) (p : Path) (va : Nat), Issues s 0xA1 x p ∧ misaligned p (atomSize (wMod p.w)) = some va) :=
  ⟨⟨256, 0x300000000A2, by decide +kernel⟩,
   ⟨(tSimt { tGrp with regs := [(0, 2#32)] }), tWord [(40, 3)],
      tPath (tSimt { tGrp with regs := [(0, 2#32)] }) 0xA2 (tWord [(40, 3)]), 2, tIssues_issues (by decide +kernel),
      by decide +kernel⟩,
   ⟨(tSimt { tGrp with regs := [(0, 2#32)] }), tWord [(40, 3)],
      tPath (tSimt { tGrp with regs := [(0, 2#32)] }) 0xA3 (tWord [(40, 3)]), 2, tIssues_issues (by decide +kernel),
      by decide +kernel⟩,
   ⟨(tSimt { tGrp with regs := [(0, 2#32)] }), tWord [], tPath (tSimt { tGrp with regs := [(0, 2#32)] }) 0xA0 (tWord []), 2,
      tIssues_issues (by decide +kernel), by decide +kernel⟩,
   ⟨(tSimt { tGrp with regs := [(0, 2#32)] }), tWord [], tPath (tSimt { tGrp with regs := [(0, 2#32)] }) 0xA1 (tWord []), 2,
      tIssues_issues (by decide +kernel), by decide +kernel⟩⟩

end Sys2Proof.Machine
end

/-! SUPPORT. Live update writes, refusals and reads of the apertures (R128 to R131, R142 to R146): what each effect of the family
does under the conditions that its rule names, then the statements of the family. -/

namespace Sys2Proof.Machine

/-! ## Lists that split a read into pieces -/

/-- A list that names one row again and again names one row. -/
theorem eraseDups_map_range_of_const {n : Nat} (pos : 0 < n) {f : Nat → Nat} {r : Nat} (h : ∀ i < n, f i = r) :
    ((List.range n).map f).eraseDups = [r] := by
  obtain ⟨m, rfl⟩ := Nat.exists_eq_add_of_lt pos
  have rest : (((List.range m).map Nat.succ).map f).filter (fun x => !x == r) = [] := by
    rw [List.filter_eq_nil_iff]
    intro x hx
    obtain ⟨j, hj, rfl⟩ := List.mem_map.mp hx
    obtain ⟨i, hi, rfl⟩ := List.mem_map.mp hj
    have hi : i < m := List.mem_range.mp hi
    simp [h (i + 1) (by omega)]
  rw [Nat.zero_add, List.range_succ_eq_map, List.map_cons, h 0 (by omega), List.eraseDups_cons, rest, List.eraseDups_nil]

/-- Of the indices below `n`, a condition that only index 0 meets leaves index 0. -/
theorem filter_range_eq_zero {n : Nat} (pos : 0 < n) {p : Nat → Bool} (h0 : p 0 = true)
    (h : ∀ i, 0 < i → i < n → p i = false) : (List.range n).filter p = [0] := by
  obtain ⟨m, rfl⟩ := Nat.exists_eq_add_of_lt pos
  have rest : ((List.range m).map Nat.succ).filter p = [] := by
    rw [List.filter_eq_nil_iff]
    intro x hx
    obtain ⟨i, hi, rfl⟩ := List.mem_map.mp hx
    have hi : i < m := List.mem_range.mp hi
    simp [h (i + 1) (by omega) (by omega)]
  rw [Nat.zero_add, List.range_succ_eq_map, List.filter_cons_of_pos h0, rest]

/-- Adding to a number within one block of size `m` keeps the block and moves the remainder. -/
theorem add_within_block {o i m : Nat} (h : o % m + i < m) : (o + i) / m = o / m ∧ (o + i) % m = o % m + i := by
  have hm : 0 < m := by omega
  have split : o + i = (o % m + i) + m * (o / m) := by have := Nat.mod_add_div o m; omega
  rw [split, Nat.add_mul_div_left _ _ hm, Nat.add_mul_mod_self_left, Nat.div_eq_of_lt h, Nat.mod_eq_of_lt h]
  exact ⟨by omega, rfl⟩

/-! ## Commands behind the gate of HIF -/

theorem exec_upapWrite_good {s : State} (off : Nat) (data : Masked) (h : Runs .hif s) :
    exec (.upapWrite off ⟨data, false⟩) s = .next (upapWriteE off data s) := by
  change live .hif s (barWrite ⟨data, false⟩ (upapWriteE off)) = _
  rw [live_runs _ h, barWrite_good _ _ rfl]

theorem exec_plapWrite_good {s : State} (off : Nat) (reqid : W16) (data : Masked) (h : Runs .hif s) :
    exec (.plapWrite off reqid ⟨data, false⟩) s = .next (plapWriteE off reqid data s) := by
  change live .hif s (barWrite ⟨data, false⟩ (plapWriteE off reqid)) = _
  rw [live_runs _ h, barWrite_good _ _ rfl]

theorem exec_upapRead {s : State} (off n : Nat) (h : Runs .hif s) :
    exec (.upapRead off n) s = .next (upapReadE off n s) := live_runs _ h

theorem exec_plapRead {s : State} (off n : Nat) (h : Runs .hif s) :
    exec (.plapRead off n) s = .next (emit .unsupported s) := live_runs _ h

theorem exec_stagingWaitEnd {s : State} (h : Runs .hif s) :
    exec .stagingWaitEnd s = .next (stagingWaitEndE s) := live_runs _ h

theorem exec_rowCommit {s : State} (slice : Nat) (h : Runs (.part (partOfSlice slice)) s) :
    exec (.rowCommit slice) s = .next (rowCommitE slice s) := live_runs _ h

/-! ## Writes of windows and regions -/

section
variable {s : State} {off : Nat} {data : Masked} (reach : ctlReach s = true) (safe : s.flt.safe = false)
include reach safe

/-- A write to an enabled window is taken row by row (R128, R129). -/
theorem upapWriteE_enabled (open_ : s.rook.qstate ≠ 3) (hoff : off < 2 ^ 24) (en : (s.upd.set (off / 2 ^ 20)).en = true) :
    upapWriteE off data s = targetWrite (off / 2 ^ 20) (off % 2 ^ 20) data (info21 (off / 2 ^ 20) 0) s := by
  have inWindow : ¬16 ≤ off / 2 ^ 20 := by omega
  simp only [upapWriteE, quiesced, reach, safe, open_, inWindow, en, decide_false, Bool.not_true, Bool.or_self,
    Bool.false_eq_true, if_false]

/-- A write to a disabled window is counted and discarded (R131), and no less while the block is quiesced. -/
theorem upapWriteE_disabled (hoff : off < 2 ^ 24) (en : (s.upd.set (off / 2 ^ 20)).en = false) :
    upapWriteE off data s = rcount 0x80408 1 s := by
  have inWindow : ¬16 ≤ off / 2 ^ 20 := by omega
  simp only [upapWriteE, reach, safe, inWindow, en, decide_false, Bool.not_true, Bool.not_false, Bool.or_self,
    Bool.false_eq_true, if_false, if_true, ite_self]

/-- A write to an enabled region whose key admits the requester is taken row by row (R142, R144). -/
theorem plapWriteE_admitted {reqid : W16} (open_ : s.rook.qstate ≠ 3) (hoff : off < 2 ^ 28)
    (en : (fget {} s.upd.plc (off / 2 ^ 18)).set.en = true)
    (key : (reqid &&& ((fget {} s.upd.plc (off / 2 ^ 18)).key >>> 16).setWidth 16)
      = ((fget {} s.upd.plc (off / 2 ^ 18)).key.setWidth 16 &&& ((fget {} s.upd.plc (off / 2 ^ 18)).key >>> 16).setWidth 16)) :
    plapWriteE off reqid data s =
      targetWrite (16 + off / 2 ^ 18) (off % 2 ^ 18) data (info21 (16 + off / 2 ^ 18) reqid) s := by
  have inRegion : ¬1024 ≤ off / 2 ^ 18 := by omega
  simp only [plapWriteE, quiesced, reach, safe, open_, inRegion, en, key, decide_false, decide_true, Bool.not_true,
    Bool.or_self, Bool.and_self, Bool.false_eq_true, if_false, if_true]

/-- A write to a disabled region is an Unsupported Request, counted and discarded without a fault (R144). -/
theorem plapWriteE_disabled {reqid : W16} (open_ : s.rook.qstate ≠ 3) (hoff : off < 2 ^ 28)
    (en : (fget {} s.upd.plc (off / 2 ^ 18)).set.en = false) :
    plapWriteE off reqid data s = rcount 0x80408 1 (logAer (.unsupportedRequest
      { bar := 4, offset := 0x10000000 + off, reqid := reqid, length := data.length }) s) := by
  have inRegion : ¬1024 ≤ off / 2 ^ 18 := by omega
  simp only [plapWriteE, quiesced, reach, safe, open_, inRegion, en, decide_false, Bool.not_true, Bool.or_self,
    Bool.false_and, Bool.false_eq_true, if_false]

end

/-! ## Reads of windows -/

/-- A read of a disabled window gives zeros (R131). -/
theorem upapReadE_disabled {s : State} {off : Nat} (n : Nat) (reach : ctlReach s = true) (hoff : off < 2 ^ 24)
    (en : (s.upd.set (off / 2 ^ 20)).en = false) :
    upapReadE off n s = emit (.readBytes 4 off (List.replicate n 0) false) s := by
  have inWindow : ¬16 ≤ off / 2 ^ 20 := by omega
  simp only [upapReadE, reach, inWindow, en, Bool.not_true, Bool.not_false, Bool.false_eq_true, if_false, if_true]

/-- A read within one 64-B piece of one row, whose regions stand, is answered as that piece (R130). -/
theorem upapReadE_onePiece {s : State} {off n : Nat} {w : WinSet} (reach : ctlReach s = true) (hoff : off < 2 ^ 24)
    (hw : s.upd.set (off / 2 ^ 20) = w) (en : w.en = true) (pos : 0 < n) (piece : off % 64 + n ≤ 64)
    (oneRow : off % 2 ^ 20 % w.sstride + n ≤ w.sstride)
    (stands : rowWaits s (rowCopy s w.table (tableOf s w.table) w.side (w.row + off % 2 ^ 20 / w.sstride)).1
      (tableOf s w.table).size = false) :
    upapReadE off n s =
      upapPiece w (tableOf s w.table) off (w.row + off % 2 ^ 20 / w.sstride) (off % 2 ^ 20 % w.sstride) n s := by
  have inWindow : ¬16 ≤ off / 2 ^ 20 := by omega
  have rows : ((List.range n).map fun i => w.row + (off % 2 ^ 20 + i) / w.sstride).eraseDups
      = [w.row + off % 2 ^ 20 / w.sstride] :=
    eraseDups_map_range_of_const pos fun i hi => by rw [(add_within_block (by omega)).1]
  have cuts : ((List.range n).filter fun i =>
      i = 0 || (off % 2 ^ 20 + i) % 64 = 0 || (off % 2 ^ 20 + i) % w.sstride = 0) = [0] :=
    filter_range_eq_zero pos (by simp) fun i hi hn => by
      have inSlot := (add_within_block (o := off % 2 ^ 20) (i := i) (m := w.sstride) (by omega)).2
      have notLine : (off % 2 ^ 20 + i) % 64 ≠ 0 := by omega
      have notSlot : (off % 2 ^ 20 + i) % w.sstride ≠ 0 := by omega
      simp only [Nat.ne_of_gt hi, notLine, notSlot, decide_false, Bool.or_self]
  simp only [upapReadE, reach, inWindow, hw, en, rows, cuts, stands, Bool.not_true, Bool.and_false, Bool.or_self,
    Bool.false_eq_true, if_false, List.any_cons, List.any_nil, List.drop_one, List.tail_cons, List.nil_append,
    List.zip_cons_cons, List.zip_nil_left, List.foldl_cons, List.foldl_nil, Nat.add_zero, Nat.sub_zero]

/-- A piece above `ROWS` reads zero, without count or record (R130). -/
theorem upapPiece_beyond {s : State} {w : WinSet} {d : TblDesc} (off : Nat) {r : Nat} (b n : Nat) (h : d.rows < r) :
    upapPiece w d off r b n s = emit (.readBytes 4 off (List.replicate n 0) false) s := if_pos h

/-- A raw piece within a row of sound, populated bytes is the stored bytes (R130). -/
theorem upapPiece_raw {s : State} {w : WinSet} {d : TblDesc} (off : Nat) {r b n : Nat} (raw : w.conv = false)
    (within : r ≤ d.rows) (span : b + n ≤ rowSpan d w)
    (sound : ∀ i, i < n → rowNowhere s ((rowCopy s w.table d w.side r).1 + (b + i)) 1 = false
      ∧ devPoison s (shardHome w.table d.shards r).2 ((rowCopy s w.table d w.side r).1 + (b + i)) 1 = false) :
    upapPiece w d off r b n s = emit (.readBytes 4 off ((List.range n).map fun i =>
      (devBytes s (shardHome w.table d.shards r).2 (rowCopy s w.table d w.side r).1 d.size).getD (b + i) 0) false) s := by
  have hit : ((List.range n).filter fun i => b + i < rowSpan d w) = List.range n :=
    List.filter_eq_self.mpr fun i hi => decide_eq_true (by have := List.mem_range.mp hi; omega)
  have populated : ((List.range n).map fun i => (b + i, 1)).any
      (fun x => rowNowhere s ((rowCopy s w.table d w.side r).1 + x.1) x.2) = false := by
    simpa [List.any_map] using fun i hi => (sound i hi).1
  have clean : ((List.range n).map fun i => (b + i, 1)).any (fun x => (List.range x.2).any fun i =>
      devPoison s (shardHome w.table d.shards r).2 ((rowCopy s w.table d w.side r).1 + x.1 + i) 1) = false := by
    simpa [List.any_map, Nat.add_assoc] using fun i hi => (sound i hi).2
  have bytes : ((List.range n).map fun i => if b + i < rowSpan d w then
        (devBytes s (shardHome w.table d.shards r).2 (rowCopy s w.table d w.side r).1 d.size).getD (b + i) 0 else 0)
      = (List.range n).map fun i =>
        (devBytes s (shardHome w.table d.shards r).2 (rowCopy s w.table d w.side r).1 d.size).getD (b + i) 0 :=
    List.map_congr_left fun i hi => if_pos (by have := List.mem_range.mp hi; omega)
  simp only [upapPiece, Nat.not_lt.mpr within, raw, hit, populated, clean, bytes, Bool.false_and, Bool.false_eq_true, if_false]

/-- A completion with Unsupported Request carries no data and is a flit on the link, which asks for the exit from L1 (R145, R387). -/
theorem emit_unsupported (s : State) :
    emit .unsupported s = { s with out := .unsupported :: s.out, hif := { s.hif with l1Req := false } } := rfl

/-! ## Held writes and row commits -/

/-- The write held longest at the flit port goes on before the rest (R134). -/
theorem stagingWaitEndE_held {s : State} {p : RowPart} {rest : List RowPart} (h : s.upd.held = p :: rest) :
    stagingWaitEndE s = stagePart p rest { s with upd := { s.upd with held := [] } } := by
  simp only [stagingWaitEndE, h]

/-- The row whose commit waits is committed in its turn, and the slice's gap is counted anew (R37, R137). -/
theorem rowCommitE_turn {s : State} {slice : Nat} {r : StagedRow} (waits : commitWaiting s slice = some r)
    (turn : bgTurn s slice (decide (15 ≤ (s.dc.slice slice).gapCommit)) r.at_ 50000 = true) :
    rowCommitE slice s = commitStaged slice r (modSlice slice (fun sl => { sl with gapCommit := 0 }) s) := by
  simp only [rowCommitE, waits, turn, if_true]

/-! ## The raw image of a row (R135) -/

theorem rawRow_img_length (size : Nat) (cur : Bytes) (bad : List Nat) (bytes : List (Nat × Byte)) :
    (rawRow size cur bad bytes).img.length = size := by simp [rawRow]

theorem rawRow_img_getD {size : Nat} (cur : Bytes) (bad : List Nat) (bytes : List (Nat × Byte)) {j : Nat} (h : j < size) :
    (rawRow size cur bad bytes).img.getD j 0 =
      ((bytes.find? fun b => b.1 = j).map Prod.snd).getD (cur.getD j 0) := by
  simp [rawRow, List.getD_eq_getElem?_getD, h]

/-- One staged byte replaces the byte at its offset and no other. -/
theorem rawRow_img_single {size : Nat} (cur : Bytes) (bad : List Nat) (i : Nat) (b : Byte) {j : Nat} (h : j < size) :
    (rawRow size cur bad [(i, b)]).img.getD j 0 = if j = i then b else cur.getD j 0 := by
  rw [rawRow_img_getD cur bad _ h]
  by_cases hj : j = i
  · simp [hj]
  · simp [hj, Ne.symm hj]

/-! ## The statements -/

/-- Settles O24: each clause is one effect of the family under the conditions of its rule, behind its gate. -/
theorem liveWritesReadsAndCommits : Obligations.LiveWritesReadsAndCommits := by
  unfold Obligations.LiveWritesReadsAndCommits
  refine ⟨?upapWrite, ?upapWriteOff, ?plapWrite, ?plapWriteOff, ?upapReadOff, ?upapRead, ?rawPiece, ?beyond, ?plapRead,
    ?held, ?commit, ?rawImage⟩
  case upapWrite =>
    intro s off data runs reach safe open_ hoff en
    rw [exec_upapWrite_good off data runs, upapWriteE_enabled reach safe open_ hoff en]
  case upapWriteOff =>
    intro s off data runs reach safe hoff en
    rw [exec_upapWrite_good off data runs, upapWriteE_disabled reach safe hoff en]
  case plapWrite =>
    intro s off reqid data runs reach safe open_ hoff r en key
    rw [exec_plapWrite_good off reqid data runs, plapWriteE_admitted reach safe open_ hoff en key]
  case plapWriteOff =>
    intro s off reqid data runs reach safe open_ hoff en
    rw [exec_plapWrite_good off reqid data runs, plapWriteE_disabled reach safe open_ hoff en, logAer]
  case upapReadOff =>
    intro s off n runs reach hoff en
    rw [exec_upapRead off n runs, upapReadE_disabled n reach hoff en]
  case upapRead =>
    intro s off n w runs reach hoff hw en pos piece oneRow d r stands
    rw [exec_upapRead off n runs, upapReadE_onePiece reach hoff hw.symm en pos piece oneRow stands]
  case rawPiece =>
    intro s w d off r b n raw within span k a sound
    exact upapPiece_raw off raw within span sound
  case beyond =>
    intro s w d off r b n h
    exact upapPiece_beyond off b n h
  case plapRead =>
    intro s off n runs
    exact exec_plapRead off n runs
  case held =>
    intro s p rest runs h
    rw [exec_stagingWaitEnd runs, stagingWaitEndE_held h]
  case commit =>
    intro s slice r runs waits turn
    rw [exec_rowCommit slice runs, rowCommitE_turn waits turn]
  case rawImage =>
    intro size cur bad i b hi
    refine ⟨rawRow_img_length size cur bad _, ?_, fun j hj ne => ?_, rfl⟩
    · rw [rawRow_img_single cur bad i b hi, if_pos rfl]
    · rw [rawRow_img_single cur bad i b hj, if_neg ne]

/-- Settles O58: HIF answers the read at once, whatever its offset and size. -/
theorem plapReadsAreUnsupportedRequests : Obligations.PlapReadsAreUnsupportedRequests := by
  unfold Obligations.PlapReadsAreUnsupportedRequests
  intro s off n runs
  rw [exec_plapRead off n runs, emit_unsupported]

end Sys2Proof.Machine

/-! SUPPORT. Press words and PEND (R180, R188): the word that a path issues, what issuing leaves of the cores and the streams, a
wait's two cases, and the issue of a press instruction to a stream of the launch; then the statement of the family. -/

namespace Sys2Proof.Machine

/-! ## The word of a path -/

theorem pathOf_w {s : State} {opc : Nat} {x : Issue} {p : Path} (h : pathOf s opc x = some p) : p.w = word opc x := by
  dsimp only [pathOf] at h
  repeat' split at h
  all_goals cases h
  rfl

theorem word_mod_256 {opc : Nat} (x : Issue) (h : opc < 256) : word opc x % 256 = opc := by
  unfold word
  omega

/-- The word that a path issues bears the opcode of its row (R179, R214). -/
theorem Issues.opcode {s : State} {opc : Nat} {x : Issue} {p : Path} (h : Issues s opc x p) (lt : opc < 256) :
    p.w % 256 = opc := by
  obtain ⟨-, hp, -, -, -⟩ := h
  obtain ⟨q, hq, rfl⟩ := Option.map_eq_some_iff.mp hp
  change q.w % 256 = opc
  rw [pathOf_w hq, word_mod_256 x lt]

/-! ## What issuing a word leaves -/

@[simp] theorem pendOf_clocked (p : Path) (s : State) (c l k : Nat) : pendOf (clocked p s) c l k = pendOf s c l k := rfl

@[simp] theorem streamAt_clocked (p : Path) (s : State) (c i : Nat) : streamAt (clocked p s) c i = streamAt s c i := rfl

/-! ## Waits (R209, R231) -/

theorem waitRow_ready (p : Path) (s : State) :
    waitRow p true s = onGroup p (fun g => (g.next p).endResv p.act) s := rfl

theorem waitRow_unready (p : Path) (s : State) :
    waitRow p false s = onGroup p (fun g => { g.endResv p.act with wait := .event }) s := rfl

theorem exec_pwait_issues {s : State} {x : Issue} {p : Path} (h : Issues s 0xE3 x p) :
    exec (.pwait x) s = .next (waitRow p (pendOf s p.t.core p.l.id (wTok p.w) ≤ wDi p.w) (clocked p s)) :=
  simt_issues _ h

/-! ## Issue of a press instruction (R180, R188) -/

theorem exec_pldw_issues {s : State} {x : Issue} {p : Path} (h : Issues s 0xE0 x p) :
    exec (.pldw x) s = .next (pressIssue p (clocked p s)) := simt_issues _ h

theorem exec_pmma_issues {s : State} {x : Issue} {p : Path} (h : Issues s 0xE1 x p) :
    exec (.pmma x) s = .next (pressIssue p (clocked p s)) := simt_issues _ h

theorem exec_prq_issues {s : State} {x : Issue} {p : Path} (h : Issues s 0xE2 x p) :
    exec (.prq x) s = .next (pressIssue p (clocked p s)) := simt_issues _ h

/-- The press instruction that a path issues, as it stands in a stream's queue: its opcode and its word, its registers read as it
issues (R180). -/
def Path.pressIns (p : Path) (opc : Byte) : PressIns :=
  { opc := opc, word := BitVec.ofNat 64 p.w, adj := (p.g.reg (p.act.headD 0) (wAdj p.w)).toNat
    hreg := (p.g.reg (p.act.headD 0) (wHreg p.w)).toNat, tok := wTok p.w }

section
variable {p : Path} {s : State} (own : (streamAt s p.t.core (wS p.w)).launch = some p.l.id)
include own

/-- At PEND 63 the group stalls before its word. -/
theorem pressIssue_pendFull (full : 63 ≤ pendOf s p.t.core p.l.id (wTok p.w)) : pressIssue p s = stall p .event s := by
  simp only [pressIssue, own, full, ne_eq, not_true, decide_true, Bool.true_or, if_false, if_true]

/-- Below PEND 63, with room in the queue, the instruction joins the queue and its counter counts it. -/
theorem pressIssue_queues {opc : Nat} (hopc : p.w % 256 = opc) (pend : pendOf s p.t.core p.l.id (wTok p.w) < 63)
    (room : (streamAt s p.t.core (wS p.w)).queue.length < 8) :
    pressIssue p s = onGroup p (fun g => g.next p) (modPend p.t.core p.l.id (wTok p.w) (· + 1)
      (modStream p.t.core (wS p.w) (fun y => { y with queue := y.queue ++ [p.pressIns (BitVec.ofNat 8 opc)] }) s)) := by
  have byte : BitVec.ofNat 8 p.w = BitVec.ofNat 8 opc := by
    apply BitVec.eq_of_toNat_eq
    simp only [BitVec.toNat_ofNat]
    omega
  have noStall : (63 ≤ pendOf s p.t.core p.l.id (wTok p.w) || 8 ≤ (streamAt s p.t.core (wS p.w)).queue.length) = false := by
    simpa using ⟨pend, room⟩
  simp only [pressIssue, Path.pressIns, own, byte, noStall, ne_eq, not_true, Bool.false_eq_true, if_false]

end

/-! ## The statement -/

/-- Settles O59: PWAIT is a wait on its counter, and a press instruction joins its stream's queue only below PEND 63. -/
theorem pressWaitsFollowTheirCounters : Obligations.PressWaitsFollowTheirCounters := by
  unfold Obligations.PressWaitsFollowTheirCounters
  intro s x p
  refine ⟨?above, ?reached, ?full, ?room⟩
  case above =>
    intro h above
    rw [exec_pwait_issues h, decide_eq_false (Nat.not_le.mpr above), waitRow_unready]
  case reached =>
    intro h reached
    rw [exec_pwait_issues h, decide_eq_true reached, waitRow_ready]
  case full =>
    intro own full
    rw [← streamAt_clocked p s] at own
    rw [← pendOf_clocked p s] at full
    refine ⟨fun h => ?_, fun h => ?_, fun h => ?_⟩
    · rw [exec_pldw_issues h, pressIssue_pendFull own full, stall]
    · rw [exec_pmma_issues h, pressIssue_pendFull own full, stall]
    · rw [exec_prq_issues h, pressIssue_pendFull own full, stall]
  case room =>
    intro own pend room h
    rw [← streamAt_clocked p s] at own room
    rw [← pendOf_clocked p s] at pend
    rw [exec_pmma_issues h, pressIssue_queues own (h.opcode (by decide)) pend room]
    rfl

end Sys2Proof.Machine

/-! SUPPORT. Misaligned atomics and conditional accesses (R240): the sizes that a defined word may name, when an access is
misaligned, and what the fault of a path leaves and records; then the statement of the family. -/

namespace Sys2Proof.Machine

/-! ## Sizes (R230, R287) -/

theorem accBytes_of_sizeCode {m : Nat} (h : m % 16 = 2 ∨ m % 16 = 3) : accBytes m = 4 ∨ accBytes m = 8 := by
  rcases h with h | h <;> simp [accBytes, h]

/-- LDR and STC have no Format I (R214). -/
theorem wFi_of_formatOk {w : Nat} (ok : formatOk w = true) (o : w % 256 = 0xA2 ∨ w % 256 = 0xA3) : wFi w = false := by
  have noImm : takesImm (w % 256) = false := by
    rcases o with o | o <;> rw [o] <;> decide
  cases fi : wFi w with
  | false => rfl
  | true =>
    have taken : takesImm (w % 256) = true := by
      rcases o with o | o <;> simpa [formatOk, o, fi] using ok
    exact absurd taken (by rw [noImm]; decide)

/-- LDR and STC name a size of 4 or 8 bytes (R230). -/
theorem sizeCode_of_modOk {w : Nat} (ok : modOk w = true) (fi : wFi w = false) (o : w % 256 = 0xA2 ∨ w % 256 = 0xA3) :
    wMod w % 16 = 2 ∨ wMod w % 16 = 3 := by
  rcases o with o | o
  all_goals
    simp [modOk, o, fi, isPress] at ok
    exact ok.1

theorem accBytes_of_wordOk {regs w : Nat} (ok : wordOk regs w = true) (o : w % 256 = 0xA2 ∨ w % 256 = 0xA3) :
    accBytes (wMod w) = 4 ∨ accBytes (wMod w) = 8 := by
  simp only [wordOk, Bool.and_eq_true] at ok
  obtain ⟨⟨⟨⟨-, format⟩, mod⟩, -⟩, -⟩ := ok
  exact accBytes_of_sizeCode (sizeCode_of_modOk mod (wFi_of_formatOk format o) o)

theorem atomSize_eq (m : Nat) : atomSize m = 4 ∨ atomSize m = 8 := by
  unfold atomSize
  split
  · exact .inr rfl
  · exact .inl rfl

/-! ## Alignment -/

theorem misaligned_eq_none_iff (p : Path) (n : Nat) : misaligned p n = none ↔ ∀ a ∈ vaAccess p n, a.2.1 % n = 0 := by
  simp [misaligned]

/-! ## What the fault of a path leaves and records (R223, R430) -/

/-- The report that a unit detects is the newest of its intake. -/
theorem detect_intake_last (buf : Nat) (r : Report) (s : State) :
    (detect buf r s).flt.intake.getLast?.map (fun i => (i.rep.source, i.rep.addr)) = some (r.source, r.addr) := by
  unfold detect
  split <;> simp [Flt.take]

section
variable (p : Path) (source : Nat) (addr : Option Nat) (info : Nat) (s : State)

@[simp] theorem pathFault_dram : (pathFault p source addr info s).dram = s.dram := by simp [pathFault, launchFault]
@[simp] theorem pathFault_dc : (pathFault p source addr info s).dc = s.dc := by simp [pathFault, launchFault]
@[simp] theorem pathFault_ports : (pathFault p source addr info s).ports = s.ports := by simp [pathFault, launchFault]
@[simp] theorem pathFault_poison : (pathFault p source addr info s).poison = s.poison := by simp [pathFault, launchFault]
@[simp] theorem pathFault_cores : (pathFault p source addr info s).simt.cores = s.simt.cores := by
  simp [pathFault, launchFault, modLaunch]

/-- The launch of the path ends with FAULTED. -/
theorem pathFault_ending {l : Launch} (mem : l ∈ (pathFault p source addr info s).simt.launches) (id : l.id = p.l.id) :
    l.ending = some 0x20 := by
  simp only [pathFault, launchFault, detect_simt, modLaunch, mapWhere, List.mem_map] at mem
  obtain ⟨m, -, rfl⟩ := mem
  by_cases own : m.id = p.l.id
  · simp [own]
  · simp [own] at id

theorem pathFault_intake_last :
    (pathFault p source addr info s).flt.intake.getLast?.map (fun i => (i.rep.source, i.rep.addr)) = some (source, addr) := by
  simp only [pathFault, launchFault, detect_intake_last, report]

@[simp] theorem clocked_dram : (clocked p s).dram = s.dram := rfl
@[simp] theorem clocked_dc : (clocked p s).dc = s.dc := rfl
@[simp] theorem clocked_ports : (clocked p s).ports = s.ports := rfl
@[simp] theorem clocked_poison : (clocked p s).poison = s.poison := rfl
@[simp] theorem clocked_cores : (clocked p s).simt.cores = s.simt.cores := rfl

end

/-! ## The misaligned instructions -/

section
variable {s : State} {x : Issue} {p : Path} {va : Nat}

theorem exec_ldr_misaligned (h : Issues s 0xA2 x p) (bad : misaligned p (accBytes (wMod p.w)) = some va) :
    exec (.ldr x) s = .next (pathFault p 0x0A (some va) p.pc (clocked p s)) :=
  (simt_issues _ h).trans (by simp only [bad])

theorem exec_stc_misaligned (h : Issues s 0xA3 x p) (bad : misaligned p (accBytes (wMod p.w)) = some va) :
    exec (.stc x) s = .next (pathFault p 0x0A (some va) p.pc (clocked p s)) :=
  (simt_issues _ h).trans (by simp only [bad])

theorem atomRow_misaligned (red : Bool) (t : State) (bad : misaligned p (atomSize (wMod p.w)) = some va) :
    atomRow red p t = pathFault p 0x0A (some va) p.pc t := by
  simp only [atomRow, bad]

theorem exec_atom_misaligned (h : Issues s 0xA0 x p) (bad : misaligned p (atomSize (wMod p.w)) = some va) :
    exec (.atom x) s = .next (pathFault p 0x0A (some va) p.pc (clocked p s)) :=
  (simt_issues _ h).trans (by rw [atomRow_misaligned false _ bad])

theorem exec_red_misaligned (h : Issues s 0xA1 x p) (bad : misaligned p (atomSize (wMod p.w)) = some va) :
    exec (.red x) s = .next (pathFault p 0x0A (some va) p.pc (clocked p s)) :=
  (simt_issues _ h).trans (by rw [atomRow_misaligned true _ bad])

end

/-! ## The statement -/

/-- Settles O60: each of the four instructions checks its alignment before anything else, and a misaligned one
issues and then does nothing but the fault of its path. -/
theorem misalignedAtomicsChangeNoMemory : Obligations.MisalignedAtomicsChangeNoMemory := by
  unfold Obligations.MisalignedAtomicsChangeNoMemory
  refine ⟨fun regs w => accBytes_of_wordOk, atomSize_eq, misaligned_eq_none_iff, by decide, ?_⟩
  intro s x p va c hc
  have faults : exec c s = .next (pathFault p 0x0A (some va) p.pc (clocked p s)) := by
    rcases hc with ⟨rfl, h, bad⟩ | ⟨rfl, h, bad⟩ | ⟨rfl, h, bad⟩ | ⟨rfl, h, bad⟩
    · exact exec_ldr_misaligned h bad
    · exact exec_stc_misaligned h bad
    · exact exec_atom_misaligned h bad
    · exact exec_red_misaligned h bad
  exact ⟨_, faults, by simp, by simp, by simp, by simp, by simp, fun l => pathFault_ending _ _ _ _ _,
    pathFault_intake_last _ _ _ _ _⟩

end Sys2Proof.Machine

/-! SUPPORT. Sequencers and arbiters (R357, R360): the grant of a sequencer, the end of a stride, and what a grant of an arbiter
leaves of its weights and its debts; then the statement of the family. -/

namespace Sys2Proof.Machine

/-! ## Sequencers (R360) -/

section
variable {s : State} {id : Nat} {c : Cmd} (runs : Runs .fab s) (has : s.fe.cmd id = some c)
include runs has

/-- The waiter that the arbiter serves takes a sequencer that is free. -/
theorem exec_sequencerGrant_served (waits : c.phase = .waitSeq) (free : seqHeld s.fe (seqKind c) < seqCount c.op)
    (best : (bestWaiter s.fe (seqKind c)).map Cmd.id = some id) :
    exec (.sequencerGrant id) s = .next (grant c s) := by
  change live .fab s (sequencerGrantE id) = _
  rw [live_runs _ runs, sequencerGrantE, withCmd_yes has (by simp [waits, free, best])]

/-- A routine whose kind has no waiter goes on. -/
theorem exec_strideBoundary_unrivalled (ends : atBoundary s c = true) (alone : bestWaiter s.fe (seqKind c) = none) :
    exec (.strideBoundary id) s = .next (grant c s) := by
  change live .fab s (strideBoundaryE id) = _
  rw [live_runs _ runs, strideBoundaryE, withCmd_yes has ends, alone]

/-- A routine that is no more entitled than the waiter that the arbiter serves yields to it. -/
theorem exec_strideBoundary_yields {w : Cmd} (ends : atBoundary s c = true)
    (rival : bestWaiter s.fe (seqKind c) = some w) (even : entitled s.fe (seqKind c) c.ctx w.ctx = false) :
    exec (.strideBoundary id) s =
      .next (grant w (modCmd id (fun d => { d with phase := .yielded, yields := d.yields + 1 }) s)) := by
  change live .fab s (strideBoundaryE id) = _
  rw [live_runs _ runs, strideBoundaryE, withCmd_yes has ends, rival]
  simp only [even, Bool.false_eq_true, if_false]

end

/-! ## Arbiters (R357) -/

section
variable (f : FrontEnd) (a : Arb) (reqs : List (Nat × Nat))

theorem weightSum_eq_sum : f.weightSum reqs = ((reqCtxs reqs).map fun c => (f.ctxOf c).weight).sum := by
  rw [List.sum_eq_foldl, List.foldl_map, FrontEnd.weightSum]

/-- A grant changes no context's weight, so the sum stands. -/
@[simp] theorem weightSum_serve (r : Nat × Nat) (n : Nat) : (f.serve a reqs r n).weightSum reqs = f.weightSum reqs := rfl

variable {f a reqs} {c : Nat}

theorem weight_le_weightSum (h : c ∈ reqCtxs reqs) : (f.ctxOf c).weight ≤ f.weightSum reqs := by
  obtain ⟨before, after, split⟩ := List.append_of_mem h
  rw [weightSum_eq_sum, split, List.map_append, List.map_cons, List.sum_append, List.sum_cons]
  omega

/-- A context that is not due can be owed its share of one more grant. -/
theorem isDue_eq_false_iff : f.isDue a reqs c = false ↔ f.owedAt a c + (f.ctxOf c).weight ≤ f.weightSum reqs := by
  simp only [FrontEnd.isDue, decide_eq_false_iff_not, Nat.not_lt]

/-- The served context pays for the grant with the whole sum of the weights, of which its share is a part; any other context was not
due, so its share still fits. -/
theorem owedAt_serve_le_weightSum {r : Nat × Nat} (small : ∀ x ∈ reqs, x.1 < 4096) (hc : c ∈ reqCtxs reqs)
    (owed : f.owedAt a c ≤ f.weightSum reqs) (notDue : c ≠ r.1 → f.isDue a reqs c = false) :
    (f.serve a reqs r 1).owedAt a c ≤ (f.serve a reqs r 1).weightSum reqs := by
  rw [weightSum_serve, f.serve_owedAt a reqs r 1 small hc, Nat.one_mul, Nat.one_mul]
  by_cases served : c = r.1
  · have share : (f.ctxOf c).weight ≤ f.weightSum reqs := weight_le_weightSum hc
    rw [if_pos served]
    omega
  · rw [if_neg served]
    exact isDue_eq_false_iff.mp (notDue served)

end

/-! ## The statement -/

/-- Settles O14: the sequencer clauses are the branches of the two effects behind the gate of FAB, and the bound of the arbiters is
what one grant leaves of each context's debt. -/
theorem sequencersGrantAndYield : Obligations.SequencersGrantAndYield := by
  unfold Obligations.SequencersGrantAndYield
  refine ⟨?granted, ?goesOn, ?yields, ?bounded⟩
  case granted =>
    intro s id c runs has waits free best
    rw [exec_sequencerGrant_served runs has waits free best]
    rfl
  case goesOn =>
    intro s id c runs has ends alone
    exact exec_strideBoundary_unrivalled runs has ends alone
  case yields =>
    intro s id c w runs has ends rival even
    exact exec_strideBoundary_yields runs has ends rival even
  case bounded =>
    intro f a reqs r _ small before c hc
    obtain ⟨owed, notDue⟩ := before c hc
    exact owedAt_serve_le_weightSum small hc owed notDue

end Sys2Proof.Machine

/-! SUPPORT. The gates of commands: which domain gates each command, what `PORST_N` holds, and what the gate of a register write lets
through; then the statements about the step, the resets and the gates. -/

namespace Sys2Proof.Machine

/-! ## The domain that gates a command (R462, R472) -/

theorem simtDom_ne_aon (s : State) (launch team : Nat) : simtDom s launch team ≠ .aon := by
  unfold simtDom
  split
  · split <;> nofun
  · nofun

theorem job_aon (id op : Nat) (s : State) (g : Job → State × Ans) : ∃ f, job id op s g = live .aon s f := ⟨_, rfl⟩
theorem quiesceJob_aon (id a : Nat) (s : State) (g : State → State × Ans) : ∃ f, quiesceJob id a s g = live .aon s f :=
  ⟨_, rfl⟩

/-- A command of no reset pin on AON is behind AON's gate. -/
theorem exec_gated_aon {c : Instr} (aon : onAon c = true) (pin : isPinReset c = false) (s : State) :
    ∃ f, exec c s = live .aon s f := by
  cases c
  case porstAssert | porstDeassert | perstAssert | perstDeassert => cases pin
  all_goals cases aon
  all_goals dsimp only [exec]
  all_goals first
    | exact ⟨_, rfl⟩
    | exact job_aon _ _ _ _
    | exact quiesceJob_aon _ _ _ _

/-- A command of another domain than AON is behind the gate of that domain. -/
theorem exec_gated_off_aon {c : Instr} (aon : onAon c = false) (s : State) :
    ∃ d f, d ≠ .aon ∧ exec c s = live d s f := by
  cases c
  all_goals cases aon
  all_goals dsimp only [exec]
  all_goals first
    | exact ⟨_, _, Dom.noConfusion, rfl⟩
    | exact ⟨_, _, simtDom_ne_aon s _ _, rfl⟩

/-- A command of the reset pins always answers a next state. -/
theorem exec_pinReset_completes {c : Instr} (pin : isPinReset c = true) (s : State) : Completes (exec c s) := by
  cases c
  case porstAssert | porstDeassert | perstAssert | perstDeassert => exact ⟨_, rfl⟩
  all_goals cases pin

theorem live_completes {d : Dom} {s : State} (ok : s.pwr.refLoss = false ∨ d = .aon) (f : State → State) :
    Completes (live d s f) := by
  rcases live_cases d s f with ⟨lost, off, -⟩ | ⟨-, h⟩ | ⟨-, h⟩
  · rcases ok with ok | rfl
    · exact absurd (ok.symm.trans lost) Bool.noConfusion
    · exact absurd rfl off
  · exact ⟨_, h⟩
  · exact ⟨_, h⟩

/-- Settles O6: a command off AON is stopped by its domain's gate, one on AON passes AON's gate or is a pin's. -/
theorem lostReferenceStopsTheOtherDomains : Obligations.LostReferenceStopsTheOtherDomains := by
  unfold Obligations.LostReferenceStopsTheOtherDomains
  intro s c lost
  constructor
  · intro aon
    obtain ⟨d, f, off, h⟩ := exec_gated_off_aon aon s
    rw [h, live_lost f lost off]
  · intro aon
    cases pin : isPinReset c with
    | true => exact exec_pinReset_completes pin s
    | false =>
      obtain ⟨f, h⟩ := exec_gated_aon aon pin s
      exact h ▸ live_completes (.inr rfl) f

/-- Settles O7: only the gate of a domain stops a command, and only where the reference is lost. -/
theorem noCommandStopsWithItsReference : Obligations.NoCommandStopsWithItsReference := by
  unfold Obligations.NoCommandStopsWithItsReference
  intro s c kept
  cases pin : isPinReset c with
  | true => exact exec_pinReset_completes pin s
  | false =>
    obtain ⟨d, f, h⟩ := exec_gated c s pin
    exact h ▸ live_completes (.inl kept) f

/-! ## The step, and the state under `PORST_N` (R465, R485) -/

/-- Settles O1: it is the step's second branch. -/
theorem stepRunsFrontCommand : Obligations.StepRunsFrontCommand := by
  unfold Obligations.StepRunsFrontCommand
  intro s c rest front
  rw [step, front]

theorem heldByPorst_porstAssertE (s : State) : HeldByPorst (porstAssertE s) := rfl

/-- Only the queue of a held state is free to move. -/
theorem HeldByPorst.setPending {s : State} (h : HeldByPorst s) (q : List Instr) : HeldByPorst { s with pending := q } := by
  rw [HeldByPorst] at h ⊢
  rw [h]

/-- The level of `PERST_N` is followed. -/
theorem HeldByPorst.setPerstLow {s : State} (h : HeldByPorst s) (b : Bool) :
    HeldByPorst { s with pwr := { s.pwr with perstLow := b } } := by
  rw [HeldByPorst] at h ⊢
  rw [h]

theorem HeldByPorst.porstLow {s : State} (h : HeldByPorst s) : s.pwr.porstLow = true := by rw [h]; rfl
theorem HeldByPorst.dram {s : State} (h : HeldByPorst s) : s.dram = [] := by rw [h]; rfl
theorem HeldByPorst.devtime {s : State} (h : HeldByPorst s) : s.devtime = 0 := by rw [h]; rfl
theorem HeldByPorst.refLoss {s : State} (h : HeldByPorst s) : s.pwr.refLoss = false := by rw [h]; rfl

/-- No domain is up while `PORST_N` is asserted. -/
theorem HeldByPorst.up {s : State} (h : HeldByPorst s) (d : Dom) : up s d = false := by
  rw [h]
  cases d <;> simp [Machine.up, State.reset]

theorem perstAssertE_of_porstLow {s : State} (low : s.pwr.porstLow = true) :
    perstAssertE s = { s with pwr := { s.pwr with perstLow := true } } := by
  unfold perstAssertE
  split
  · rename_i already
    rw [← already]
  · exact if_pos low

theorem perstDeassertE_of_porstLow {s : State} (low : s.pwr.porstLow = true) :
    perstDeassertE s = { s with pwr := { s.pwr with perstLow := false } } := by
  unfold perstDeassertE
  split
  · rename_i already
    rw [← (Bool.not_eq_true' _).mp already]
  · exact if_pos low

/-- Under `PORST_N` a command that does not release it keeps the block held, with its queue. -/
theorem HeldByPorst.exec {s t : State} (h : HeldByPorst s) {c : Instr} (hc : c ≠ .porstDeassert) (e : exec c s = .next t) :
    HeldByPorst t ∧ t.pending = s.pending := by
  cases pin : isPinReset c with
  | false =>
    obtain ⟨d, f, hd⟩ := exec_gated c s pin
    rw [hd, live_off f h.refLoss (h.up d)] at e
    cases e
    exact ⟨h, rfl⟩
  | true =>
    cases c
    case porstDeassert => exact absurd rfl hc
    case porstAssert =>
      cases e
      exact ⟨heldByPorst_porstAssertE s, rfl⟩
    case perstAssert =>
      cases e
      rw [perstAssertE_of_porstLow h.porstLow]
      exact ⟨h.setPerstLow true, rfl⟩
    case perstDeassert =>
      cases e
      rw [perstDeassertE_of_porstLow h.porstLow]
      exact ⟨h.setPerstLow false, rfl⟩
    all_goals cases pin

/-- An edge of `ACLK` under `PORST_N` changes nothing. -/
theorem aclkTick_of_porstLow {s : State} (low : s.pwr.porstLow = true) : aclkTick s = s := if_pos low

/-- Settles O4: a step is an edge, which `PORST_N` holds still, or the front command, which keeps the block held. -/
theorem porstHoldsTheResetState : Obligations.PorstHoldsTheResetState := by
  unfold Obligations.PorstHoldsTheResetState
  intro s t h keeps e
  have held : HeldByPorst t ∧ ∀ c ∈ t.pending, c ∈ s.pending := by
    cases front : s.pending with
    | nil =>
      rw [step, front] at e
      cases e
      rw [aclkTick_of_porstLow h.porstLow]
      exact ⟨h, by simp [front]⟩
    | cons c rest =>
      rw [stepRunsFrontCommand s c rest front] at e
      obtain ⟨ht, pend⟩ := (h.setPending rest).exec (keeps c (by simp [front])) e
      exact ⟨ht, by rw [pend]; exact fun x hx => List.mem_cons_of_mem c hx⟩
  obtain ⟨ht, sub⟩ := held
  exact ⟨ht, fun c hc => keeps c (sub c hc), ht.dram, ht.devtime⟩

/-- Settles O5: the reset state is the one that an assertion of `PORST_N` makes of it. -/
theorem resetStateIsHeldByPorst : Obligations.ResetStateIsHeldByPorst :=
  ⟨heldByPorst_porstAssertE State.reset, fun _ h => absurd h List.not_mem_nil⟩

/-- Settles O3: the fields of the reset state, and what the assertion of `PORST_N` puts back to it. -/
theorem resetStateIsOffAndReached : Obligations.ResetStateIsOffAndReached := by
  unfold Obligations.ResetStateIsOffAndReached
  constructor
  · exact ⟨⟨rfl, rfl, rfl, rfl⟩, rfl, rfl, rfl, rfl, rfl, fun _ => rfl, fun _ => rfl⟩
  · intro s
    exact ⟨porstAssertE s, rfl, heldByPorst_porstAssertE s, rfl, rfl, rfl, rfl, rfl, rfl, rfl, rfl⟩

/-! ## The gate of register writes (R444, R495, R496, R507) -/

/-- A command that writes one register passes the gate of CTLAP writes. -/
theorem exec_regRow {c : Instr} {off : Nat} {be : BitVec 4} (row : regRow c = some (off, be)) (s : State) :
    ∃ f, exec c s = ctlWrite off be s f := by
  cases c
  all_goals cases row
  all_goals exact ⟨_, rfl⟩

section
variable {off : Nat} {be : BitVec 4} {s : State} (f : State → State)

/-- A write that does not reach the block, has no byte enabled, waits at the flit port, or comes in the safe state to a register that
takes none then, has no effect. -/
theorem ctlWord_dropped (h : ctlReach s = false ∨ be = 0#4 ∨ portHeld s = true ∨ (s.flt.safe = true ∧ safeWritable off = false)) :
    ctlWord off be f s = s := by
  unfold ctlWord
  rcases h with h | h | h | ⟨safe, ro⟩
  · simp [h]
  · simp [h]
  · simp [h]
  · simp [safe, ro]

variable (reach : ctlReach s = true) (free : portHeld s = false) (takes : s.flt.safe = false ∨ safeWritable off = true)
include reach free takes

/-- A write of some bytes of a register is counted with reason 1. -/
theorem ctlWord_partial (some_ : be ≠ 0#4) (part : be ≠ 0xF#4) : ctlWord off be f s = countAcc 1 off s := by
  have open_ : (s.flt.safe && !safeWritable off) = false := by rcases takes with h | h <;> simp [h]
  simp [ctlWord, reach, free, open_, some_, part]

/-- A write of a register that a reset holds is counted with reason 4. -/
theorem ctlWord_held (held : heldInReset s off = true) : ctlWord off 0xF#4 f s = countAcc 4 off s := by
  have open_ : (s.flt.safe && !safeWritable off) = false := by rcases takes with h | h <;> simp [h]
  simp [ctlWord, reach, free, open_, held]

end

/-- A command behind a gate whose effect would be none changes nothing. -/
theorem live_unchanged {d : Dom} {s : State} {f : State → State} (kept : s.pwr.refLoss = false) (none_ : f s = s) :
    live d s f = .next s := by
  cases h : up s d with
  | true => rw [live_runs f ⟨kept, h⟩, none_]
  | false => exact live_off f kept h

/-- Settles O56: every command that writes one register passes the one gate, whose branches these are. -/
theorem registerWritesAreGated : Obligations.RegisterWritesAreGated := by
  unfold Obligations.RegisterWritesAreGated
  intro s c off be row kept
  obtain ⟨f, h⟩ := exec_regRow row s
  rw [h, ctlWrite]
  refine ⟨?downs, ?unreached, ?noBytes, ?waits, ?safe, ?part, ?held⟩
  case downs => exact fun h => live_off _ kept h
  case unreached => exact fun h => live_unchanged kept (ctlWord_dropped f (.inl h))
  case noBytes => exact fun h => live_unchanged kept (ctlWord_dropped f (.inr (.inl h)))
  case waits => exact fun h => live_unchanged kept (ctlWord_dropped f (.inr (.inr (.inl h))))
  case safe => exact fun safe ro => live_unchanged kept (ctlWord_dropped f (.inr (.inr (.inr ⟨safe, ro⟩))))
  case part =>
    intro runs reach free takes some_ part
    rw [live_runs _ ⟨kept, runs⟩, ctlWord_partial f reach free takes some_ part]
    rfl
  case held =>
    intro runs reach free takes full held
    rw [live_runs _ ⟨kept, runs⟩, full, ctlWord_held f reach free takes held]
    rfl

/-! ## What a result leaves (R207, R214) -/

/-- The threads of a list each get a value in one register: nothing but the table of registers changes. -/
theorem foldl_setReg (l : List Nat) (r : Nat) (f : Nat → W32) (g : Group) :
    l.foldl (fun g i => g.setReg i r (f i)) g =
      { g with regs := l.foldl (fun m i => fset 0 m (256 * i + r) (f i)) g.regs } := by
  induction l generalizing g with
  | nil => rfl
  | cons i l ih => rw [List.foldl_cons, ih, Group.setReg, List.foldl_cons]

/-- What a key reads as after a list of keys, distinct or not, has been set. -/
theorem fget_foldl_fset_key {α : Type} [DecidableEq α] (d : α) (key : Nat → Nat) (v : Nat → α) (l : List Nat) {m : FMap α}
    (wf : fwf (fun _ => d) m = true) {k : Nat} (i : Nat) (named : ∀ j, k = key j ↔ j = i ∧ k = key i) :
    fget d (l.foldl (fun m j => fset d m (key j) (v j)) m) k = if i ∈ l ∧ k = key i then v i else fget d m k := by
  induction l generalizing m with
  | nil => simp
  | cons j l ih =>
    rw [List.foldl_cons, ih (fset_wf (fun _ => d) (key j) (v j) m wf)]
    by_cases here : k = key j
    · obtain ⟨rfl, hk⟩ := (named j).mp here
      rw [hk, fget_fset_same d (v j) (key j) m wf]
      simp
    · have other : ¬(i = j ∧ k = key i) := fun h => here (h.1 ▸ h.2)
      rw [fget_fset_other d d (v j) (key j) k here m]
      by_cases hk : k = key i
      · have : i ≠ j := fun e => other ⟨e, hk⟩
        simp [this]
      · simp [hk]

theorem reg_foldl_setReg (l : List Nat) {r n : Nat} (f : Nat → W32) {g : Group} (wf : fwf (fun _ => (0 : W32)) g.regs = true)
    (hr : r < 256) (hn : n < 256) (i : Nat) :
    (l.foldl (fun g i => g.setReg i r (f i)) g).reg i n = if i ∈ l ∧ n = r then f i else g.reg i n := by
  have key : 256 * i + n = 256 * i + r ↔ n = r := by omega
  rw [foldl_setReg, Group.reg, Group.reg]
  exact (fget_foldl_fset_key 0 (fun i => 256 * i + r) f l wf i (by intro j; omega)).trans (by simp only [key])

theorem pc_goto (l : List Nat) (pc : Nat) {g : Group} (wf : fwf (fun _ => g.pc0) g.pcs = true) (i : Nat) :
    (g.goto l pc).pc i = if i ∈ l then pc else g.pc i := by
  rw [Group.pc, Group.pc, Group.goto]
  exact (fget_foldl_fset_key g.pc0 id (fun _ => pc) l wf i (by simp [eq_comm])).trans (by simp)

/-- Settles O19: the write of the results touches the registers alone, the step to the next word the program counters alone. -/
theorem resultsGoToVdAlone : Obligations.ResultsGoToVdAlone := by
  unfold Obligations.ResultsGoToVdAlone
  intro p f g regs pcs rd
  refine ⟨fun i n hn => reg_foldl_setReg p.act f regs rd hn i, fun i => ?_, ?_⟩
  · rw [foldl_setReg]
    exact pc_goto p.lanes _ pcs i
  · rw [foldl_setReg]
    exact ⟨rfl, rfl, rfl, rfl, rfl⟩

end Sys2Proof.Machine

/-! SUPPORT. The values of the integer, logic, compare, move, fixed-point and block-scale instructions (R214 to R217, R219), and the
statements about them. -/

namespace Sys2Proof.Machine

/-! ## Signed and unsigned order as integers -/

theorem ite_sle_eq_min (a b : W32) : (if a.sle b then a else b) = BitVec.ofInt 32 (min a.toInt b.toInt) := by
  by_cases h : a.toInt ≤ b.toInt
  · rw [if_pos (BitVec.sle_iff_toInt_le.mpr h), Int.min_eq_left h, BitVec.ofInt_toInt]
  · rw [if_neg (mt BitVec.sle_iff_toInt_le.mp h), Int.min_eq_right (by omega), BitVec.ofInt_toInt]

theorem ite_sle_eq_max (a b : W32) : (if a.sle b then b else a) = BitVec.ofInt 32 (max a.toInt b.toInt) := by
  by_cases h : a.toInt ≤ b.toInt
  · rw [if_pos (BitVec.sle_iff_toInt_le.mpr h), Int.max_eq_right h, BitVec.ofInt_toInt]
  · rw [if_neg (mt BitVec.sle_iff_toInt_le.mp h), Int.max_eq_left (by omega), BitVec.ofInt_toInt]

theorem ite_le_eq_min (a b : W32) : (if a ≤ b then a else b) = BitVec.ofNat 32 (min a.toNat b.toNat) := by
  by_cases h : a.toNat ≤ b.toNat
  · rw [if_pos (BitVec.le_def.mpr h), Nat.min_eq_left h, BitVec.ofNat_toNat, BitVec.setWidth_eq]
  · rw [if_neg (mt BitVec.le_def.mp h), Nat.min_eq_right (by omega), BitVec.ofNat_toNat, BitVec.setWidth_eq]

theorem ite_le_eq_max (a b : W32) : (if a ≤ b then b else a) = BitVec.ofNat 32 (max a.toNat b.toNat) := by
  by_cases h : a.toNat ≤ b.toNat
  · rw [if_pos (BitVec.le_def.mpr h), Nat.max_eq_right h, BitVec.ofNat_toNat, BitVec.setWidth_eq]
  · rw [if_neg (mt BitVec.le_def.mp h), Nat.max_eq_left (by omega), BitVec.ofNat_toNat, BitVec.setWidth_eq]

theorem ite_slt_zero_eq_natAbs (a : W32) : (if a.slt 0 then -a else a) = BitVec.ofInt 32 (a.toInt.natAbs : Int) := by
  by_cases h : a.toInt < 0
  · rw [if_pos (BitVec.slt_iff_toInt_lt.mpr h), Int.ofNat_natAbs_of_nonpos (by omega), BitVec.ofInt_neg, BitVec.ofInt_toInt]
  · rw [if_neg (mt BitVec.slt_iff_toInt_lt.mp h), Int.natAbs_of_nonneg (by omega), BitVec.ofInt_toInt]

/-- Settles O15: each instruction is an `alu` form, whose value is the statement's by the order lemmas above. -/
theorem integerAndSaturatingArithmetic : Obligations.IntegerAndSaturatingArithmetic := by
  unfold Obligations.IntegerAndSaturatingArithmetic
  refine ⟨fun s x p => ⟨simt_issues _, simt_issues _, fun h => ?mul, simt_issues _, simt_issues _, simt_issues _, fun h => ?neg,
    fun h => ?abs⟩, fun s x p => ⟨fun h => ?min, fun h => ?max, fun h => ?minu, fun h => ?maxu, simt_issues _, simt_issues _⟩⟩
  case mul =>
    simp only [BitVec.ofInt_mul, BitVec.ofInt_toInt]
    exact simt_issues _ h
  case neg =>
    simp only [BitVec.ofInt_neg, BitVec.ofInt_toInt]
    exact simt_issues _ h
  case abs =>
    simp only [← ite_slt_zero_eq_natAbs]
    exact simt_issues _ h
  case min =>
    simp only [← ite_sle_eq_min]
    exact simt_issues _ h
  case max =>
    simp only [← ite_sle_eq_max]
    exact simt_issues _ h
  case minu =>
    simp only [← ite_le_eq_min]
    exact simt_issues _ h
  case maxu =>
    simp only [← ite_le_eq_max]
    exact simt_issues _ h
/-! ## Shifts and bit fields (R214, R215) -/

/-- A shift answers its function's value for amounts below 32, and one free value a thread is used up. -/
theorem shift_issues {s : State} {opc : Nat} {x : Issue} {p : Path} (op : W32 → Nat → W32) (h : Issues s opc x p) :
    ∃ f : Nat → W32, (∀ i, (p.b i).toNat < 32 → f i = op (p.a i) (p.b i).toNat) ∧
      shift opc x s op = .next (writeRd p f { clocked p s with freeCtr := s.freeCtr + 32 }) :=
  ⟨fun i => if (p.b i).toNat < 32 then op (p.a i) (p.b i).toNat else freeLane (clocked p s) i, fun _ lt => if_pos lt,
    simt_issues _ h⟩

theorem fextOf_getLsbD (a b : W32) {m k : Nat} (hm : m < 32) (hk : k < 32) :
    (fextOf a b m).getLsbD k = (decide (k ≤ m) && a.getLsbD (b.toNat % 32 + k)) := by
  have zeroExt : ¬m / 32 = 1 := by omega
  have width : m % 32 = m := Nat.mod_eq_of_lt hm
  simp only [fextOf, zeroExt, if_false, width, BitVec.getLsbD_ofNat, Nat.testBit_mod_two_pow, Nat.testBit_div_two_pow, hk,
    decide_true, Bool.true_and, Nat.lt_succ_iff]
  rw [Nat.add_comm k, BitVec.testBit_toNat]

/-- The mask of a field: `n` ones from bit `at_` on. -/
theorem testBit_fieldMask (n at_ k : Nat) : ((2 ^ n - 1) * 2 ^ at_).testBit k = (decide (at_ ≤ k) && decide (k - at_ < n)) := by
  rw [Nat.testBit_mul_two_pow, Nat.testBit_two_pow_sub_one]

theorem finsOf_getLsbD (a b c : W32) (m : Nat) {k : Nat} (hk : k < 32) :
    (finsOf a b c m).getLsbD k =
      if b.toNat % 32 ≤ k ∧ k ≤ b.toNat % 32 + m % 32 then a.getLsbD (k - b.toNat % 32) else c.getLsbD k := by
  simp only [finsOf, BitVec.getLsbD_or, BitVec.getLsbD_and, BitVec.getLsbD_not, BitVec.getLsbD_shiftLeft, BitVec.getLsbD_ofNat,
    testBit_fieldMask, hk, decide_true, Bool.true_and]
  by_cases above : b.toNat % 32 ≤ k
  · by_cases within : k ≤ b.toNat % 32 + m % 32
    · have inField : k - b.toNat % 32 < m % 32 + 1 := by omega
      have notBelow : ¬k < b.toNat % 32 := by omega
      simp [above, within, inField, notBelow]
    · have outField : ¬k - b.toNat % 32 < m % 32 + 1 := by omega
      simp [within, outField]
  · simp [above]

theorem finsOf_mod (a b c : W32) (m : Nat) : finsOf a b c m = finsOf a b c (m % 32) := by
  rw [finsOf, finsOf, Nat.mod_mod]

/-- The bytes that the selectors 0 to 3, 4 to 7, and the zero selectors name. -/
theorem byselOf_selectors (a b : W32) : byselOf a b 0x3210#32 = a ∧ byselOf a b 0x7654#32 = b ∧ byselOf a b 0x8888#32 = 0 := by
  have ha : a.toNat < 2 ^ 32 := a.isLt
  have hb : b.toNat < 2 ^ 32 := b.isLt
  refine ⟨BitVec.eq_of_toNat_eq ?_, BitVec.eq_of_toNat_eq ?_, BitVec.eq_of_toNat_eq ?_⟩
  · simp [byselOf, fld, bits, leNat, List.range_succ]
    omega
  · simp [byselOf, fld, bits, leNat, List.range_succ]
    omega
  · simp [byselOf, fld, bits, leNat, List.range_succ]

/-- Settles O16: the `alu` forms, the three shifts with their free values, and the fields bit by bit. -/
theorem logicShiftsAndBitFields : Obligations.LogicShiftsAndBitFields := by
  unfold Obligations.LogicShiftsAndBitFields
  refine ⟨fun s x p => ⟨simt_issues _, simt_issues _, simt_issues _, simt_issues _, simt_issues _, simt_issues _, simt_issues _,
      simt_issues _, simt_issues _, simt_issues _, simt_issues _⟩,
    fun s x p => ⟨shift_issues _, shift_issues _, shift_issues _⟩,
    fun a b m k => fextOf_getLsbD a b, fun a b c m k hk => ⟨finsOf_mod a b c m, finsOf_getLsbD a b c m hk⟩, byselOf_selectors⟩

/-! ## Compare and move (R215, R219) -/

theorem decide_toInt_lt (a b : W32) : decide (a.toInt < b.toInt) = a.slt b := (BitVec.slt_eq_decide).symm

/-- Less or equal, as the comparison of R215 forms it from less and equal. -/
theorem slt_or_eq (a b : W32) : (a.slt b || decide (a = b)) = a.sle b := by
  rw [BitVec.slt_eq_decide, BitVec.sle_eq_decide, ← Bool.decide_or, decide_eq_decide, ← BitVec.toInt_inj]
  omega

theorem ult_or_eq (a b : W32) : (a.ult b || decide (a = b)) = a.ule b := by
  rw [BitVec.ult_eq_decide, BitVec.ule_eq_decide, ← Bool.decide_or, decide_eq_decide, ← BitVec.toNat_inj]
  omega

/-- The comparisons of R215 by their codes. -/
theorem compareOf_codes (a b : W32) : compareOf 0 a b = decide (a = b) ∧ compareOf 1 a b = decide (a ≠ b)
    ∧ compareOf 2 a b = a.slt b ∧ compareOf 3 a b = a.sle b ∧ compareOf 4 a b = b.slt a ∧ compareOf 5 a b = b.sle a
    ∧ compareOf 10 a b = a.ult b ∧ compareOf 11 a b = a.ule b ∧ compareOf 12 a b = b.ult a ∧ compareOf 13 a b = b.ule a := by
  have sle : a.sle b = !b.slt a := BitVec.sle_eq_not_slt
  have ule : a.ule b = !b.ult a := BitVec.ule_eq_not_ult a b
  refine ⟨rfl, rfl, ?_, ?_, ?_, ?_, ?_, ?_, ?_, ?_⟩
  · exact decide_toInt_lt a b
  · exact (congrArg (· || decide (a = b)) (decide_toInt_lt a b)).trans (slt_or_eq a b)
  · exact (congrArg (fun l => !(l || decide (a = b))) (decide_toInt_lt a b)).trans (by rw [slt_or_eq, sle, Bool.not_not])
  · exact (congrArg (!·) (decide_toInt_lt a b)).trans BitVec.sle_eq_not_slt.symm
  · rfl
  · exact ult_or_eq a b
  · exact (congrArg (!·) (ult_or_eq a b)).trans (by rw [ule, Bool.not_not])
  · exact (BitVec.ule_eq_not_ult b a).symm

/-- A sum of distinct powers of two has just the bits that it names. -/
theorem sumOf_two_pow_lt (q : Nat → Bool) (n : Nat) : sumOf ((List.range n).map fun k => if q k then 2 ^ k else 0) < 2 ^ n := by
  induction n with
  | zero => exact Nat.one_pos
  | succ n ih =>
    simp only [sumOf, List.range_succ, List.map_append, List.foldl_append, List.map_cons, List.map_nil, List.foldl_cons,
      List.foldl_nil] at ih ⊢
    rw [Nat.pow_succ]
    split <;> omega

theorem testBit_sumOf_two_pow (q : Nat → Bool) (n k : Nat) :
    (sumOf ((List.range n).map fun k => if q k then 2 ^ k else 0)).testBit k = (decide (k < n) && q k) := by
  induction n with
  | zero => simp [sumOf]
  | succ n ih =>
    have below := sumOf_two_pow_lt q n
    have step : sumOf ((List.range (n + 1)).map fun k => if q k then 2 ^ k else 0) =
        2 ^ n * (q n).toNat + sumOf ((List.range n).map fun k => if q k then 2 ^ k else 0) := by
      simp only [sumOf, List.range_succ, List.map_append, List.foldl_append, List.map_cons, List.map_nil, List.foldl_cons,
        List.foldl_nil]
      cases q n <;> simp [Nat.add_comm]
    rw [step, Nat.testBit_two_pow_mul_add _ below, ih]
    by_cases lt : k < n
    · simp [lt, Nat.lt_succ_of_lt lt]
    · by_cases eq : k = n
      · subst eq
        cases q k <;> simp
      · have gt : ¬k < n + 1 := by omega
        have high : (q n).toNat < 2 ^ (k - n) := Nat.lt_of_le_of_lt (Bool.toNat_le _) (Nat.one_lt_two_pow (by omega))
        simp [lt, gt, Nat.testBit_lt_two_pow high]

/-- Settles O17: each instruction by its issue, P2V's word by its bits, and the comparisons by their codes. -/
theorem compareSelectAndMove : Obligations.CompareSelectAndMove := by
  unfold Obligations.CompareSelectAndMove
  refine ⟨fun s x p => ⟨simt_issues _, simt_issues _, simt_issues _, fun h => ⟨_, fun i k => ?bits, simt_issues _ h⟩, simt_issues _,
    simt_issues _⟩, compareOf_codes⟩
  case bits =>
    rw [BitVec.getLsbD_ofNat, testBit_sumOf_two_pow]
    by_cases lt : k < 8
    · simp [lt, Nat.lt_trans lt (by decide : 8 < 32)]
    · simp [lt]

/-! ## Fixed point and block scale (R216, R217) -/

/-- Settles O18: the `alu` forms, SATN by its clamp, and BUNP and BPK with a free value for an element beyond the word. -/
theorem fixedPointAndBlockScale : Obligations.FixedPointAndBlockScale := by
  unfold Obligations.FixedPointAndBlockScale
  refine ⟨fun s x p => ⟨simt_issues _, simt_issues _, simt_issues _, simt_issues _, fun h _ => simt_issues _ h⟩,
    fun s x p => ⟨fun h => ⟨_, fun i inside => if_pos inside, simt_issues _ h⟩,
      fun h => ⟨_, fun i inside => if_pos inside, simt_issues _ h⟩, simt_issues _, simt_issues _, simt_issues _, simt_issues _,
      simt_issues _, simt_issues _, simt_issues _⟩⟩

end Sys2Proof.Machine

/-! SUPPORT. Group collectives, TLI, control and barriers (R210, R211, R214 to R219, R236), and the statements about them. -/

namespace Sys2Proof.Machine

/-! ## Results that agree on the executing threads -/

theorem foldl_setReg_congr {l : List Nat} {f g : Nat → W32} (same : ∀ i ∈ l, f i = g i) (r : Nat) (h : Group) :
    l.foldl (fun h i => h.setReg i r (f i)) h = l.foldl (fun h i => h.setReg i r (g i)) h := by
  induction l generalizing h with
  | nil => rfl
  | cons i l ih =>
    rw [List.foldl_cons, List.foldl_cons, same i List.mem_cons_self]
    exact ih (fun j hj => same j (List.mem_cons_of_mem i hj)) _

theorem writeRd_congr {p : Path} {f g : Nat → W32} (same : ∀ i ∈ p.act, f i = g i) (s : State) : writeRd p f s = writeRd p g s := by
  simp only [writeRd, foldl_setReg_congr same]

/-! ## Collectives (R211, R215) -/

/-- A collective whose named threads have all come gives its result to every executing thread. -/
theorem collective_met {s : State} {opc : Nat} {x : Issue} {p : Path} (f : Path → Nat → W32) (met : ∀ i ∈ p.act, metAll p i = true)
    (h : Issues s opc x p) : collective opc x s f = .next (writeRd p (f p) (clocked p s)) := by
  have stay : (p.act.filter fun i => !metAll p i) = [] := by simpa [List.filter_eq_nil_iff] using met
  have all (l : List Nat) : (l.filter fun _ => true) = l := List.filter_eq_self.mpr fun _ _ => rfl
  rw [collective, simt_issues _ h]
  simp only [stay, List.flatMap_nil, List.append_nil, List.contains_nil, Bool.not_false, Bool.and_true, Bool.or_not_self, all,
    if_true]
  rfl

/-- A collective none of whose threads has all that it names waits at its word. -/
theorem collective_unmet {s : State} {opc : Nat} {x : Issue} {p : Path} (f : Path → Nat → W32)
    (unmet : ∀ i ∈ p.act, metAll p i = false) (all : p.act = p.lanes) (h : Issues s opc x p) :
    collective opc x s f = .next (onGroup p (fun g => { g with wait := .coll }) (clocked p s)) := by
  have some_ : p.act ≠ [] := h.2.2.2.2
  have stay : (p.act.filter fun i => !metAll p i) = p.act := List.filter_eq_self.mpr fun i hi => by simp [unmet i hi]
  have go : (p.act.filter fun i => !p.act.contains i) = [] := by simp [List.filter_eq_nil_iff]
  have move : (p.lanes.filter fun i => !p.act.contains i && !(p.act ++ p.act.flatMap (members p)).contains i) = [] := by
    simp +contextual [List.filter_eq_nil_iff, ← all]
  rw [collective, simt_issues _ h]
  simp only [stay, go, List.contains_nil, Bool.false_or, move, some_, if_false, List.foldl_nil]
  rfl

/-! ## TLI (R218, R223) -/

section
variable {s : State} {x : Issue} {p : Path} (h : Issues s 0x60 x p)
include h

/-- With every table inside and sound, each executing thread takes its value. -/
theorem exec_tli_values {f : Nat → W32}
    (values : ∀ i ∈ p.act, tliOf (clocked p s) p.l p.t.core (p.a i) (p.b i) = .val (f i)) :
    exec (.tli x) s = .next (writeRd p (fun i => if i ∈ p.act then f i else 0) (clocked p s)) := by
  refine (simt_issues _ h).trans ?_
  dsimp only
  split
  next o found =>
    obtain ⟨i, hi, out⟩ := List.exists_of_findSome?_eq_some found
    simp [values i hi] at out
  next =>
    rw [if_neg]
    · exact congrArg _ (writeRd_congr (fun i hi => by simp [values i hi, hi]) _)
    · intro bad
      obtain ⟨i, hi, isBad⟩ := List.any_eq_true.mp bad
      simp [values i hi] at isBad

/-- A table outside the launch's allocations ends the launch. -/
theorem exec_tli_outside {i o : Nat} (one : p.act = [i])
    (outside : tliOf (clocked p s) p.l p.t.core (p.a i) (p.b i) = .out o) :
    exec (.tli x) s = .next (pathFault p 0x06 (some p.pc) (o % 2 ^ 19) (clocked p s)) := by
  refine (simt_issues _ h).trans ?_
  simp only [one, List.findSome?_cons, outside]

end

/-- Settles O20: the collectives by who has come, TLI by its tables. -/
theorem collectivesAndInterpolation : Obligations.CollectivesAndInterpolation := by
  unfold Obligations.CollectivesAndInterpolation
  refine ⟨fun s x p => ⟨fun met => ⟨collective_met _ met, collective_met _ met, collective_met _ met, collective_met _ met,
      collective_met _ met, collective_met _ met⟩, fun h unmet all => collective_unmet _ unmet all h⟩,
    fun s x p => ⟨fun h f values => exec_tli_values h values, fun h i o one outside => exec_tli_outside h one outside⟩⟩

/-! ## Control (R210, R211, R219, R223) -/

section
variable {s : State} {x : Issue} {p : Path}

theorem exec_call_room (h : Issues s 0x03 x p) (room : ∀ i ∈ p.act, (fget [] p.g.callStacks i).length < 16) :
    exec (.call x) s = .next (onGroup p (fun g => { (g.next p).goto p.act (braTarget p) with
      callStacks := p.act.foldl (fun m i => fset [] m i (((p.pc + 8) % 2 ^ 52) :: fget [] m i)) g.callStacks }) (clocked p s)) := by
  refine (simt_issues _ h).trans (congrArg _ (if_neg ?_))
  simpa using room

theorem exec_call_full (h : Issues s 0x03 x p) (full : ∃ i ∈ p.act, 16 ≤ (fget [] p.g.callStacks i).length) :
    exec (.call x) s = .next (pathFault p 0x06 (some p.pc) 0 (clocked p s)) := by
  refine (simt_issues _ h).trans (congrArg _ (if_pos ?_))
  simpa using full

theorem exec_ret_called (h : Issues s 0x04 x p) (called : ∀ i ∈ p.act, fget [] p.g.callStacks i ≠ []) :
    exec (.ret x) s = .next (onGroup p (fun g =>
      let h := p.act.foldl (fun g i => g.goto [i] ((fget [] p.g.callStacks i).headD 0)) (g.next p)
      { h with callStacks := p.act.foldl (fun m i => fset [] m i (fget [] m i).tail) h.callStacks }) (clocked p s)) := by
  refine (simt_issues _ h).trans (congrArg _ (if_neg ?_))
  simpa using called

theorem exec_ret_empty (h : Issues s 0x04 x p) (empty : ∃ i ∈ p.act, fget [] p.g.callStacks i = []) :
    exec (.ret x) s = .next (pathFault p 0x06 (some p.pc) 0 (clocked p s)) := by
  refine (simt_issues _ h).trans (congrArg _ (if_pos ?_))
  simpa using empty

/-- The first threads of a group to come to GSYNC, each naming itself, wait for the others that they name. -/
theorem exec_gsync_first (h : Issues s 0x09 x p) (named : ∀ i ∈ p.act, (p.c i).getLsbD i = true) :
    ∃ f : Group → Group, (∀ g : Group, g.gs = [] →
        f g = ({ (g.next p).goto p.act p.pc with gs := p.act.map fun i => (i, p.c i &&& ~~~(laneMask p.act)) }).releaseGs) ∧
      exec (.gsync x) s = .next (onGroup p f (clocked p s)) := by
  have wait : (p.act.filter fun i => (p.c i).getLsbD i) = p.act := List.filter_eq_self.mpr named
  refine ⟨_, fun g none_ => ?_, simt_issues _ h⟩
  have here : laneMask [] ||| laneMask p.act = laneMask p.act := BitVec.zero_or
  simp only [none_, wait, List.map_nil, List.nil_append, here]

end

/-- Settles O21: each instruction by its issue; CALL, RET and GSYNC by the state of their threads. -/
theorem controlAndBarriers : Obligations.ControlAndBarriers := by
  unfold Obligations.ControlAndBarriers
  exact ⟨fun s x p => ⟨simt_issues _, simt_issues _, simt_issues _, exec_call_room, exec_call_full, exec_ret_called,
      exec_ret_empty, simt_issues _, simt_issues _⟩,
    fun s x p => ⟨simt_issues _, simt_issues _, fun h named _ => exec_gsync_first h named⟩⟩

end Sys2Proof.Machine

/-! SUPPORT. SIMT accesses to memory (R212, R213, R228 to R240, R287, R288, R315), waits and work items (R203, R205, R209): the
effect of each row under the conditions of its rule, and the statements about them. -/

namespace Sys2Proof.Machine

/-! ## Local store (R213, R223) -/

section
variable {s : State} {x : Issue} {p : Path}

theorem exec_lds_inside (h : Issues s 0x90 x p) (inside : lsOut p (accBytes (wMod p.w)) = none)
    (sound : lsBadRead (clocked p s) p (accBytes (wMod p.w)) = false) :
    exec (.lds x) s = .next (onGroup p (fun g => (p.act.foldl (fun g i =>
      g.putBytes i (wRd p.w) (lsRead s p.t.core (p.a i).toNat (accBytes (wMod p.w))) (freeLane s i)) g).next p)
      { clocked p s with freeCtr := s.freeCtr + 32 }) := by
  refine (simt_issues _ h).trans ?_
  simp only [inside, sound, Bool.false_eq_true, if_false, lsAccess, List.foldl_map]
  rfl

theorem exec_sts_inside (h : Issues s 0x91 x p) (inside : lsOut p (accBytes (wMod p.w)) = none) :
    exec (.sts x) s = .next (onGroup p (fun g => g.next p) (p.act.foldl (fun s i =>
      writeLs p.t.core (p.a i).toNat (p.g.regBytes i (wRb p.w) (accBytes (wMod p.w))) s) (clocked p s))) := by
  refine (simt_issues _ h).trans ?_
  simp only [inside, lsAccess, List.foldl_map]

theorem exec_sts_outside (h : Issues s 0x91 x p) {o : Nat} (outside : lsOut p (accBytes (wMod p.w)) = some o) :
    exec (.sts x) s = .next (pathFault p 0x06 (some p.pc) (o % 2 ^ 19) (clocked p s)) := by
  refine (simt_issues _ h).trans ?_
  simp only [outside]

theorem exec_ats_one (h : Issues s 0x92 x p) {i : Nat} (one : p.act = [i]) (inside : lsOut p (atomSize (wMod p.w)) = none)
    (sound : lsBadRead (clocked p s) p (atomSize (wMod p.w)) = false) :
    exec (.ats x) s = .next (onGroup p
      (fun _ => (p.g.putBytes i (wRd p.w) (lsRead s p.t.core (p.a i).toNat (atomSize (wMod p.w))) 0).next p)
      (writeLs p.t.core (p.a i).toNat (leBytes (atomSize (wMod p.w))
        (atomOp (wMod p.w % 8) (atomSize (wMod p.w)) (leNat (lsRead s p.t.core (p.a i).toNat (atomSize (wMod p.w))))
          (atomArgs p i).1 (atomArgs p i).2)) (clocked p s))) := by
  refine (simt_issues _ h).trans ?_
  simp only [inside, sound, Bool.false_eq_true, if_false, lsAccess, one, List.map_cons, List.map_nil, List.foldl_cons,
    List.foldl_nil]
  rfl

end

/-- Settles O32: each access by whether it lies inside the launch's allocations. -/
theorem localStoreAccesses : Obligations.LocalStoreAccesses := by
  unfold Obligations.LocalStoreAccesses
  intro s x p
  exact ⟨fun h inside sound _ => exec_lds_inside h inside sound, exec_sts_inside,
    fun i h one inside sound => exec_ats_one h one inside sound, fun o h outside => exec_sts_outside h outside⟩

/-! ## Translated accesses (R223, R230, R233, R314) -/

section
variable {p : Path} {s : State} {write : Bool} {n : Nat} (f : List Piece → State)

theorem withPlan_ok {ps : List Piece} (plan : planOf s p.l write (vaAccess p n) = .ok ps) : withPlan p write n s f = f ps := by
  simp only [withPlan, plan]

theorem withPlan_denied {va : Nat} (plan : planOf s p.l write (vaAccess p n) = .denied va) :
    withPlan p write n s f = pathFault p (if write then 0x03 else 0x02) (some va) p.pc s := by
  simp only [withPlan, plan]

end

/-- An access without release waits for no earlier store. -/
theorem afterRelease_relaxed {p : Path} (s : State) (f : State → State) (relaxed : wMod p.w / 64 < 2) : afterRelease p s f = f s :=
  if_neg (Nat.not_le.mpr relaxed)

/-- Pieces that the core has, and none of them poisoned, are loaded. -/
theorem loadPieces_ready {p : Path} {n : Nat} {ps : List Piece} {s : State} (resv : Bool)
    (has : ∀ l ∈ linesOf ps, pieceMask ps l &&& ~~~coreMask s p.t.core l = 0)
    (sound : ∀ y ∈ ps, piecePoison s p.t.core y = false) (wide : 4 ≤ n) :
    loadPieces p n resv ps s = onGroup p (fun g =>
        let g := (p.act.foldl (fun g i => g.putBytes i (wRd p.w) (laneBytes s p.t.core i ps) (freeLane s i)) g).next p
        if resv then g.reserve ps s.devtime else g)
      (modCore p.t.core (fun k => { k with ret := k.ret.filter fun r => !(linesOf ps).contains r.line }) s) := by
  have noLack : (((linesOf ps).map fun l => (l, pieceMask ps l &&& ~~~coreMask s p.t.core l)).filter fun x => x.2 ≠ 0) = [] := by
    simpa [List.filter_eq_nil_iff] using has
  have noPoison : ps.find? (piecePoison s p.t.core) = none := List.find?_eq_none.mpr fun y hy => by simp [sound y hy]
  have notNarrow : ¬n < 4 := Nat.not_lt.mpr wide
  simp only [loadPieces, noLack, noPoison, notNarrow, ne_eq, not_true, if_false]

/-- Pieces of threads without reservations store nothing: each thread gets 1. -/
theorem condStores_unreserved {p : Path} (n : Nat) {ps : List Piece} {s : State}
    (none_ : ∀ y ∈ ps, holdsResv s p y.lane (y.key / 128) = false) :
    condStores p n ps s = onGroup p (fun g => ((p.act.foldl (fun g i => g.setReg i (wRd p.w) 1) g).next p).endResv p.act) s := by
  have kept : ps.foldl (fun (a : State × List Nat) x =>
      if holdsResv a.1 p x.lane (x.key / 128) then
        (noteWrite p.l.id (homeStore p x.lane (x.key / 128) (pieceBytes x (p.g.regBytes x.lane (wRb p.w) n)) a.1), a.2 ++ [x.lane])
      else a) (s, []) = (s, []) := by
    induction ps with
    | nil => rfl
    | cons y ps ih =>
      rw [List.foldl_cons, if_neg (by simp [none_ y List.mem_cons_self])]
      exact ih fun z hz => none_ z (List.mem_cons_of_mem y hz)
  simp only [condStores, kept, List.contains_nil, Bool.false_eq_true, if_false]

section
variable {s : State} {x : Issue} {p : Path} {ps : List Piece}

theorem exec_ld_ready (h : Issues s 0x80 x p)
    (plan : planOf (clocked p s) p.l false (vaAccess p (accBytes (wMod p.w))) = .ok ps)
    (has : ∀ l ∈ linesOf ps, pieceMask ps l &&& ~~~coreMask (clocked p s) p.t.core l = 0)
    (sound : ∀ y ∈ ps, piecePoison (clocked p s) p.t.core y = false) (wide : 4 ≤ accBytes (wMod p.w)) :
    exec (.ld x) s = .next (onGroup p (fun g => (p.act.foldl (fun g i =>
        g.putBytes i (wRd p.w) (laneBytes (clocked p s) p.t.core i ps) (freeLane s i)) g).next p)
      (modCore p.t.core (fun k => { k with ret := k.ret.filter fun r => !(linesOf ps).contains r.line }) (clocked p s))) := by
  refine (simt_issues _ h).trans (congrArg _ ?_)
  rw [withPlan_ok _ plan, loadPieces_ready false has sound wide]
  rfl

theorem exec_ld_denied (h : Issues s 0x80 x p) {va : Nat}
    (plan : planOf (clocked p s) p.l false (vaAccess p (accBytes (wMod p.w))) = .denied va) :
    exec (.ld x) s = .next (pathFault p 0x02 (some va) p.pc (clocked p s)) := by
  refine (simt_issues _ h).trans (congrArg _ ?_)
  rw [withPlan_denied _ plan]
  rfl

theorem exec_ldr_ready (h : Issues s 0xA2 x p) (aligned : misaligned p (accBytes (wMod p.w)) = none)
    (plan : planOf (clocked p s) p.l false (vaAccess p (accBytes (wMod p.w))) = .ok ps)
    (quiet : storesTo (clocked p s) p.t.core (linesOf ps) = false)
    (has : ∀ l ∈ linesOf ps, pieceMask ps l &&& ~~~coreMask (clocked p s) p.t.core l = 0)
    (sound : ∀ y ∈ ps, piecePoison (clocked p s) p.t.core y = false) (wide : 4 ≤ accBytes (wMod p.w)) :
    exec (.ldr x) s = .next (onGroup p (fun g => ((p.act.foldl (fun g i =>
        g.putBytes i (wRd p.w) (laneBytes (clocked p s) p.t.core i ps) (freeLane s i)) g).next p).reserve ps s.devtime)
      (modCore p.t.core (fun k => { k with ret := k.ret.filter fun r => !(linesOf ps).contains r.line }) (clocked p s))) := by
  refine (simt_issues _ h).trans (congrArg _ ?_)
  simp only [aligned, withPlan_ok _ plan, quiet, Bool.false_eq_true, if_false]
  rw [loadPieces_ready true has sound wide]
  rfl

theorem exec_st_relaxed (h : Issues s 0x81 x p)
    (plan : planOf (clocked p s) p.l true (vaAccess p (accBytes (wMod p.w))) = .ok ps) (relaxed : wMod p.w / 64 < 2) :
    exec (.st x) s =
      .next (putStores p (storeEnts p ps fun i => p.g.regBytes i (wRb p.w) (accBytes (wMod p.w))) (clocked p s)) := by
  refine (simt_issues _ h).trans (congrArg _ ?_)
  rw [withPlan_ok _ plan, afterRelease_relaxed _ _ relaxed]

theorem exec_st_denied (h : Issues s 0x81 x p) {va : Nat}
    (plan : planOf (clocked p s) p.l true (vaAccess p (accBytes (wMod p.w))) = .denied va) :
    exec (.st x) s = .next (pathFault p 0x03 (some va) p.pc (clocked p s)) := by
  refine (simt_issues _ h).trans (congrArg _ ?_)
  rw [withPlan_denied _ plan]
  rfl

theorem exec_stc_unreserved (h : Issues s 0xA3 x p) (aligned : misaligned p (accBytes (wMod p.w)) = none)
    (relaxed : wMod p.w / 64 < 2) (plan : planOf (clocked p s) p.l true (vaAccess p (accBytes (wMod p.w))) = .ok ps)
    (none_ : ∀ y ∈ ps, holdsResv (clocked p s) p y.lane (y.key / 128) = false) :
    exec (.stc x) s = .next (onGroup p (fun g =>
      ((p.act.foldl (fun g i => g.setReg i (wRd p.w) 1) g).next p).endResv p.act) (clocked p s)) := by
  have noLines : (ps.filter fun x => holdsResv (clocked p s) p x.lane (x.key / 128)) = [] :=
    List.filter_eq_nil_iff.mpr fun y hy => by simp [none_ y hy]
  have noStores : storesTo (clocked p s) p.t.core (linesOf []) = false := by simp [storesTo, linesOf]
  refine (simt_issues _ h).trans (congrArg _ ?_)
  simp only [aligned, withPlan_ok _ plan, afterRelease_relaxed _ _ relaxed, noLines, noStores, Bool.false_eq_true, if_false]
  exact condStores_unreserved _ none_

theorem exec_stc_reserved (h : Issues s 0xA3 x p) {i : Nat} {y : Piece} {t : State} (one : p.act = [i])
    (aligned : misaligned p (accBytes (wMod p.w)) = none) (relaxed : wMod p.w / 64 < 2)
    (plan : planOf (clocked p s) p.l true (vaAccess p (accBytes (wMod p.w))) = .ok [y]) (lane : y.lane = i)
    (holds : holdsResv (clocked p s) p i (y.key / 128) = true) (oneLine : linesOf [y] = [y.key / 128])
    (quiet : storesTo (clocked p s) p.t.core [y.key / 128] = false)
    (ready : homeReady true p.t.core (y.key / 128) 0 (clocked p s) = (t, true))
    (still : holdsResv t p i (y.key / 128) = true) :
    exec (.stc x) s = .next (onGroup p (fun g => ((g.setReg i (wRd p.w) 0).next p).endResv [i])
      (noteWrite p.l.id (homeStore p i (y.key / 128)
        (pieceBytes y (p.g.regBytes i (wRb p.w) (accBytes (wMod p.w)))) t))) := by
  subst lane
  refine (simt_issues _ h).trans (congrArg _ ?_)
  simp only [aligned, withPlan_ok _ plan, afterRelease_relaxed _ _ relaxed, List.filter_cons, List.filter_nil, holds, if_true,
    oneLine, quiet, Bool.false_eq_true, if_false, List.foldl_cons, List.foldl_nil, ready, Bool.true_and, condStores, still, one,
    List.nil_append, List.contains_cons, beq_self_eq_true, Bool.true_or]

end

/-- Settles O33: loads and stores by their plan, conditional stores by the reservations. -/
theorem globalLoadsAndStores : Obligations.GlobalLoadsAndStores := by
  unfold Obligations.GlobalLoadsAndStores
  exact ⟨fun s x p ps => ⟨exec_ld_ready, exec_ldr_ready, fun va h bad => exec_ldr_misaligned h bad,
      fun va h plan => exec_ld_denied h plan⟩,
    fun s x p ps => ⟨exec_st_relaxed, fun va h plan => exec_st_denied h plan, exec_stc_unreserved,
      fun i y t h one aligned relaxed plan lane holds oneLine quiet ready still =>
        exec_stc_reserved h one aligned relaxed plan lane holds oneLine quiet ready still,
      fun va h bad => exec_stc_misaligned h bad⟩⟩

/-! ## Atomics (R287, R288, R315) -/

section
variable {p : Path} {s t : State} {ps : List Piece} (aligned : misaligned p (atomSize (wMod p.w)) = none)
include aligned

/-- An atomic that its grants allow, whose pages are translated and whose lines are ready, is performed. -/
theorem atomRow_ready (red : Bool)
    (grants : red = true ∨ ∀ a ∈ vaAccess p (atomSize (wMod p.w)), granted s p.l.ctx a.2.1 (atomSize (wMod p.w)) = true)
    (plan : planOf s p.l true (vaAccess p (atomSize (wMod p.w))) = .ok ps) (relaxed : wMod p.w / 64 < 2)
    (quiet : storesTo s p.t.core (linesOf ps) = false)
    (ready : (decideAtoms p red (linesOf ps) s).2.foldl (fun (a : State × Bool) d =>
      let y := atomReady p red ps d a.1
      (y.1, a.2 && y.2)) ((decideAtoms p red (linesOf ps) s).1, true) = (t, true)) :
    atomRow red p s = performAtoms p (decideAtoms p red (linesOf ps) s).2 (atomSize (wMod p.w)) (!red) ps t := by
  have allowed_ : (if red then none else
      (vaAccess p (atomSize (wMod p.w))).find? fun x => !granted s p.l.ctx x.2.1 (atomSize (wMod p.w))) = none := by
    rcases grants with rfl | grants
    · rfl
    · cases red
      · exact List.find?_eq_none.mpr fun a ha => by simp [grants a ha]
      · rfl
  simp only [atomRow, aligned, allowed_, withPlan_ok _ plan, afterRelease_relaxed _ _ relaxed, quiet, Bool.false_eq_true, if_false]
  dsimp only at ready
  rw [ready]
  rfl

theorem atomRow_ungranted {a : Nat × Nat × Nat}
    (outside : (vaAccess p (atomSize (wMod p.w))).find? (fun a => !granted s p.l.ctx a.2.1 (atomSize (wMod p.w))) = some a) :
    atomRow false p s = pathFault p 0x03 (some a.2.1) p.pc s := by
  simp only [atomRow, aligned, Bool.false_eq_true, if_false, outside]

end

/-! ### The operations on 4 bytes (log 8) -/

theorem signed_toNat (a : W32) : signed (8 * 4) a.toNat = a.toInt := by
  have lt : a.toNat < 2 ^ 32 := a.isLt
  rw [signed, BitVec.toInt_eq_toNat_cond, Nat.mod_eq_of_lt lt]
  split <;> split <;> omega

theorem atomOp_values (a b c : W32) : BitVec.ofNat 32 (atomOp 0 4 a.toNat b.toNat c.toNat) = a + b
    ∧ BitVec.ofNat 32 (atomOp 1 4 a.toNat b.toNat c.toNat) = (if a.sle b then a else b)
    ∧ BitVec.ofNat 32 (atomOp 2 4 a.toNat b.toNat c.toNat) = (if a.sle b then b else a)
    ∧ BitVec.ofNat 32 (atomOp 3 4 a.toNat b.toNat c.toNat) = a &&& b
    ∧ BitVec.ofNat 32 (atomOp 4 4 a.toNat b.toNat c.toNat) = a ||| b
    ∧ BitVec.ofNat 32 (atomOp 5 4 a.toNat b.toNat c.toNat) = a ^^^ b
    ∧ BitVec.ofNat 32 (atomOp 6 4 a.toNat b.toNat c.toNat) = b
    ∧ BitVec.ofNat 32 (atomOp 7 4 a.toNat b.toNat c.toNat) = (if a = b then c else a) := by
  have back (v : W32) : BitVec.ofNat 32 v.toNat = v := BitVec.ofNat_toNat 32 v ▸ BitVec.setWidth_eq v
  refine ⟨?_, ?_, ?_, ?_, ?_, ?_, back b, ?_⟩
  · apply BitVec.eq_of_toNat_eq
    simp [atomOp]
  · simp only [atomOp, signed_toNat, BitVec.sle_iff_toInt_le, apply_ite (BitVec.ofNat 32), back]
  · simp only [atomOp, signed_toNat, BitVec.sle_iff_toInt_le, apply_ite (BitVec.ofNat 32), back]
  · simp only [atomOp, ← BitVec.toNat_and, back]
  · simp only [atomOp, ← BitVec.toNat_or, back]
  · simp only [atomOp, ← BitVec.toNat_xor, back]
  · simp only [atomOp, BitVec.toNat_inj, apply_ite (BitVec.ofNat 32), back]

/-- Settles O34: ATOM and RED are `atomRow`, whose operation has the values of R287. -/
theorem atomicsAndTheirOperations : Obligations.AtomicsAndTheirOperations := by
  unfold Obligations.AtomicsAndTheirOperations
  refine ⟨fun s x p ps t => ⟨?atom, ?red, ?ungranted⟩, atomOp_values⟩
  case atom =>
    intro h aligned grants plan relaxed quiet ready
    exact (simt_issues _ h).trans (congrArg _ (atomRow_ready aligned false (.inr grants) plan relaxed quiet ready))
  case red =>
    intro h aligned plan relaxed quiet ready
    exact (simt_issues _ h).trans (congrArg _ (atomRow_ready aligned true (.inl rfl) plan relaxed quiet ready))
  case ungranted =>
    intro a h aligned outside
    exact (simt_issues _ h).trans (congrArg _ (atomRow_ungranted aligned outside))

end Sys2Proof.Machine

/-! SUPPORT. Fences, special registers, waits, work items, prefetches, transfers and presses (R172 to R195, R203, R205, R209, R214,
R228 to R233, R271, R319 to R323): the effect of each row, and the statements about them. -/

namespace Sys2Proof.Machine

/-! ## Fences (R228, R229, R233) -/

section
variable {s t : State} {x : Issue} {p : Path}

/-- A scope below the device waits for no store (R229). -/
theorem drain_core {scope : Nat} (s : State) (low : scope < 2) : drain p scope s = (s, true) := if_pos low

/-- A device scope waits while a store of the core has not left it (R229). -/
theorem drain_device_waits (held : ((coreAt s p.t.core).sb.any fun e => e.level = .core) = true) : drain p 2 s = (s, false) := by
  simp [drain, held]

theorem exec_fence_free (h : Issues s 0xB0 x p) (free : wMod p.w / 4 = 1 ∨ wMod p.w % 4 < 2) :
    exec (.fenceInstr x) s = .next (onGroup p (fun g => g.next p) (clocked p s)) := by
  refine (simt_issues _ h).trans (congrArg _ ?_)
  by_cases acquire : wMod p.w / 4 = 1
  · simp only [acquire, if_true]
  · simp only [acquire, if_false, drain_core _ (free.resolve_left acquire), if_true]

theorem exec_fence_drained (h : Issues s 0xB0 x p) (release : wMod p.w / 4 ≠ 1)
    (drained : drain p (wMod p.w % 4) (clocked p s) = (t, true)) :
    exec (.fenceInstr x) s = .next (onGroup p (fun g => g.next p) t) := by
  refine (simt_issues _ h).trans (congrArg _ ?_)
  simp only [release, if_false, drained, if_true]

theorem exec_fence_waits (h : Issues s 0xB0 x p) (release : wMod p.w / 4 ≠ 1)
    (held : drain p (wMod p.w % 4) (clocked p s) = (t, false)) :
    exec (.fenceInstr x) s = .next (stall p .mem t) := by
  refine (simt_issues _ h).trans (congrArg _ ?_)
  simp only [release, if_false, held, Bool.false_eq_true]

/-! ## Special registers and WAITGE (R205, R214, R484) -/

theorem exec_s2v_other (h : Issues s 0xB1 x p) (other : wRa p.w ≠ 8) :
    exec (.s2v x) s = .next (writeRd p (fun i => specialReg (clocked p s) p i (wRa p.w))
      (onGroup p (fun g => g) (clocked p s))) := by
  refine (simt_issues _ h).trans ?_
  simp only [other, if_false]

/-- Reading DEVTIME_LO latches the high half for each executing thread (R484). -/
theorem exec_s2v_devtime (h : Issues s 0xB1 x p) (lo : wRa p.w = 8) :
    exec (.s2v x) s = .next (writeRd p (fun _ => s.devtime.setWidth 32)
      (onGroup p (fun g => { g with dtHi := p.act.foldl (fun m i =>
        fset 0 m i (BitVec.ofNat 32 (s.devtime.toNat / 2 ^ 32))) g.dtHi }) (clocked p s))) := by
  refine (simt_issues _ h).trans ?_
  simp only [lo, if_true]
  rfl

theorem exec_waitge_issues (h : Issues s 0xB2 x p) :
    exec (.waitge x) s = .next (waitRow p (p.act.all fun i => (p.a i).toNat ≤ landOf s p) (clocked p s)) := simt_issues _ h

theorem exec_waitge_reached (h : Issues s 0xB2 x p) (reached : ∀ i ∈ p.act, (p.a i).toNat ≤ landOf s p) :
    exec (.waitge x) s = .next (onGroup p (fun g => (g.next p).endResv p.act) (clocked p s)) := by
  rw [exec_waitge_issues h, List.all_eq_true.mpr fun i hi => decide_eq_true (reached i hi), waitRow_ready]

theorem exec_waitge_below (h : Issues s 0xB2 x p) (below : ∃ i ∈ p.act, landOf s p < (p.a i).toNat) :
    exec (.waitge x) s = .next (onGroup p (fun g => { g.endResv p.act with wait := .event }) (clocked p s)) := by
  have notAll : (p.act.all fun i => decide ((p.a i).toNat ≤ landOf s p)) = false := by
    obtain ⟨i, hi, lt⟩ := below
    exact List.all_eq_false.mpr ⟨i, hi, by simpa using lt⟩
  rw [exec_waitge_issues h, notAll, waitRow_unready]

/-! ## Work items (R203, R223) -/

theorem exec_wget_item (h : Issues s 0xB3 x p) {it : Item} (oldest : (p.l.items.find? fun i => !i.taken) = some it) :
    let mark (z : Item) : Item := { z with taken := true }
    let f (y : Launch) : Launch := { y with items := mapWhere (fun z => decide (z.tag = it.tag)) mark y.items }
    exec (.wget x) s = .next (onGroup p (fun g => ((p.act.foldl (fun g i =>
        (((g.setReg i (wRd p.w) (BitVec.ofNat 32 it.tag)).setReg i (wRd p.w + 1) (it.arg.setWidth 32)).setReg i (wRd p.w + 2)
          (BitVec.ofNat 32 (it.arg.toNat / 2 ^ 32))).setReg i (wRd p.w + 3) (timeLeft (clocked p s) it.cmd)) g).next p).endResv p.act)
      (modLaunch p.l.id f { clocked p s with freeCtr := s.freeCtr + 32 })) := by
  refine (simt_issues _ h).trans ?_
  simp only [oldest]
  rfl

theorem exec_wdone_item (h : Issues s 0xB4 x p) {i : Nat} {it : Item} (one : p.act = [i]) (items : p.l.items = [it])
    (named : it.tag % 2 ^ 32 = (p.a i).toNat) (open_ : it.done = false) (drained : drain p 3 (clocked p s) = (t, true)) :
    let mark (z : Item) : Item := { z with done := true }
    let f (y : Launch) : Launch := { y with items := mapWhere (fun z => [(p.a i).toNat].contains (z.tag % 2 ^ 32)) mark y.items }
    exec (.wdone x) s = .next (finishItem p.l.id it.tag
      (releaseItem p.l it (onGroup p (fun g => g.next p) (modLaunch p.l.id f t)))) := by
  have once : ([(p.a i).toNat] : List Nat).eraseDups = [(p.a i).toNat] := rfl
  have known : ([(p.a i).toNat].find? fun t => !([it].any fun i => i.tag % 2 ^ 32 = t && !i.done)) = none := by
    simp only [List.find?_cons, List.any_cons, named, open_, decide_true, Bool.not_false, Bool.and_self, Bool.true_or,
      Bool.not_true, List.find?_nil]
  have hit : ([it].filter fun z => [(p.a i).toNat].contains (z.tag % 2 ^ 32)) = [it] :=
    List.filter_cons_of_pos (by rw [named]; simp)
  refine (simt_issues _ h).trans ?_
  simp only [one, List.map_cons, List.map_nil, once, items, known, drained, Bool.not_true, Bool.false_eq_true, if_false, hit,
    List.foldl_cons, List.foldl_nil]

theorem exec_wdone_unknown (h : Issues s 0xB4 x p) {i : Nat} (one : p.act = [i]) (items : p.l.items = []) :
    exec (.wdone x) s = .next (pathFault p 0x08 (some p.pc) (p.a i).toNat (clocked p s)) := by
  have once : ([(p.a i).toNat] : List Nat).eraseDups = [(p.a i).toNat] := rfl
  refine (simt_issues _ h).trans ?_
  simp only [one, List.map_cons, List.map_nil, once, items, List.any_nil, Bool.not_false, List.find?_cons]

/-! ## Prefetch (R271) -/

theorem exec_pref_populated (h : Issues s 0x82 x p) {i pa : Nat} (one : p.act = [i])
    (found : xlat (clocked p s) p.l.ctx p.l.gen (p.g.reg64 i (wRa p.w)) false = .pa pa)
    (ok : physOk (clocked p s) pa 1 = true) :
    exec (.pref x) s = .next (onGroup p (fun g => g.next p) (prefetch
      (lineHome (homeKey (clocked p s) pa / 128)) (homeKey (clocked p s) pa / 128) (clocked p s))) := by
  refine (simt_issues _ h).trans ?_
  simp only [vaAccess, one, List.map_cons, List.map_nil, List.foldl_cons, List.foldl_nil, found, ok, if_true]

end

/-- Settles O35: each row by its issue and the state that it waits for or names. -/
theorem fencesWaitsAndItems : Obligations.FencesWaitsAndItems := by
  unfold Obligations.FencesWaitsAndItems
  intro s x p
  refine ⟨exec_fence_free, fun t => exec_fence_drained, ?waits, exec_s2v_other, exec_s2v_devtime, exec_waitge_reached,
    exec_waitge_below, fun it h oldest => exec_wget_item h oldest,
    fun i it t h one items named open_ drained => exec_wdone_item h one items named open_ drained, ?unknown,
    fun i pa h one found ok => exec_pref_populated h one found ok⟩
  case waits =>
    intro h release device held
    exact exec_fence_waits h release (device ▸ drain_device_waits held)
  case unknown =>
    rintro i _ h one items rfl
    exact exec_wdone_unknown h one items

/-! ## Transfers of a group (R319, R320, R323) -/

section
variable {s : State} {x : Issue} {p : Path}

theorem exec_tmov_issues (h : Issues s 0xC0 x p) :
    exec (.tmov x) s = .next (if 32 ≤ queuedAt (clocked p s) p.t.core then stall p .event (clocked p s)
      else issueXfer p none (p.a (p.act.headD 0)).toNat false (clocked p s)) := simt_issues _ h

theorem exec_tout_tagged (h : Issues s 0xC1 x p) {tag : Option Nat}
    (names : toutTag p.l (p.g.reg (p.act.headD 0) (wRb p.w)) = some tag) (room : queuedAt (clocked p s) p.t.core < 32) :
    exec (.tout x) s = .next (issueXfer p tag (p.a (p.act.headD 0)).toNat true (clocked p s)) := by
  refine (simt_issues _ h).trans ?_
  simp only [names, Nat.not_le.mpr room, if_false]

theorem exec_tout_untagged (h : Issues s 0xC1 x p) (names : toutTag p.l (p.g.reg (p.act.headD 0) (wRb p.w)) = none) :
    exec (.tout x) s = .next (pathFault p 0x08 (some p.pc) (p.g.reg (p.act.headD 0) (wRb p.w)).toNat (clocked p s)) := by
  refine (simt_issues _ h).trans ?_
  simp only [names]

/-- A sound descriptor of a transfer into local store is copied and queued (R320). -/
theorem issueXfer_queues {off : Nat} (inside : inTeams p.l p.t.core off 64 = true) (sound : lsPoison s p.t.core off 64 = false)
    (aligned : off % 64 = 0) (unreserved : tdReserved (lsRead s p.t.core off 64) = false)
    (geometry : tdGeometry (lsRead s p.t.core off 64) false false = false) (toLs : tdDspace (lsRead s p.t.core off 64) = 2) :
    issueXfer p none off false s = onGroup p (fun g => g.next p)
      (addXfer (.simt p.l.id p.t.num p.g.num p.t.core (wMod p.w % 8) p.pc) p.l.ctx p.l.gen (lsRead s p.t.core off 64) none
        false s) := by
  simp only [issueXfer, inside, sound, aligned, unreserved, geometry, toLs, Bool.not_true, Bool.false_eq_true, if_false, if_true,
    ne_eq, not_true, decide_false, Bool.or_self]

theorem exec_twait_reached (h : Issues s 0xC2 x p)
    (reached : ∀ i ∈ p.act, (BitVec.ofNat 32 (mcOf (clocked p s) p.t.core p.l.id (wMod p.w % 8)) - p.a i).msb = false) :
    exec (.twait x) s = .next (onGroup p (fun g => (g.next p).endResv p.act) (clocked p s)) := by
  refine (simt_issues _ h).trans (congrArg _ ?_)
  dsimp only
  rw [List.all_eq_true.mpr fun i hi => by rw [reached i hi, Bool.not_false], waitRow_ready]

end

/-- Settles O36: TMOV and TOUT by the room at the core and the tag, TWAIT by the counter. -/
theorem moverInstructions : Obligations.MoverInstructions := by
  unfold Obligations.MoverInstructions
  intro s x p
  refine ⟨?queues, ?waits, fun tag h names room => exec_tout_tagged h names room, exec_tout_untagged, ?copies, exec_twait_reached⟩
  case queues =>
    intro h room
    rw [exec_tmov_issues h, if_neg (Nat.not_le.mpr room)]
  case waits =>
    intro h full
    rw [exec_tmov_issues h, if_pos full]
  case copies =>
    intro off _ _ inside sound aligned unreserved geometry toLs
    exact issueXfer_queues inside sound aligned unreserved geometry toLs

/-! ## Press instructions (R180 to R189, R193) -/

section
variable {p : Path} {s : State}

/-- At a full queue the group stalls before its word (R193). -/
theorem pressIssue_queueFull (own : (streamAt s p.t.core (wS p.w)).launch = some p.l.id)
    (full : 8 ≤ (streamAt s p.t.core (wS p.w)).queue.length) : pressIssue p s = stall p .event s := by
  simp only [pressIssue, own, full, ne_eq, not_true, decide_true, Bool.or_true, if_false, if_true]

/-- A stream that is not the launch's ends the launch (R180). -/
theorem pressIssue_foreign (foreign : (streamAt s p.t.core (wS p.w)).launch ≠ some p.l.id) :
    pressIssue p s = launchFault p.l p.t.core 0x09 none p.w s := if_pos foreign

/-- A path that issues a press word with room in its stream's queue and on its token queues it. -/
theorem pressIssue_issues {opc : Nat} {x : Issue} (h : Issues s opc x p) (lt : opc < 256)
    (own : (streamAt s p.t.core (wS p.w)).launch = some p.l.id) (pend : pendOf s p.t.core p.l.id (wTok p.w) < 63)
    (room : (streamAt s p.t.core (wS p.w)).queue.length < 8) :
    pressIssue p (clocked p s) = onGroup p (fun g => g.next p) (modPend p.t.core p.l.id (wTok p.w) (· + 1)
      (modStream p.t.core (wS p.w) (fun y => { y with queue := y.queue ++ [p.pressIns (BitVec.ofNat 8 opc)] }) (clocked p s))) :=
  pressIssue_queues (s := clocked p s) own (h.opcode lt) pend room

end

/-- Settles O37: a press word by its stream and its token, PWAIT by its counter. -/
theorem pressInstructionsIssue : Obligations.PressInstructionsIssue := by
  unfold Obligations.PressInstructionsIssue
  refine ⟨fun s x p own pend room => ⟨fun h => ?pldw, fun h => ?pmma, fun h => ?prq⟩, fun s x p own full h => ?full,
    fun s x p foreign h => ?foreign, fun s x p h reached => (pressWaitsFollowTheirCounters s x p).2.1 h reached,
    fun s x p h above => (pressWaitsFollowTheirCounters s x p).1 h above⟩
  case pldw =>
    rw [exec_pldw_issues h, pressIssue_issues h (by decide) own pend room]
    rfl
  case pmma =>
    rw [exec_pmma_issues h, pressIssue_issues h (by decide) own pend room]
    rfl
  case prq =>
    rw [exec_prq_issues h, pressIssue_issues h (by decide) own pend room]
    rfl
  case full => rw [exec_pmma_issues h, pressIssue_queueFull (s := clocked p s) own full]
  case foreign => rw [exec_pldw_issues h, pressIssue_foreign (s := clocked p s) foreign]

@[simp] theorem Stream.swap_press (x : Stream) (i : PressIns) : (x.swap i).press = x.press := by
  unfold Stream.swap
  split <;> rfl

section
variable {s : State} {core strm lid : Nat} {i : PressIns} {l : Launch} (bound : (streamAt s core strm).launch = some lid)
  (launch : findLaunch s lid = some l) (open_ : l.ending = none) (safe : s.flt.safe = false)
  (running : clusterInReset s (core / 4) = false)
include bound launch open_ safe running

/-- The front of a queue that may start either fails a check of R181 or runs. -/
theorem pressInstrStartE_front {rest : List PressIns} (front : (streamAt s core strm).queue = i :: rest)
    (may : mayStart s core strm i = true) :
    pressInstrStartE core strm s =
      if pressBad l core ((streamAt s core strm).swap i).active i then pressFault l core i { s with pwr := s.pwr.startClk (core / 4) }
      else takeTurn core strm (streamAt s core strm).press (insOpc i) (modStream core strm (fun _ =>
        { (streamAt s core strm).swap i with queue := rest, running := ((streamAt s core strm).swap i).running ++ [i] })
        { s with pwr := s.pwr.startClk (core / 4) }) := by
  simp only [pressInstrStartE, front, bound, launch, open_, safe, running, may, Option.isSome_none, Bool.not_true, Bool.or_self,
    Bool.false_eq_true, if_false, Stream.swap_press]

theorem pressInstrCompleteE_running {opc : Byte} (runs : ((streamAt s core strm).running.find? fun j => j.opc = opc) = some i) :
    pressInstrCompleteE core strm opc s = modPend core lid i.tok (· - 1) (modStream core strm (fun y =>
      { y with running := dropFirst (fun j => decide (j = i)) y.running }) (pressEffect l core strm i s)) := by
  simp only [pressInstrCompleteE, runs, bound, launch, open_, safe, running, Option.isSome_none, Bool.or_self, Bool.false_eq_true,
    if_false]

end

/-- What a completed press instruction does with a tile of its launch's table that holds no poison (R182, R183, R185). -/
theorem pressEffect_sound {s : State} {l : Launch} {core : Nat} (strm : Nat) {i : PressIns} {d : BitVec 128}
    (entry : l.pdt[wDi i.word.toNat]? = some d) (sound : tilePoison s (tileAt d core i.adj) = false) :
    (i.opc = 0xE0#8 → pressEffect l core strm i s = modStream core strm (fun y =>
      { y with shadow := operandLines s l.common (tileAt d core i.adj) }) s) ∧
    (i.opc = 0xE1#8 → pressEffect l core strm i s = countBusy core ((if l.common then 4 else 1) * tileLines d)
      (modStream core strm (fun y => y.pmma i.word.toNat (operandLines s l.common (tileAt d core i.adj))) s)) ∧
    (i.opc = 0xE2#8 → pressEffect l core strm i s = prqWrite core (streamAt s core strm) i (tileAt d core i.adj) s) := by
  refine ⟨fun opc => ?_, fun opc => ?_, fun opc => ?_⟩
  all_goals simp [pressEffect, insWord, insOpc, entry, sound, opc]

/-- Settles O38: the start of a queue's front, the completion of one that runs, and the effects of the three opcodes. -/
theorem pressInstructionsRunAndComplete : Obligations.PressInstructionsRunAndComplete := by
  unfold Obligations.PressInstructionsRunAndComplete
  refine ⟨fun s core strm i rest lid l runs bound launch open_ safe running => ⟨?starts, ?faults, ?completes⟩,
    fun s l core strm i d entry sound => pressEffect_sound strm entry sound⟩
  case starts =>
    intro front may good
    refine (live_runs _ runs).trans (congrArg _ ?_)
    rw [pressInstrStartE_front bound launch open_ safe running front may, if_neg (by simp [good])]
  case faults =>
    intro front may bad
    refine (live_runs _ runs).trans (congrArg _ ?_)
    rw [pressInstrStartE_front bound launch open_ safe running front may, if_pos bad]
  case completes =>
    intro opc runs_
    exact (live_runs _ runs).trans (congrArg _ (pressInstrCompleteE_running bound launch open_ safe running runs_))

end Sys2Proof.Machine

/-! SUPPORT. The front end (R337 to R360): opcodes as they start, ordering points, limits, commands read at HEAD, doorbells and
completion records; then the statements about them. -/

namespace Sys2Proof.Machine

/-! ## Opcodes as they start (R104, R107, R114, R141, R149, R349, R350) -/

/-- An opcode of FAB whose command is admitted does what its row says. -/
theorem live_startOp {s : State} {id : Nat} {op : Op} {c : Cmd} (runs : Runs .fab s) (h : InPhase s id op .admitted c)
    (f : Cmd → State → State) : (live .fab s fun s => startOp id op s f) = .next (f c s) := by
  rw [live_runs _ runs, startOp_admitted h]

/-- A gather with a position in some partition sends its sub-requests. -/
theorem startGather_sends (c : Cmd) (ph : Phase) (bags : List (Nat × Nat)) (pos : List Pos) (s : State)
    (sends : ph ≠ .running ∨ (pos.any fun x => decide (x.part < 8)) = true) :
    startGather c ph bags pos s = modCmd c.id (fun _ => { c with phase := ph, work := .gather {
      stage := .gather
      bags := bags
      pos := pos
      subs := ((List.range 8).filter fun p => pos.any fun x => x.part = p).map fun p => (p, .sent) } }) s := by
  have goes : (decide (((List.range 8).filter fun p => pos.any fun x => x.part = p) = []) && decide (ph = .running)) = false := by
    rcases sends with ph_ | some_
    · simp [ph_]
    · obtain ⟨x, hx, lt⟩ := List.any_eq_true.mp some_
      have mem : x.part ∈ (List.range 8).filter fun p => pos.any fun x => x.part = p :=
        List.mem_filter.mpr ⟨List.mem_range.mpr (of_decide_eq_true lt), List.any_eq_true.mpr ⟨x, hx, decide_eq_true rfl⟩⟩
      simp [List.ne_nil_of_mem mem]
  simp only [startGather, goes, Bool.false_eq_true, if_false]

/-- Settles O9: each opcode's row behind `startOp`. -/
theorem opcodesStart : Obligations.OpcodesStart := by
  unfold Obligations.OpcodesStart
  refine ⟨fun s id c runs h => live_startOp runs h _, fun s id c runs h => live_startOp runs h _,
    fun s id c runs h => live_startOp runs h _, fun s id c runs h => live_startOp runs h _,
    fun s id c runs h => live_startOp runs h _, fun s id c runs h => live_startOp runs h _, ?list, ?inline, ?range⟩
  case list =>
    intro s id c runs h form
    exact (live_startOp runs h _).trans (congrArg _ (if_pos form))
  case inline =>
    intro s id c runs h form some_
    refine (live_startOp runs h _).trans (congrArg _ ?_)
    rw [gatherPoolE, if_neg (by simp [form]), startGather_sends _ _ _ _ _ (.inr some_)]
  case range =>
    intro s id arr c runs h range
    refine (live_startOp runs h _).trans (congrArg _ ?_)
    rw [seqPoolE, if_pos range, startGather_sends _ _ _ _ _ (.inl (by decide))]

/-! ## Ordering points and limits (R349, R350, R355, R359) -/

section
variable {s : State} {id : Nat} {c : Cmd}

/-- No earlier command of the SQ is left. -/
theorem none_earlier (first : ∀ d ∈ s.fe.cmds, d.sq = c.sq → c.id ≤ d.id) :
    (s.fe.cmds.any fun d => d.sq = c.sq && d.id < c.id) = false := by
  refine List.any_eq_false.mpr fun d hd => ?_
  have := first d hd
  simp only [Bool.and_eq_true, decide_eq_true_eq, not_and, Nat.not_lt]
  exact this

theorem sqOrderWaitEndE_fence (h : InPhase s id .fence .orderWait c) (first : ∀ d ∈ s.fe.cmds, d.sq = c.sq → c.id ≤ d.id) :
    sqOrderWaitEndE id s = modCmd id (fun d => d.finish 0) s := by
  obtain ⟨has, op, ph⟩ := h
  rw [sqOrderWaitEndE, withCmd_yes has (by simp [ph]), none_earlier first]
  simp only [op, Bool.false_eq_true, if_false, if_true, readyCmd]

/-- A SIGNAL or TIMESTAMP at its turn notes the moment and writes (R350). -/
theorem sqOrderWaitEndE_writes (has : s.fe.cmd id = some c) (ph : c.phase = .orderWait) (op : c.op ≠ .fence)
    (first : ∀ d ∈ s.fe.cmds, d.sq = c.sq → c.id ≤ d.id) (fresh : c.wrote = false) :
    sqOrderWaitEndE id s = sgWrite { c with wrote := true, strideStart := s.devtime }
      (modCmd id (fun _ => { c with wrote := true, strideStart := s.devtime }) s) := by
  rw [sqOrderWaitEndE, withCmd_yes has (by simp [ph]), none_earlier first]
  simp only [op, fresh, Bool.false_eq_true, if_false]

/-- A command's change leaves the access rights of device addresses. -/
theorem allowed_modCmd (f : Cmd → Cmd) (a n : Nat) : allowed (modCmd id f s) a n = allowed s a n := rfl

/-- The write to a device address ends the command (R349). -/
theorem sgWrite_device (dev : sgSpace c.bytes = 1) (ok : allowed s (sgAddr c.bytes) 8 = true) :
    sgWrite c s = modCmd c.id (fun d => d.finish 0) (writeDevice (.cmd c.id) (some c.id) (sgAddr c.bytes) (sgBytes c) s) := by
  simp only [sgWrite, dev, ok, if_true, readyCmd]

theorem sgWrite_refused (dev : sgSpace c.bytes = 1) (refused : allowed s (sgAddr c.bytes) 8 = false) :
    sgWrite c s = faultCmd c 0x16 (some (sgAddr c.bytes)) s := by
  simp only [sgWrite, dev, refused, if_true, Bool.false_eq_true, if_false]

theorem latePredictionE_late (has : s.fe.cmd id = some c) (may : resignable s c = true) (on : bit c.cfg 29 = true)
    (deadline : hdrDeadline c.bytes ≠ 0) (past : hdrDeadline c.bytes ≤ s.devtime.toNat) :
    latePredictionE id s = endCommand id 2 s := by
  rw [latePredictionE, withCmd_yes has (by simp [may, on, deadline])]
  simp only [past, decide_true, Bool.true_or, if_true]

theorem watchdogExpiryE_expired (has : s.fe.cmd id = some c) (home : c.home.isSome = true) (ph : c.phase ≠ .checked)
    (unended : unfinished s c = true) (sound : launchEnding s c = false)
    (expired : wdogLimit c ≤ s.devtime.toNat - c.tAdmit.toNat) :
    watchdogExpiryE id s = endCommand id 0x22
      (detectFor id ((locPartOf (watchdogReport s c).loc).getD 8) (watchdogReport s c) s) := by
  rw [watchdogExpiryE, withCmd_yes has (by simp [home, ph, unended, sound, since, expired])]

end

/-- Settles O10: the ends of the ordering points, the late resignation and the watchdog. -/
theorem orderingPointsAndLimitsEndCommands : Obligations.OrderingPointsAndLimitsEndCommands := by
  unfold Obligations.OrderingPointsAndLimitsEndCommands
  refine ⟨?fence, ?signal, ?timestamp, ?refused, ?late, ?watchdog⟩
  case fence =>
    intro s id c runs h first
    exact (live_runs _ runs).trans (congrArg _ (sqOrderWaitEndE_fence h first))
  case signal =>
    rintro s id c runs ⟨has, op, ph⟩ first fresh dev ok
    obtain rfl := cmd_id has
    refine (live_runs _ runs).trans (congrArg _ ?_)
    rw [sqOrderWaitEndE_writes has ph (by simp [op]) first fresh, sgWrite_device (c := { c with wrote := true, strideStart := s.devtime }) dev
      ((allowed_modCmd ..).trans ok), sgBytes, if_pos op]
  case timestamp =>
    rintro s id c runs ⟨has, op, ph⟩ first fresh dev ok
    obtain rfl := cmd_id has
    refine (live_runs _ runs).trans (congrArg _ ?_)
    rw [sqOrderWaitEndE_writes has ph (by simp [op]) first fresh, sgWrite_device (c := { c with wrote := true, strideStart := s.devtime }) dev
      ((allowed_modCmd ..).trans ok), sgBytes,
      if_neg (by simp [op])]
  case refused =>
    rintro s id c runs ⟨has, op, ph⟩ first fresh dev refused
    refine (live_runs _ runs).trans (congrArg _ ?_)
    rw [sqOrderWaitEndE_writes has ph (by simp [op]) first fresh]
    exact sgWrite_refused (c := { c with wrote := true, strideStart := s.devtime }) dev ((allowed_modCmd ..).trans refused)
  case late =>
    intro s id c runs has may on deadline past
    exact (live_runs _ runs).trans (congrArg _ (latePredictionE_late has may on deadline past))
  case watchdog =>
    intro s id c runs has home ph unended sound expired
    exact (live_runs _ runs).trans (congrArg _ (watchdogExpiryE_expired has home ph unended sound expired))

/-! ## Commands read at HEAD (R340, R347, R357) -/

section
variable {s : State} {sq : Nat} (ready : headReady s sq = true)
include ready

/-- With the whole command at hand, its read waits for the arbiter alone. -/
theorem commandReadE_headReady :
    commandReadE sq s =
      if s.fe.mayServe .front (frontReqs s) ((s.fe.sqOf sq).ctx, sq) then
        let c := newCmd s sq (cmdAtHead s.fe sq)
        let s := modSq sq (fun q => { q with
            head := c.sqHead
            recv := q.recv.filter fun e =>
              !((List.range (hdrSlots (cmdAtHead s.fe sq))).map fun i => (q.head + i) % q.size).contains e.1 })
          { s with fe := s.fe.serve .front (frontReqs s) ((s.fe.sqOf sq).ctx, sq) 1 }
        { s with fe := { s.fe with cmds := s.fe.cmds ++ [c], nextId := s.fe.nextId + 1, ring := fset [] s.fe.ring sq [] } }
      else s := by
  simp only [headReady, Bool.and_eq_true, decide_eq_true_eq] at ready
  obtain ⟨⟨⟨may, line⟩, pend⟩, whole⟩ := ready
  have notShort : ¬(cmdAtHead s.fe sq).length < 64 := by omega
  have notPart : ¬(cmdAtHead s.fe sq).length < 64 * hdrSlots (cmdAtHead s.fe sq) := by omega
  have notMissing : ¬(s.fe.sqOf sq).pend < hdrSlots (cmdAtHead s.fe sq) := by omega
  simp only [commandReadE, may, notShort, notPart, notMissing, decide_false, Bool.and_false, Bool.or_self, Bool.not_true,
    Bool.false_eq_true, if_false, Bool.false_or]
  cases s.fe.mayServe .front (frontReqs s) ((s.fe.sqOf sq).ctx, sq) <;> rfl

end

/-- While another context is due a grant, one that is not is not served. -/
theorem mayServe_of_otherDue {f : FrontEnd} {a : Arb} {reqs : List (Nat × Nat)} {r : Nat × Nat} {ctx : Nat}
    (notDue : f.isDue a reqs r.1 = false) (competes : ctx ∈ reqCtxs reqs) (due : f.isDue a reqs ctx = true) :
    f.mayServe a reqs r = false := by
  have notAll : ((reqCtxs reqs).all fun c => !f.isDue a reqs c) = false := List.all_eq_false.mpr ⟨ctx, competes, by simp [due]⟩
  rw [FrontEnd.mayServe, notDue, notAll, Bool.or_self, Bool.false_and]

/-- Settles O11: the read by its arbiter, and the bytes that a ring's read brings back. -/
theorem commandsAreReadAtHead : Obligations.CommandsAreReadAtHead := by
  unfold Obligations.CommandsAreReadAtHead
  refine ⟨?served, ?notDue, ?ring⟩
  case served =>
    intro s sq runs ready may
    exact ⟨_, (live_runs _ runs).trans (congrArg _ ((commandReadE_headReady ready).trans (if_pos may)))⟩
  case notDue =>
    intro s sq ctx runs ready notDue competes due
    refine (live_runs _ runs).trans (congrArg _ ?_)
    rw [commandReadE_headReady ready, mayServe_of_otherDue notDue competes due, if_neg Bool.false_ne_true]
  case ring =>
    intro s sq b runs en isRing err
    refine (live_runs _ runs).trans (congrArg _ ?_)
    simp only [sqRingReadDoneE, en, isRing, err, Bool.not_true, Bool.or_self, Bool.false_eq_true, if_false]

/-! ## Doorbells and slots (R338, R339) -/

section
variable {s : State} {sq : Nat} (reach : ctlReach s = true) (safe : s.flt.safe = false) (free : portHeld s = false) (lt : sq < 16384)
include reach safe free lt

/-- A write above the doorbell word stores its slot bytes alone. -/
theorem dbapWrite_slots {off : Nat} (data : Masked) (above : 0x40 ≤ off) :
    dbapWrite sq off data s = { s with fe := { s.fe with
      dbap := memWrite s.fe.dbap (((placedMasked off data).filter fun b => 0x40 ≤ b.1 && b.1 < 0x1000).map fun b =>
        (sq * 0x1000 + b.1, b.2)) } } := by
  have inPages : ¬Config.numSq ≤ sq := Nat.not_le.mpr lt
  have noBell : (((List.range 4).map fun i => if off ≤ i then data.getD (i - off) none else none).all fun b => b.isNone) = true := by
    simp only [List.all_map, List.all_eq_true, List.mem_range, Function.comp_apply]
    intro i hi
    rw [if_neg (by omega)]
    rfl
  simp only [dbapWrite, reach, safe, free, inPages, noBell, decide_false, Bool.not_true, Bool.or_self, Bool.false_eq_true, if_false,
    if_true]

/-- A write of the whole doorbell word is a doorbell. -/
theorem dbapWrite_doorbell (b0 b1 b2 b3 : Byte) :
    dbapWrite sq 0 [some b0, some b1, some b2, some b3] s = doorbell sq [some b0, some b1, some b2, some b3] s := by
  have inPages : ¬Config.numSq ≤ sq := Nat.not_le.mpr lt
  simp only [dbapWrite, reach, safe, free, inPages, decide_false, Bool.not_true, Bool.or_self, Bool.false_eq_true, if_false]
  rfl

end

/-- Settles O12: the slot bytes, and the doorbell by the queue's state. -/
theorem doorbellsAndSlots : Obligations.DoorbellsAndSlots := by
  unfold Obligations.DoorbellsAndSlots
  refine ⟨?slots, ?tail, ?disabled⟩
  case slots =>
    intro s sq off data runs reach safe free lt above
    refine (live_runs _ runs).trans (congrArg _ ?_)
    rw [barWrite_good _ _ rfl, dbapWrite_slots reach safe free lt data above]
  case tail =>
    intro s sq b0 b1 b2 b3 runs reach safe free lt en err open_ low inside
    refine (live_runs _ runs).trans (congrArg _ ?_)
    have legal : ¬2 ^ 15 ≤ leNat [b0, b1, b2, b3] := Nat.not_le.mpr low
    have inQueue : ¬(s.fe.sqOf sq).size ≤ leNat [b0, b1, b2, b3] := Nat.not_le.mpr inside
    rw [barWrite_good _ _ rfl, dbapWrite_doorbell reach safe free lt]
    simp only [doorbell, en, err, quiesced, open_, List.map_cons, List.map_nil, Option.getD_some, List.any_cons, List.any_nil,
      Option.isNone_some, legal, inQueue, decide_false, Bool.not_true, Bool.or_self, Bool.false_eq_true, if_false]
    rfl
  case disabled =>
    intro s sq b0 b1 b2 b3 runs reach safe free lt en
    refine (live_runs _ runs).trans (congrArg _ ?_)
    rw [barWrite_good _ _ rfl, dbapWrite_doorbell reach safe free lt]
    simp only [doorbell, en, Bool.not_false, Bool.true_or, if_true]

/-! ## Completion records (R244, R343, R351, R353, R382) -/

/-- A register outside the ranges of the partitions' registers. -/
theorem ctlPart_none {off : Nat} (l1 : off < 0xA3000 ∨ 0xA3100 ≤ off) (mover : off < 0x90000 ∨ 0x90400 ≤ off)
    (ways : off < 0xA2000 ∨ 0xA2400 ≤ off) (clk : off < 0x120200 ∨ 0x120300 ≤ off) : ctlPart off = none := by
  simp only [ctlPart, Bool.and_eq_true, decide_eq_true_eq]
  rw [if_neg (by omega), if_neg (by omega), if_neg (by omega), if_neg (by omega)]

section
variable {s : State} {id : Nat} {c : Cmd}

/-- The three lines of a record go to a device CQ that has room. -/
theorem completionRecordIssueE_device (has : s.fe.cmd id = some c) (ph : c.phase = .ready) (safe : s.flt.safe = false)
    (reported : c.waitsReport = false) (unreleased : releaseInForce s c = false) (may : recordMayIssue (untag id s) c = true)
    (en : (s.fe.cqOf c.cq).en = true) (err : (s.fe.cqOf c.cq).err = false) (room : (s.fe.cqOf c.cq).full = false)
    (dev : (s.fe.cqOf c.cq).dev = true)
    (ok : ∀ i ∈ [0, 1, 2], allowed (untag id s) ((s.fe.cqOf c.cq).base + 192 * (s.fe.cqOf c.cq).tail + 64 * i) 64 = true) :
    completionRecordIssueE id s = issueRecord c ((s.fe.cqOf c.cq).base + 192 * (s.fe.cqOf c.cq).tail)
      ((s.fe.cqOf c.cq).base + 192 * (s.fe.cqOf c.cq).tail + 64) ((s.fe.cqOf c.cq).base + 192 * (s.fe.cqOf c.cq).tail + 128)
      (untag id s) := by
  have fe : (untag id s).fe = s.fe := rfl
  have addr (i : Nat) (hi : i ∈ [0, 1, 2]) :
      recordAddr (untag id s) c (s.fe.cqOf c.cq) ((s.fe.cqOf c.cq).base + 192 * (s.fe.cqOf c.cq).tail + 64 * i) =
        .pa ((s.fe.cqOf c.cq).base + 192 * (s.fe.cqOf c.cq).tail + 64 * i) := by
    simp only [recordAddr, dev, ok i hi, if_true]
  rw [completionRecordIssueE, withCmd_yes has (by simp [ph])]
  have addr0 := addr 0 (by simp)
  simp only [safe, reported, unreleased, may, fe, en, err, room, dev, addr0, addr 1 (by simp), addr 2 (by simp),
    Bool.not_true, Bool.or_self, Bool.false_and, Bool.false_eq_true, if_false]
  rfl

theorem cqWaitTimeoutE_late (has : s.fe.cmd id = some c) (ph : c.phase = .ready) (waited : c.cqWaited = true)
    (first : c.cqLate = false) (long : 10000000 < s.devtime.toNat - c.cqSince.toNat) (full : (s.fe.cqOf c.cq).full = true) :
    cqWaitTimeoutE id s = detect 8 (report 0x2A none locFront none (c.cq + 2 ^ 16)) (modCmd id (fun d => { d with cqLate := true }) s) := by
  rw [cqWaitTimeoutE, withCmd_yes has (by simp [ph, waited, first, since, long, full])]

end

theorem phaseTagLineIssueE_sound {s : State} {cq : Nat} {t : TagLine} (safe : s.flt.safe = false)
    (front : (s.fe.tags.find? fun x => x.cq = cq && !x.sent && !whoOut s (.record x.id)) = some t) (ok : t.failed = false) :
    phaseTagLineIssueE cq s = settleTags (recordWrite t.dev (.tagLine t.id) t.addr t.line0
      { s with fe := { s.fe with tags := mapWhere (fun x => x.id = t.id) (fun x => { x with sent := true }) s.fe.tags } }) := by
  simp only [phaseTagLineIssueE, front, safe, ok, Bool.false_eq_true, if_false]

/-- A head within the queue moves; one beyond it is reported where the queue is enabled. -/
theorem cqHeadWriteE_eq {q : Nat} (lt : q < 4096) (v : W32) (s : State) :
    cqHeadWriteE q v s = if (s.fe.cqOf q).en && (s.fe.cqOf q).size ≤ fld v 14 0 then
      detect 8 (report 0x2A none locFront none (q + fld v 14 0 * 2 ^ 32)) s
    else { s with fe := { s.fe with cq := fset {} s.fe.cq q { s.fe.cqOf q with head := fld v 14 0 } } } := if_neg (Nat.not_le.mpr lt)

/-- Settles O13: the record's lines, the wait for room, the driver's head and the coalescer. -/
theorem completionRecordsAreIssued : Obligations.CompletionRecordsAreIssued := by
  unfold Obligations.CompletionRecordsAreIssued
  refine ⟨?lines, ?tag, ?waits, ?head, ?badHead, ?vector⟩
  case lines =>
    intro s id c runs has ph safe reported unreleased may en err room dev ok
    exact (live_runs _ runs).trans
      (congrArg _ (completionRecordIssueE_device has ph safe reported unreleased may en err room dev ok))
  case tag =>
    intro s cq t runs safe front ok
    exact (live_runs _ runs).trans (congrArg _ (phaseTagLineIssueE_sound safe front ok))
  case waits =>
    intro s id c runs has ph waited first long full
    exact (live_runs _ runs).trans (congrArg _ (cqWaitTimeoutE_late has ph waited first long full))
  case head =>
    intro s q v open_ lt inside
    refine (ctlWrite_open _ open_).trans (congrArg _ ?_)
    rw [woken_none s (ctlPart_none (by omega) (by omega) (by omega) (by omega)), cqHeadWriteE_eq lt, if_neg (by simp [Nat.not_le.mpr inside])]
  case badHead =>
    intro s q v open_ lt en beyond
    refine (ctlWrite_open _ open_).trans (congrArg _ ?_)
    rw [woken_none s (ctlPart_none (by omega) (by omega) (by omega) (by omega)), cqHeadWriteE_eq lt, if_pos (by simp [en, beyond])]
  case vector =>
    intro s vec runs pending due
    refine (live_runs _ runs).trans (congrArg _ ?_)
    simp only [coalesceDelayExpiryE, since, pending, due, decide_true, Bool.and_self, if_true]

end Sys2Proof.Machine

/-! SUPPORT. Gathers (R94 to R122): the bag list, a partition's sub-request, sectors, partials and landings; then the statement about
them. -/

namespace Sys2Proof.Machine

section
variable {s : State} {id part : Nat} {c : Cmd} {g : Gather}

/-- A command of a partition's domain that a reset of cluster `k` holds back, with no such reset. -/
theorem live_unreset {d : Dom} {k : Nat} (runs : Runs d s) (noReset : clusterInReset s k = false) (f : State → State) :
    (live d s fun s => if clusterInReset s k then s else f s) = .next (f s) := by
  rw [live_runs _ runs, if_neg (by simp [noReset])]

/-! ## The bag list (R104 to R106, R511) -/

section
variable {list : ReadBack} {arrays : List ReadBack} {b y : Bytes} {ds devs : List (Nat × Nat)}
  (h : InPhase s id .gatherPool .running c) (work : c.work = .gather g) (stage : g.stage = .list)
  (read : poolRead s c (gpSrc c.bytes) (16 * gpBags c.bytes) list = .ok b ds)
include h work stage read

theorem bagListReadDoneE_refused
    (bad : bagListStatus s c ((List.range (gpBags c.bytes)).map (bagEnt c.bytes b)) ≠ 0) :
    bagListReadDoneE id list arrays s = modCmd id (fun d => d.finish
      (bagListStatus s c ((List.range (gpBags c.bytes)).map (bagEnt c.bytes b)))) (doneRanges ds s) := by
  obtain ⟨has, op, ph⟩ := h
  obtain ⟨_, bags, pos, subs⟩ := g
  obtain rfl : _ = GStage.list := stage
  rw [bagListReadDoneE, withCmd_yes has (by simp [op, ph])]
  simp only [work, read, bad, ne_eq, not_false_eq_true, if_true, readyCmd]

theorem bagListReadDoneE_starts
    (sound : bagListStatus s c ((List.range (gpBags c.bytes)).map (bagEnt c.bytes b)) = 0)
    (arrs : bagArrays s c ((List.range (gpBags c.bytes)).map (bagEnt c.bytes b)) arrays = .ok y devs) :
    bagListReadDoneE id list arrays s = startGather
      { c with landTo := landTeams s c.ctx c.bytes (c.home.getD 0) (((List.range (gpBags c.bytes)).map (bagEnt c.bytes b)).map fun e => (c.table e.table).dim) } .running
      (((List.range (gpBags c.bytes)).map (bagEnt c.bytes b)).map fun e => (e.table, e.len))
      (bagsPos c ((List.range (gpBags c.bytes)).map (bagEnt c.bytes b)) 0 y) (doneRanges (ds ++ devs) s) := by
  obtain ⟨has, op, ph⟩ := h
  obtain ⟨_, bags, pos, subs⟩ := g
  obtain rfl : _ = GStage.list := stage
  rw [bagListReadDoneE, withCmd_yes has (by simp [op, ph])]
  simp only [work, read, sound, arrs, ne_eq, not_true, if_false]

end

/-! ## Sub-requests, sectors and partials (R114, R257) -/

section
variable (has : s.fe.cmd id = some c) (ph : c.phase = .running) (work : c.work = .gather g)
include has ph work

theorem gatherSubrequestE_served (stage : g.stage = .gather) (sent : g.subs.contains (part, .sent) = true)
    (may : s.fe.mayServe (.gather part) (gatherReqs s part) (c.ctx, c.sq) = true) :
    gatherSubrequestE id part s = modCmd id (fun d => { d with work := .gather { g with
        subs := g.subs.map fun y => if y.1 = part then (part, .received) else y } })
      ((g.pos.filter fun x => x.part = part && !x.done).foldl (fun s x => fetchPos true c s x)
        (wakePart part { s with
          fe := s.fe.serve (.gather part) (gatherReqs s part) (c.ctx, c.sq) (g.pos.filter fun x => x.part = part && !x.done).length
          pwr := s.pwr.startClk (64 + part) })) := by
  rw [gatherSubrequestE, withCmd_yes has (by simp [ph])]
  simp only [work, stage, sent, may, ne_eq, not_true, decide_false, Bool.not_true, Bool.or_self, Bool.false_eq_true, if_false]

/-- The sector that a position waits for has come with its data. -/
theorem rowSectorArrivalE_data {pos sec k a : Nat} {x : Pos} {b : Bytes} {bad : Bool} (at_ : g.pos[pos]? = some x)
    (here : x.part = part) (open_ : x.done = false) (received : g.subs.contains (part, .received) = true)
    (inRow : sec < ((c.table x.table).size + 31) / 32) (new : (x.got.any fun e => e.1 = sec) = false)
    (header : sec = 0 ∨ (x.got.any fun e => e.1 = 0) = true) (addr : posAddr s c x = (k, a))
    (now : sectorNow s k (a + 32 * sec) = .data b bad) :
    rowSectorArrivalE id part pos sec s = sectorArrives c g pos x sec k a b bad s := by
  have inRow : ¬((c.table x.table).size + 31) / 32 ≤ sec := Nat.not_le.mpr inRow
  have inOrder : (decide (sec ≠ 0) && !x.got.any fun e => e.1 = 0) = false := by
    rcases header with zero | got
    · simp [zero]
    · simp [got]
  rw [rowSectorArrivalE, withCmd_yes has (by simp [ph])]
  simp only [work, at_, here, open_, received, inRow, new, inOrder, addr, now, ne_eq, not_true, decide_false, Bool.not_true,
    Bool.or_self, Bool.false_eq_true, if_false]

theorem partialPoolArrivalE_received (stage : g.stage = .gather) (received : g.subs.contains (part, .received) = true)
    (pooled : (g.pos.all fun x => x.part ≠ part || x.done) = true) :
    let h : Gather := { g with subs := g.subs.map fun y => if y.1 = part then (part, .combined) else y }
    partialPoolArrivalE id part s =
      if h.subs.all fun y => y.2 = .combined then finishGather c h s else modCmd id (fun d => { d with work := .gather h }) s := by
  obtain ⟨_, bags, pos, subs⟩ := g
  obtain rfl : _ = GStage.gather := stage
  rw [partialPoolArrivalE, withCmd_yes has (by simp [ph])]
  simp only [work, received, pooled, ne_eq, not_true, decide_false, Bool.not_true, Bool.or_self, Bool.false_eq_true, if_false]

theorem landingCompleteE_held {l t : Nat} {rest : List (Nat × Nat)} (stage : g.stage = .landing) (lands : c.landTo = (l, t) :: rest)
    (held : ∀ x ∈ c.landTo, teamHeld s (outCore c.bytes (c.home.getD 0)) x.1 x.2 = true) :
    landingCompleteE id s = modCmd id (fun d => d.finish 0)
      (modCore (outCore c.bytes (c.home.getD 0)) (fun k => { k with land := fmod 0 k.land l (· + 1) })
        ((gatherOut c g).foldl (fun s x => writeLs (outCore c.bytes (c.home.getD 0)) (outLs c.bytes + x.1) x.2.1 s)
          (countOut c ((gatherOut c g).flatMap fun x => x.2.2) s))) := by
  have allHeld : (c.landTo.all fun x => teamHeld s (outCore c.bytes (c.home.getD 0)) x.1 x.2) = true := List.all_eq_true.mpr held
  rw [lands] at allHeld
  rw [landingCompleteE, withCmd_yes has (by simp [ph])]
  simp only [work, stage, lands, allHeld, ne_eq, not_true, if_false, if_true]
  rfl

end

end

/-- A slice with an empty side buffer answers as it did. -/
theorem useSide_none {k line : Nat} {s : State} (empty : (s.dc.slice k).side = []) : useSide k line s = s := by
  simp [useSide, empty]

/-- A later sector that leaves its row incomplete is kept. -/
theorem sectorArrives_kept (c : Cmd) (g : Gather) (i k a : Nat) {sec : Nat} (x : Pos) (b : Bytes) (bad : Bool) {s : State}
    (later : 0 < sec) (empty : (s.dc.slice k).side = [])
    (part : ((List.range (((c.table x.table).size + 31) / 32)).all fun j => ((sec, b) :: x.got).any fun e => e.1 = j) = false) :
    sectorArrives c g i x sec k a b bad s = modCmd c.id (fun d => { d with work := .gather { g with
      pos := g.pos.set i { x with got := (sec, b) :: x.got, bad := x.bad || bad } } }) s := by
  have notFirst : sec ≠ 0 := Nat.ne_of_gt later
  simp only [sectorArrives, notFirst, useSide_none empty, part, decide_false, Bool.false_and, Bool.false_eq_true, if_false]

/-- Settles O23: the way of a gather from its bag list to its landing. -/
theorem gathersPoolTheirPositions : Obligations.GathersPoolTheirPositions := by
  unfold Obligations.GathersPoolTheirPositions
  refine ⟨?refused, ?starts, ?sub, ?sector, ?partial_, ?landing, ?kept⟩
  case refused =>
    intro s id list arrays c g b runs h work stage devs read bad
    exact (live_runs _ runs).trans (congrArg _ (bagListReadDoneE_refused h work stage read bad))
  case starts =>
    rintro s id list arrays c g b y _ runs h work stage ds devs read rfl sound arrs
    exact (live_runs _ runs).trans (congrArg _ (bagListReadDoneE_starts h work stage read sound arrs))
  case sub =>
    intro s id part c g runs up has ph work stage sent may
    exact (live_unreset runs up _).trans (congrArg _ (gatherSubrequestE_served has ph work stage sent may))
  case sector =>
    intro s id part pos sec k a c g x b bad runs up has ph work at_ here open_ received inRow new header addr now
    exact (live_unreset runs up _).trans
      (congrArg _ (rowSectorArrivalE_data has ph work at_ here open_ received inRow new header addr now))
  case partial_ =>
    intro s id part c g runs has ph work stage received pooled
    exact (live_runs _ runs).trans (congrArg _ (partialPoolArrivalE_received has ph work stage received pooled))
  case landing =>
    intro s id c g l t rest runs has ph work stage lands held
    exact (live_runs _ runs).trans (congrArg _ (landingCompleteE_held has ph work stage lands held))
  case kept =>
    intro s c g i sec k a x b bad later empty part
    exact sectorArrives_kept c g i k a x b bad later empty part

end Sys2Proof.Machine

/-! SUPPORT. Update windows and placement regions (R123 to R146), migration and digests (R154 to R163), castling (R149 to R153), the
catalogue (R165 to R171), the commit windows and the registers of the units; then the statements about them. -/

namespace Sys2Proof.Machine

/-- A whole write of an open register of no partition does what its row says. -/
theorem ctlWrite_plain {off : Nat} {s : State} (f : State → State) (open_ : CtlOpen off s) (plain : ctlPart off = none) :
    ctlWrite off 0xF#4 s f = .next (f s) := by
  rw [ctlWrite_open f open_, woken_none s plain]

/-- A whole write of an open register of a partition wakes it first. -/
theorem ctlWrite_wakes {off p : Nat} {s : State} (f : State → State) (open_ : CtlOpen off s) (part : ctlPart off = some p) :
    ctlWrite off 0xF#4 s f = .next (f (wakePart p s)) := by
  simp only [ctlWrite_open f open_, woken, part]

/-! ## Windows and regions (R126, R127, R139, R143) -/

section
variable {s : State} {v : W32}

theorem upwApplyE_taken {w : Nat} (lt : w < 16) (cmt : bit v 0 = true) (sound : setBad s (fget {} s.upd.win w).staged.set = false) :
    upwApplyE w v s = { closeTarget w none s with upd := { (closeTarget w none s).upd with
      win := fset {} (closeTarget w none s).upd.win w
        { fget {} s.upd.win w with com := (fget {} s.upd.win w).staged, result := 1 } } } := by
  simp only [upwApplyE, cmt, Nat.not_le.mpr lt, sound, decide_false, Bool.not_true, Bool.or_self, Bool.false_eq_true, if_false]

theorem upwApplyE_refused {w : Nat} (lt : w < 16) (cmt : bit v 0 = true) (bad : setBad s (fget {} s.upd.win w).staged.set = true) :
    upwApplyE w v s = { s with upd := { s.upd with win := fset {} s.upd.win w { fget {} s.upd.win w with result := 2 } } } := by
  simp only [upwApplyE, cmt, Nat.not_le.mpr lt, bad, decide_false, Bool.not_true, Bool.or_self, Bool.false_eq_true, if_false, if_true]

theorem plcCmtE_taken (cmt : bit v 0 = true) (sound : setBad s s.upd.plcStaged.set = false) :
    plcCmtE v s = { closeTarget (16 + s.upd.plcSel) none s with upd := { (closeTarget (16 + s.upd.plcSel) none s).upd with
      plc := fset {} (closeTarget (16 + s.upd.plcSel) none s).upd.plc (closeTarget (16 + s.upd.plcSel) none s).upd.plcSel
        (closeTarget (16 + s.upd.plcSel) none s).upd.plcStaged
      plcResult := 1 } } := by
  simp only [plcCmtE, cmt, sound, Bool.not_true, Bool.false_eq_true, if_false]

theorem plcCmtE_refused (cmt : bit v 0 = true) (bad : setBad s s.upd.plcStaged.set = true) :
    plcCmtE v s = { s with upd := { s.upd with plcResult := 2 } } := by
  simp only [plcCmtE, cmt, bad, Bool.not_true, Bool.false_eq_true, if_false, if_true]

end

/-- Settles O25: the applies, commits, closes and the select. -/
theorem windowsAndRegionsCommit : Obligations.WindowsAndRegionsCommit := by
  unfold Obligations.WindowsAndRegionsCommit
  refine ⟨?applied, ?unapplied, ?closed, ?region, ?select, ?committed, ?uncommitted⟩
  case applied =>
    intro s w v open_ lt cmt sound
    exact (ctlWrite_plain _ open_ (ctlPart_none (by omega) (by omega) (by omega) (by omega))).trans
      (congrArg _ (upwApplyE_taken lt cmt sound))
  case unapplied =>
    intro s w v open_ lt cmt bad
    exact (ctlWrite_plain _ open_ (ctlPart_none (by omega) (by omega) (by omega) (by omega))).trans
      (congrArg _ (upwApplyE_refused lt cmt bad))
  case closed =>
    intro s w v open_ lt cls
    exact (ctlWrite_plain _ open_ (ctlPart_none (by omega) (by omega) (by omega) (by omega))).trans
      (congrArg _ (if_pos (by simp [cls, lt])))
  case region =>
    intro s v open_ cls
    exact (ctlWrite_plain _ open_ (by decide)).trans (congrArg _ (if_pos cls))
  case select =>
    intro s v open_
    exact ctlWrite_plain _ open_ (by decide)
  case committed =>
    intro s v open_ cmt sound
    exact (ctlWrite_plain _ open_ (by decide)).trans (congrArg _ (plcCmtE_taken cmt sound))
  case uncommitted =>
    intro s v open_ cmt bad
    exact (ctlWrite_plain _ open_ (by decide)).trans (congrArg _ (plcCmtE_refused cmt bad))

/-! ## Migration and digests (R154 to R163) -/

section
variable {s : State}

theorem startWaiting_none (none_ : s.mig.waiting = []) : startWaiting s = s := by simp [startWaiting, none_]

theorem epochBoundaryE_safe (due : epochOver s = true) (safe : s.flt.safe = true) : epochBoundaryE s = { s with
    mig := { s.mig with loadLast := s.mig.load, load := [], epochAt := s.devtime }
    fe := { s.fe with caps := (List.range 8).foldl (fun m p => fmod {} m p GatherCap.epoch) s.fe.caps } } := by
  simp only [epochBoundaryE, due, safe, Bool.not_true, Bool.false_eq_true, if_false, if_true]

theorem epochBoundaryE_off (due : epochOver s = true) (safe : s.flt.safe = false) (fwd : s.mig.fwd = [])
    (sticky : s.mig.sticky = []) (off : bit (rget s 0x82020) 31 = false) : epochBoundaryE s = { s with
      mig := halveCounts { s.mig with
        loadLast := s.mig.load, load := [], epochAt := s.devtime, running := false, stickyOn := bit (rget s 0x82020) 30
        promoteAt := 16 * fld (rget s 0x82020) 23 16, demoteAt := 16 * fld (rget s 0x82020) 15 8
        epoch := fld (rget s 0x82020) 7 0, waiting := [] }
      fe := { s.fe with caps := (List.range 8).foldl (fun m p => fmod {} m p GatherCap.epoch) s.fe.caps } } := by
  have off_ (m : Migration) (f : FrontEnd) : bit (rget { s with mig := m, fe := f } 0x82020) 31 = false := off
  simp only [epochBoundaryE, due, safe, takeSettings, off_, demoteAll, fwd, sticky, List.foldl_nil, Bool.false_and, Bool.not_true,
    Bool.false_eq_true, if_false]
  rfl

theorem migrationCopyDoneE_turn {t side row : Nat} {f : Fwd} (has : s.mig.entry t side row = some f) (st : f.st = .copying)
    (warm : warmOn s.fe f.cmd = true)
    (turn : migTurn s f (fwdSlice s t row) ((tableOf s t).rowAddr side row) (tableOf s t).size = true) :
    let u := copyRow (fwdSlice s t row) ((tableOf s t).rowAddr side row) (slotAddr s f) (tableOf s t).stride
      (modSlice (fwdSlice s t row) (fun sl => { sl with gapMig := 0 }) s)
    let go (g : Fwd) : Fwd := { g with st := .forwarded, cmd := none }
    migrationCopyDoneE t side row s = { u with
      mig := { u.mig with fwd := mapWhere (isRow t side row) go u.mig.fwd }
      fe := countWarm f.cmd (restartReads t side row u.fe)
      rook := { u.rook with counts := { u.rook.counts with migrations := u.rook.counts.migrations + 1 } } } := by
  simp only [migrationCopyDoneE, has, st, warm, turn, ne_eq, not_true, decide_false, Bool.not_true, Bool.or_self,
    Bool.false_eq_true, if_false]

theorem returnHomeDoneE_turn {t side row : Nat} {f : Fwd} (has : s.mig.entry t side row = some f) (st : f.st = .returning)
    (turn : migTurn s f (fwdSlice s t row) (slotAddr s f) (tableOf s t).size = true) :
    returnHomeDoneE t side row s =
      startWaiting (returnHome f (modSlice (fwdSlice s t row) (fun sl => { sl with gapMig := 0 }) s)) := by
  simp only [returnHomeDoneE, has, st, turn, decide_true, Bool.and_self, if_true]

/-- Rows that all lie at populated addresses leave no record. -/
theorem recordNowhere_populated {t side : Nat} {d : TblDesc}
    (pop : ∀ r, r ≤ d.rows → rowNowhere s (rowCopy s t d side r).1 d.size = false) : recordNowhere t d side s = s := by
  have none_ : (List.range (d.rows + 1)).filter (fun r => rowNowhere s (rowCopy s t d side r).1 d.size) = [] :=
    List.filter_eq_nil_iff.mpr fun r hr => by simp [pop r (Nat.le_of_lt_succ (List.mem_range.mp hr))]
  rw [recordNowhere, none_, List.foldl_nil]

end

/-- Settles O26: the control register, epochs, copies and returns, releases and scans. -/
theorem migrationAndDigests : Obligations.MigrationAndDigests := by
  unfold Obligations.MigrationAndDigests
  refine ⟨?ctl, ?early, ?safe, ?off, ?copied, ?returned, ?released, ?scanned, ?populated⟩
  case ctl =>
    intro s v open_ period
    refine (ctlWrite_plain _ open_ (by decide)).trans (congrArg _ ?_)
    rw [migCtlWriteE, if_neg period]
  case early =>
    intro s runs early
    exact (live_runs _ runs).trans (congrArg _ (if_pos (by simp [early])))
  case safe =>
    intro s runs due safe
    exact (live_runs _ runs).trans (congrArg _ (epochBoundaryE_safe due safe))
  case off =>
    intro s runs due safe fwd sticky off
    exact (live_runs _ runs).trans (congrArg _ (epochBoundaryE_off due safe fwd sticky off))
  case copied =>
    rintro s t side row _ f runs has st warm rfl turn
    exact (live_runs _ runs).trans (congrArg _ (migrationCopyDoneE_turn has st warm turn))
  case returned =>
    intro s t side row f runs has st turn
    exact (live_runs _ runs).trans (congrArg _ (returnHomeDoneE_turn has st turn))
  case released =>
    intro s t side runs released safe
    exact (live_runs _ runs).trans (congrArg _ (if_pos (by simp [released, safe])))
  case scanned =>
    intro s t side runs st safe
    exact (live_runs _ runs).trans (congrArg _ (if_pos (by rw [st, safe]; rfl)))
  case populated =>
    intro s t side d pop
    exact recordNowhere_populated pop

/-! ## Castling (R149 to R153) -/

section
variable {s : State} {id : Nat} {c : Cmd} {drain : List (Nat × Nat)} (h : InPhase s id .castle .running c)
include h

section
variable (work : c.work = .castle false drain) (done : drained s.upd drain = true) (first : castlesBefore s.fe c = false)
include work done first

theorem castleCommitPointE_switches
    (valid : ((caEntries c.bytes).all fun e => (tableOf s e.1).valid && (tableOf s e.1).owner = c.ctx) = true)
    (cold : caWarm c.bytes = false) :
    castleCommitPointE id s = modCmd id (fun d => d.finish 0) { s with tbl := switchTables (caEntries c.bytes) s.tbl } := by
  obtain ⟨has, op, ph⟩ := h
  rw [castleCommitPointE, withCmd_yes has (by simp [op, ph])]
  simp only [work, done, first, valid, cold, readyCmd, Bool.not_true, Bool.or_self, Bool.false_eq_true, if_false]

theorem castleCommitPointE_badTable
    (bad : ((caEntries c.bytes).all fun e => (tableOf s e.1).valid && (tableOf s e.1).owner = c.ctx) = false) :
    castleCommitPointE id s = modCmd id (fun d => d.finish 0x14) s := by
  obtain ⟨has, op, ph⟩ := h
  rw [castleCommitPointE, withCmd_yes has (by simp [op, ph])]
  simp only [work, done, first, bad, readyCmd, Bool.not_true, Bool.not_false, Bool.or_self, Bool.false_eq_true, if_false, if_true]

end

theorem castleWarmDoneE_done (work : c.work = .castle true drain) (none_ : s.mig.waiting = [])
    (copied : (s.mig.fwd.any fun f => f.st = .copying && f.cmd = some id) = false) :
    castleWarmDoneE id s = modCmd id (fun d => d.finish 0) s := by
  obtain ⟨has, op, ph⟩ := h
  rw [castleWarmDoneE, withCmd_yes has (by simp [op, ph])]
  simp only [work, startWaiting_none none_, copied, none_, List.any_nil, readyCmd, Bool.or_self, Bool.false_eq_true, if_false]

end

/-- Settles O27: the commit point by the tables' validity, and the end of a warm phase. -/
theorem castlesSwitchTables : Obligations.CastlesSwitchTables := by
  unfold Obligations.CastlesSwitchTables
  refine ⟨?switch, ?bad, ?warm⟩
  case switch =>
    intro s id c drain runs h work done first valid cold
    exact (live_runs _ runs).trans (congrArg _ (castleCommitPointE_switches h work done first valid cold))
  case bad =>
    intro s id c drain runs h work done first bad
    exact (live_runs _ runs).trans (congrArg _ (castleCommitPointE_badTable h work done first bad))
  case warm =>
    intro s id c drain runs h work none_ copied
    exact (live_runs _ runs).trans (congrArg _ (castleWarmDoneE_done h work none_ copied))

/-! ## The catalogue (R165 to R171) -/

/-- Settles O28: the trigger and the lock of RET_CTL, the end of a write, and what is offered. -/
theorem catalogueRegistersAndEvents : Obligations.CatalogueRegistersAndEvents := by
  unfold Obligations.CatalogueRegistersAndEvents
  refine ⟨?trigger, ?lock, ?done, ?select, ?none_⟩
  case trigger =>
    intro s v open_ unlock trig idle base
    refine (ctlWrite_plain _ open_ (by decide)).trans (congrArg _ ?_)
    simp only [retCtlWrite, unlock, trig, idle, base, ne_eq, not_false_eq_true, decide_true, Bool.not_false, Bool.and_self,
      Bool.false_eq_true, if_false, if_true]
  case lock =>
    intro s v open_ lock trig
    refine (ctlWrite_plain _ open_ (by decide)).trans (congrArg _ ?_)
    simp only [retCtlWrite, lock, trig, Bool.false_and, Bool.false_eq_true, if_false, if_true]
  case done =>
    intro s runs busy safe
    exact (live_runs _ runs).trans (congrArg _ (if_pos (by simp [busy, safe])))
  case select =>
    intro s runs base
    refine (live_runs _ runs).trans (congrArg _ ?_)
    rw [catalogueSelectE, if_pos base]
  case none_ =>
    intro s runs noBase
    refine (live_runs _ runs).trans (congrArg _ ?_)
    rw [catalogueSelectE, if_neg (by simp [noBase])]

/-! ## The commit windows (R15, R16, R503) -/

/-- Settles O29: each select's own row, and a staged member of each kind of group. -/
theorem selectsAndStagedMembers : Obligations.SelectsAndStagedMembers := by
  unfold Obligations.SelectsAndStagedMembers
  refine ⟨fun s v => ⟨?tbl, ?ctx, ?sq, ?cq, ?atg⟩, fun s v => ⟨?cfg, ?bind, ?base⟩⟩
  all_goals exact fun open_ => ctlWrite_plain _ open_ (by decide)

/-- Settles O30: each commit by its rule, and what enabling does. -/
theorem commitsTakeAllOrNothingOfAGroup : Obligations.CommitsTakeAllOrNothingOfAGroup := by
  unfold Obligations.CommitsTakeAllOrNothingOfAGroup
  refine ⟨fun s v cmt => ⟨?tbl, ?tblBad, ?ctx, ?ctxBad, ?sq, ?sqBad, ?cq, ?atg, ?atgBad, ?rat, ?ratBad⟩, ?enables, ?keeps, ?freshSq,
    ?freshCq⟩
  case tbl =>
    intro open_ sound
    refine (ctlWrite_plain _ open_ (by decide)).trans (congrArg _ ?_)
    simp only [tblCmtE, cmt, sound, Bool.not_true, Bool.false_eq_true, if_false]
  case tblBad =>
    intro open_ bad
    refine (ctlWrite_plain _ open_ (by decide)).trans (congrArg _ ?_)
    simp only [tblCmtE, cmt, bad, Bool.not_true, Bool.false_eq_true, if_false, if_true]
  case ctx =>
    intro open_ sound
    refine (ctlWrite_plain _ open_ (by decide)).trans (congrArg _ ?_)
    simp only [ctxCmtE, cmt, sound, Bool.not_true, Bool.false_eq_true, if_false]
    rfl
  case ctxBad =>
    intro open_ bad
    refine (ctlWrite_plain _ open_ (by decide)).trans (congrArg _ ?_)
    simp only [ctxCmtE, cmt, bad, Bool.not_true, Bool.false_eq_true, if_false, if_true]
  case sq =>
    intro open_ sound en enNew
    refine (ctlWrite_plain _ open_ (by decide)).trans (congrArg _ ?_)
    simp only [qctlSqCmtE, cmt, sound, en, enNew, Bool.not_true, Bool.or_self, Bool.false_eq_true, if_false]
    rfl
  case sqBad =>
    intro open_ bad
    refine (ctlWrite_plain _ open_ (by decide)).trans (congrArg _ ?_)
    simp only [qctlSqCmtE, cmt, bad, Bool.not_true, Bool.false_eq_true, if_false, if_true]
  case cq =>
    intro open_ sound
    refine (ctlWrite_plain _ open_ (by decide)).trans (congrArg _ ?_)
    simp only [qctlCqCmtE, cmt, sound, Bool.not_true, Bool.false_eq_true, if_false]
    rfl
  case atg =>
    intro open_ sound
    refine (ctlWrite_plain _ open_ (by decide)).trans (congrArg _ ?_)
    simp only [atgCmtE, cmt, sound, Bool.not_true, Bool.false_eq_true, if_false]
  case atgBad =>
    intro open_ bad
    refine (ctlWrite_plain _ open_ (by decide)).trans (congrArg _ ?_)
    simp only [atgCmtE, cmt, bad, Bool.not_true, Bool.false_eq_true, if_false, if_true]
  case rat =>
    intro open_ idle sound
    refine (ctlWrite_plain _ open_ (by decide)).trans (congrArg _ ?_)
    simp only [ratCmtE, cmt, idle, sound, Bool.not_true, Bool.or_self, Bool.false_eq_true, if_false]
  case ratBad =>
    intro open_ idle bad
    refine (ctlWrite_plain _ open_ (by decide)).trans (congrArg _ ?_)
    simp only [ratCmtE, cmt, idle, bad, Bool.not_true, Bool.or_self, Bool.false_eq_true, if_false, if_true]
  case enables =>
    intro c r on off
    simp [Ctx.apply, on, off]
  case keeps =>
    intro c r same
    simp [Ctx.apply, same]
  case freshSq =>
    intro q r on off
    simp [Sq.apply, on, off]
  case freshCq =>
    intro q r on off
    simp [Cq.apply, on, off]

/-! ## Registers of the units (R264 to R266, R274, R278, R475, R76, R78, R363) -/

section
variable {s : State} {v : W32} {k : Nat}

/-- The ways register of a slice belongs to the slice's partition. -/
theorem ctlPart_ways (lt : k < 64) : ctlPart (0xA2000 + 16 * k) = some (k / 8) := by
  simp only [ctlPart, Bool.and_eq_true, decide_eq_true_eq]
  rw [if_neg (by omega), if_neg (by omega), if_pos (by omega)]
  congr 1
  omega

/-- The L1 enables of a cluster belong to the cluster's partition. -/
theorem ctlPart_l1 (lt : k < 64) : ctlPart (0xA3000 + 4 * k) = some (k / 8) := by
  simp only [ctlPart, Bool.and_eq_true, decide_eq_true_eq]
  rw [if_pos (by omega)]
  congr 1
  omega

theorem waysChangeDoneE_quiet (busy : (s.dc.slice k).busy = true)
    (quiet : ∀ l ∈ (s.dc.slice k).lines, (s.dc.slice k).cacheWays ≤ l.way → (s.dc.slice k).inTxn l.line = false) :
    waysChangeDoneE k s = modSlice k (fun sl => { sl with busy := false, result := 1 }) (cleanWays k s) := by
  have none_ : ((s.dc.slice k).lines.any fun l => (s.dc.slice k).cacheWays ≤ l.way && (s.dc.slice k).inTxn l.line) = false :=
    List.any_eq_false.mpr fun l hl => by
      simp only [Bool.and_eq_true, decide_eq_true_eq, not_and, Bool.not_eq_true]
      exact quiet l hl
  simp only [waysChangeDoneE, busy, none_, Bool.not_false, Bool.and_self, if_true]

/-- With no L1 of the cluster enabled, no L1 is disabled. -/
theorem l1ctlWriteE_off (lt : k < 64) (off : rget s (0xA3000 + 4 * k) &&& 0xF#32 = 0#32) :
    l1ctlWriteE k v s = rset (0xA3000 + 4 * k) (v &&& 0xF#32) s := by
  have off_ (i : Nat) (hi : i < 4) : bit (rget s (0xA3000 + 4 * k)) i = false := by
    have masked := congrArg (·.getLsbD i) off
    have inMask : (0xF#32).getLsbD i = true := (by decide : ∀ i < 4, (0xF#32).getLsbD i = true) i hi
    simpa [bit, BitVec.getLsbD_and, inMask] using masked
  have range4 : List.range 4 = [0, 1, 2, 3] := rfl
  simp [l1ctlWriteE, range4, off_, lt]

/-- A field of 16 bits taken from a word and put back is the word's. -/
theorem setFld_low_self (v m : W32) : setFld (v &&& m) 15 0 (fld v 15 0) = v &&& (m ||| 0xFFFF#32) := by
  apply BitVec.eq_of_getLsbD_eq
  intro i hi
  have field : (BitVec.ofNat 32 (fld v 15 0 * 2 ^ 0)).getLsbD i = (decide (i < 16) && v.getLsbD i) := by
    rw [BitVec.getLsbD_ofNat]
    rw [fld, bits, Nat.pow_zero, Nat.mul_one, Nat.div_one, Nat.testBit_mod_two_pow, BitVec.testBit_toNat, decide_eq_true hi,
      Bool.true_and]
  have low : (0xFFFF#32).getLsbD i = decide (i < 16) := (by decide : ∀ i < 32, (0xFFFF#32).getLsbD i = decide (i < 16)) i hi
  have masks (w : W32) (x : Nat) :
      setFld w 15 0 x = (w &&& ~~~(0xFFFF#32)) ||| (BitVec.ofNat 32 (x * 2 ^ 0) &&& 0xFFFF#32) := rfl
  simp only [masks, BitVec.getLsbD_or, BitVec.getLsbD_and, BitVec.getLsbD_not, field, low, hi, decide_true, Bool.true_and]
  cases v.getLsbD i <;> cases m.getLsbD i <;> cases decide (i < 16) <;> rfl

theorem partPwrctlWriteE_stays (lt : k < 8) (stay : bit v 30 = true) (long : 10 ≤ fld v 15 0) :
    partPwrctlWriteE k v s = rset (0x120100 + 4 * k) (v &&& 0x4000FFFF#32) s := by
  have some_ : ¬fld v 15 0 = 0 := by omega
  simp only [partPwrctlWriteE, some_, Nat.not_lt.mpr long, stay, lt, if_false, if_true, setFld_low_self]
  rfl

theorem mngCtlWrite_clear (lt : k < 10) (clear : bit v 0 = true) : mngCtlWrite k v s = { s with
    mng := fset {} s.mng k { freeze := bit v 1 }
    latch := fset 0 (fset 0 s.latch (0x60008 + 0x40 * k) 0) (0x60010 + 0x40 * k) 0 } := by
  simp only [mngCtlWrite, Nat.not_le.mpr lt, clear, if_false, if_true]
  rfl

theorem mngCtlWrite_keep (lt : k < 10) (keep : bit v 0 = false) : mngCtlWrite k v s = { s with
    mng := fset {} s.mng k { fget {} s.mng k with freeze := bit v 1 } } := by
  simp only [mngCtlWrite, Nat.not_le.mpr lt, keep, Bool.false_eq_true, if_false]
  rfl

end

/-- A key below those of a table has its default. -/
theorem fget_below {α : Type} [DecidableEq α] {d : Nat → α} {k lo : Nat} (below : k < lo) {m : FMap α}
    (wf : fwfFrom d lo m = true) (e : α) : fget e m k = e := by
  induction m generalizing lo with
  | nil => rfl
  | cons x m ih =>
    simp only [fwfFrom, Bool.and_eq_true, decide_eq_true_eq] at wf
    obtain ⟨⟨le, _⟩, rest⟩ := wf
    have other : x.1 ≠ k := by omega
    simp only [fget, other, if_false]
    exact ih (by omega) rest

/-- A register reads as it was written, whatever its value after reset. -/
theorem fget_fset_self {α : Type} [DecidableEq α] (d : Nat → α) (k : Nat) (v : α) {m : FMap α} {lo : Nat}
    (wf : fwfFrom d lo m = true) : fget (d k) (fset (d k) m k v) k = v := by
  induction m generalizing lo with
  | nil => by_cases reset : v = d k <;> simp [fset, fget, reset]
  | cons x m ih =>
    obtain ⟨j, u⟩ := x
    simp only [fwfFrom, Bool.and_eq_true, decide_eq_true_eq] at wf
    obtain ⟨_, rest⟩ := wf
    rcases Nat.lt_trichotomy k j with lt | rfl | gt
    · have other : j ≠ k := Nat.ne_of_gt lt
      by_cases reset : v = d k
      · simp [fset, fget, lt, reset, other, fget_below (Nat.lt_succ_of_lt lt) rest]
      · simp [fset, fget, lt, reset]
    · by_cases reset : v = d k
      · simp [fset, reset, fget_below (Nat.lt_succ_self k) rest]
      · simp [fset, fget, reset]
    · have other : j ≠ k := Nat.ne_of_lt gt
      simp only [fset, Nat.not_lt_of_gt gt, other.symm, if_false, fget, other]
      exact ih rest

/-- Writes of registers leave all but the registers, whose table stays in canonical form. -/
theorem foldl_rset (off : Nat → Nat) (v : State → Nat → W32) (l : List Nat) {s : State} (wf : fwf regReset s.regs = true) :
    ∃ r, l.foldl (fun s k => rset (off k) (v s k) s) s = { s with regs := r } ∧ fwf regReset r = true := by
  induction l generalizing s with
  | nil => exact ⟨s.regs, rfl, wf⟩
  | cons k l ih =>
    obtain ⟨r, eq, wf'⟩ := ih (s := rset (off k) (v s k) s) (fset_wf regReset (off k) _ _ wf)
    exact ⟨r, eq, wf'⟩

/-- A write of LAT_SEL keeps the counts of the set for reading, clears them, and takes the select's bits. -/
theorem latSelE_eq {s : State} (v : W32) (wf : fwf regReset s.regs = true) : ∃ r, fwf regReset r = true ∧
    latSelE v s = rset 0xD0000 (v &&& 0x3FF#32) { s with
      regs := r
      fe := { s.fe with lat := (List.range 52).foldl (fun m k => fset 0 m (64 * fld v 9 0 + k) 0) s.fe.lat } } := by
  obtain ⟨r, eq, wf'⟩ := foldl_rset (fun k => 0xD0100 + 4 * k)
    (fun s k => BitVec.ofNat 32 (fget 0 s.fe.lat (64 * fld v 9 0 + k))) (List.range 52) wf
  exact ⟨r, wf', by rw [latSelE, eq]⟩

/-- Settles O31: each register by its partition, its guard and its fields. -/
theorem unitRegistersTakeEffect : Obligations.UnitRegistersTakeEffect := by
  unfold Obligations.UnitRegistersTakeEffect
  refine ⟨?rat, ?ways, ?ways', ?changed, ?l1, ?pwr, ?clear, ?freeze, ?lat⟩
  case rat =>
    intro s runs busy quiet
    exact (live_runs _ runs).trans (congrArg _ (if_pos (by simp [busy, quiet])))
  case ways =>
    intro s k v open_ lt idle bad
    refine (ctlWrite_wakes _ open_ (ctlPart_ways lt)).trans (congrArg _ ?_)
    have refused : (decide (8 < fld v 11 8) || decide (10 < fld v 11 8 + fld v 3 0)) = true := by simpa using bad
    simp only [dcWaysWriteE, wakePart_dc, idle, refused, Bool.false_eq_true, if_false, if_true]
  case ways' =>
    intro s k v open_ lt idle scr off
    refine (ctlWrite_wakes _ open_ (ctlPart_ways lt)).trans (congrArg _ ?_)
    simp only [dcWaysWriteE, wakePart_dc, idle, Nat.not_lt.mpr scr, Nat.not_lt.mpr off, decide_false, Bool.or_self,
      Bool.false_eq_true, if_false]
  case changed =>
    intro s k runs busy quiet
    exact (live_runs _ runs).trans (congrArg _ (waysChangeDoneE_quiet busy quiet))
  case l1 =>
    intro s c v open_ lt off
    exact (ctlWrite_wakes _ open_ (ctlPart_l1 lt)).trans (congrArg _ (l1ctlWriteE_off lt off))
  case pwr =>
    intro s p v open_ lt stay long
    exact (ctlWrite_plain _ open_ (ctlPart_none (by omega) (by omega) (by omega) (by omega))).trans
      (congrArg _ (partPwrctlWriteE_stays lt stay long))
  case clear =>
    intro s k v open_ lt clear
    exact (ctlWrite_plain _ open_ (ctlPart_none (by omega) (by omega) (by omega) (by omega))).trans
      (congrArg _ (mngCtlWrite_clear lt clear))
  case freeze =>
    intro s k v open_ lt keep
    exact (ctlWrite_plain _ open_ (ctlPart_none (by omega) (by omega) (by omega) (by omega))).trans
      (congrArg _ (mngCtlWrite_keep lt keep))
  case lat =>
    intro s v open_ wf
    obtain ⟨r, wf', eq⟩ := latSelE_eq v wf
    have step := ctlWrite_plain (latSelE v) open_ (by decide)
    rw [eq] at step
    exact ⟨_, step, by simp only [rset_fe], fget_fset_self regReset _ _ wf', rfl, by simp only [rset_fe]⟩

end Sys2Proof.Machine

/-! SUPPORT. Launches (R198 to R210) and the coherence protocol (R276 to R286): teams placed, launches ended, requests and writes at
their homes; then the statements about them. -/

namespace Sys2Proof.Machine

/-! ## Launches and teams (R198, R199, R204, R206) -/

section
variable {s : State} {launch : Nat} {l : Launch} (has : findLaunch s launch = some l)
include has

theorem teamPlaceE_fits {core base : Nat} {slots : List Nat} (live_ : l.ending = none) (left : l.placed < l.nteams)
    (here : coreFor l core = true) (up : clusterInReset s (core / 4) = false) (safe : s.flt.safe = false)
    (room : fits s l core = some (base, slots))
    (may : s.fe.mayServe (.team (partOfCore core)) (teamReqs s (partOfCore core)) (l.ctx, l.sq) = true) :
    teamPlaceE launch core s = placeTeam l core base slots { s with
      fe := s.fe.serve (.team (partOfCore core)) (teamReqs s (partOfCore core)) (l.ctx, l.sq) 1 } := by
  simp only [teamPlaceE, has, live_, Option.isSome_none, Nat.not_le.mpr left, here, up, safe, room, may, decide_false,
    Bool.not_true, Bool.or_self, Bool.false_eq_true, if_false]

theorem groupWakeE_placed {team group : Nat} {t : Team} (placed : (l.teams.find? fun y => y.num = team) = some t) :
    groupWakeE launch team group s = modGroup launch team group
      (fun g => if g.wait = .event then { g with wait := .none } else g) { s with pwr := s.pwr.startClk (t.core / 4) } := by
  simp only [groupWakeE, has, placed]

theorem launchEndE_over (live_ : l.ending = none) (all_ : l.nteams ≤ l.placed) (gone : l.teams = [])
    (press : pressBusy s l.id = false) (mover : moverBusy s l.id = false) (held : storesHeld s l.cmd = false)
    (out : writesOut (settleLaunch l s) l.cmd = false) :
    launchEndE launch s = endLaunch launch (if l.resident then 0x20 else 0) (settleLaunch l s) := by
  have ended : launchOver s l = true := by simp [launchOver, all_, gone, press, mover]
  simp only [launchEndE, has, live_, ended, held, out, Bool.not_true, Bool.or_self, Bool.false_eq_true, if_false]

theorem launchEndE_ending {st : Byte} (ending : l.ending = some st) : launchEndE launch s = endLaunch launch st s := by
  simp only [launchEndE, has, ending]

end

/-- Settles O39: launches begin, teams are placed, groups wake, launches end. -/
theorem launchesAndTeams : Obligations.LaunchesAndTeams := by
  unfold Obligations.LaunchesAndTeams
  refine ⟨?plain, ?attach, ?place, ?wake, ?ends, ?ending⟩
  case plain =>
    intro s id c runs h attach
    exact (live_startOp runs h _).trans (congrArg _ (if_neg (by simp [attach])))
  case attach =>
    intro s id c runs h attach
    exact (live_startOp runs h _).trans (congrArg _ (if_pos attach))
  case place =>
    intro s launch core base slots l runs has live_ left here up safe room may
    exact (live_runs _ runs).trans (congrArg _ (teamPlaceE_fits has live_ left here up safe room may))
  case wake =>
    intro s launch team group l t runs has placed
    exact (live_runs _ runs).trans (congrArg _ (groupWakeE_placed has placed))
  case ends =>
    intro s launch l runs has live_ all_ gone press mover held out
    exact (live_runs _ runs).trans (congrArg _ (launchEndE_over has live_ all_ gone press mover held out))
  case ending =>
    intro s launch l st runs has ending
    exact (live_runs _ runs).trans (congrArg _ (launchEndE_ending has ending))

/-! ## Requests of the L1s (R282, R284) -/

/-- A foreground request whose slot is owed to no background work is taken. -/
theorem foreground_free {k : Nat} {write : Bool} (f : State → State) {s : State} (free : slotOwed s k write = false) :
    foreground k write f s = f (takeSlot k write s) := if_neg (by simp [free])

section
variable {s : State} {core line : Nat}

theorem requestRow_asked {own : Bool} (asked : asks s core line own = true) (up : clusterInReset s (core / 4) = false)
    (free : slotOwed s (lineHome line) false = false) :
    requestRow core line own s = request core line own (takeSlot (lineHome line) false s) := by
  rw [requestRow, if_pos (by simp [asked, up]), foreground_free _ free]

/-- A core with no write-back of the line absorbs none. -/
theorem absorbOwn_none (none_ : ((coreAt s core).wb.find? fun m => m.line = line) = none) : absorbOwn core line s = s := by
  simp only [absorbOwn, none_]

section
variable {own : Bool} (settled : ratWait s line = false) (room : l1Room s core line = true)
include settled room

theorem request_refused (busy : refused s core line (reqKind own) = true) :
    request core line own s = refuse core line (reqKind own) s := by
  simp only [request, settled, room, busy, Bool.not_true, Bool.or_self, Bool.false_eq_true, if_false, if_true]

/-- A request with its entry's room goes on by its kind. -/
theorem request_room (free : refused s core line (reqKind own) = false)
    (none_ : ((coreAt s core).wb.find? fun m => m.line = line) = none)
    (keeps : keepsLine (clearNak core line (reqKind own) s) core line = true)
    (entry : dirRoom (clearNak core line (reqKind own) s) line = .room) :
    request core line own s =
      if own then readOwn core line (missMask (clearNak core line (reqKind own) s) core line own) (clearNak core line (reqKind own) s)
      else readShared core line (missMask (clearNak core line (reqKind own) s) core line own) (clearNak core line (reqKind own) s) := by
  have absorb : absorbOwn core line (clearNak core line (reqKind own) s) = clearNak core line (reqKind own) s := absorbOwn_none none_
  simp only [request, settled, room, free, absorb, keeps, entry, Bool.not_true, Bool.or_self, Bool.false_eq_true, if_false]

end

/-- With no entry in the directory no other core holds the line. -/
theorem others_none (noEntry : dirOf s line = none) : others s line core = [] := by simp only [others, noEntry]

section
variable {need : BitVec 4} {g : LineGrant} (noEntry : dirOf s line = none) (home : homeLine s (lineHome line) line need = some g)
  (host : hostOwns s (lineHome line) line = true)
include noEntry home host

theorem readOwn_home : readOwn core line need s = giveLine core line .M g (useSide (lineHome line) line s) := by
  simp only [readOwn, others_none noEntry, host, home, ne_eq, not_true, Bool.not_true, Bool.false_eq_true, if_false]

theorem readShared_home (keeps : keepsLine s core line = true) :
    readShared core line need s = giveLine core line .E g (useSide (lineHome line) line s) := by
  simp only [readShared, keeps, noEntry, Option.bind_none, home, others_none noEntry, host, ne_eq, not_true, decide_false,
    Bool.not_true, Bool.or_self, Bool.false_eq_true, if_false]

end

theorem nakRetryE_wanted {n : Nak} {own : Bool}
    (has : ((s.dc.slice (lineHome line)).naks.find? fun n => n.core = core && n.line = line) = some n) (wanted : n.wanted s = true)
    (may : mayRetry s core line n.kind = true) (free : slotOwed s (lineHome line) false = false) (kind : n.kind = reqKind own) :
    nakRetryE core line s = request core line own (takeSlot (lineHome line) false s) := by
  simp only [nakRetryE, has, wanted, may, Bool.not_true, Bool.false_eq_true, if_false]
  cases own <;> simp only [kind, reqKind, Bool.false_eq_true, if_false, if_true, foreground_free _ free]

theorem askLine_fetches {need : BitVec 4} (notReady : lineReady s line need = false)
    (may : mayRetry s noCopy line .readCurrent = true) (new : s.dc.want.contains line = false)
    (free : refused { s with dc := { s.dc with want := s.dc.want ++ [line] } } noCopy line .readCurrent = false) :
    askLine line need s = fetchSectors (lineHome line) line need
      (clearNak noCopy line .readCurrent { s with dc := { s.dc with want := s.dc.want ++ [line] } }) := by
  simp only [askLine, notReady, may, new, free, Bool.not_true, Bool.false_eq_true, if_false]

/-! ## Writes toward the homes (R277, R282, R286) -/

section
variable {e : StoreEnt}

theorem writeThroughE_goes (oldest : oldestStore (coreAt s core) = some e) (settled : ratWait s e.line = false)
    (may : mayRetry s core e.line .writeThrough = true) (can : homeCan s e.line = true)
    (free : slotOwed s (lineHome e.line) true = false) :
    writeThroughE core s = storeGo core e (takeSlot (lineHome e.line) true s) := by
  simp only [writeThroughE, oldest, settled, may, can, Bool.not_true, Bool.or_self, Bool.false_eq_true, if_false,
    foreground_free _ free]

theorem storeGo_refused (busy : refused s core e.line .writeThrough = true) :
    storeGo core e s = refuse core e.line .writeThrough s := if_pos busy

/-- A store that its home takes is merged, or begun as a transaction on the line that others hold. -/
theorem storeGo_taken (free : refused s core e.line .writeThrough = false)
    (none_ : ((coreAt s core).wb.find? fun m => m.line = e.line) = none) :
    storeGo core e s =
      if others (clearNak core e.line .writeThrough s) e.line core = [] then
        mergeNow e.line (.core core e.cmd) e.bytes (storeTag (clearNak core e.line .writeThrough s) e.launch e.line)
          (clearNak core e.line .writeThrough s)
      else startTxn e.line
        (.merge (.core core e.cmd) e.bytes (storeTag (clearNak core e.line .writeThrough s) e.launch e.line)) true
        (others (clearNak core e.line .writeThrough s) e.line core) (clearNak core e.line .writeThrough s) := by
  have absorb : absorbOwn core e.line (clearNak core e.line .writeThrough s) = clearNak core e.line .writeThrough s :=
    absorbOwn_none none_
  simp only [storeGo, free, absorb, Bool.false_eq_true, if_false]

end

theorem writeE_next {w : PendWrite} (next_ : nextWrite s = some w) : writeE s = writeGo w (takeSlot (lineHome w.line) true s) := by
  have ready := List.find?_some next_
  simp only [Bool.and_eq_true, Bool.not_eq_true'] at ready
  obtain ⟨_, free⟩ := ready
  simp only [writeE, next_, foreground_free _ free]

theorem writeGo_alone {w : PendWrite} (free : refused s noCopy w.line .write = false)
    (alone : others (clearNak noCopy w.line .write { s with dc := { s.dc with
      writes := dropFirst (fun x => decide (x = w)) s.dc.writes } }) w.line noCopy = []) :
    writeGo w s = mergeNow w.line w.who w.bytes w.tag (clearNak noCopy w.line .write { s with dc := { s.dc with
      writes := dropFirst (fun x => decide (x = w)) s.dc.writes } }) := by
  simp only [writeGo, free, alone, Bool.false_eq_true, if_false, if_true]

theorem writeBackE_front {m : L1Line} {rest : List L1Line} (front : (coreAt s core).wb = m :: rest) (quiet : txnOn s m.line = none)
    (settled : ratWait s m.line = false) : writeBackE core s = homeData (lineHome m.line) m (dirRemove core m.line
      (modCore core (fun k => { k with wb := rest }) s)) := by
  simp only [writeBackE, front, quiet, settled, Option.isSome_none, Bool.or_self, Bool.false_eq_true, if_false]

theorem evictNoticeE_left (noted : (coreAt s core).notices.contains line = true) (quiet : txnOn s line = none)
    (left : ((coreAt (modCore core (fun k => { k with notices := dropFirst (fun x => decide (x = line)) k.notices }) s) core).line
      line) = none) : evictNoticeE core line s = dirRemove core line
      (modCore core (fun k => { k with notices := dropFirst (fun x => decide (x = line)) k.notices }) s) := by
  simp only [evictNoticeE, noted, quiet, left, Option.isSome_none, Bool.not_true, Bool.or_self, Bool.false_eq_true, if_false]

end

/-- Settles O40: requests and writes by what stands in their way. -/
theorem coherenceRequestsAndWrites : Obligations.CoherenceRequestsAndWrites := by
  unfold Obligations.CoherenceRequestsAndWrites
  refine ⟨?shared, ?own, ?refused, ?given, ?retry, ?current, ?ready, ?fetch, ?store, ?storeRefused, ?write, ?back, ?notice⟩
  case shared =>
    intro s core line runs asked up free
    exact (live_runs _ runs).trans (congrArg _ (requestRow_asked asked up free))
  case own =>
    intro s core line runs asked up free
    exact (live_runs _ runs).trans (congrArg _ (requestRow_asked asked up free))
  case refused =>
    intro s core line own settled room busy
    exact request_refused settled room busy
  case given =>
    intro s core line own g settled room free none_ t keeps entry noEntry home host
    rw [request_room settled room free none_ keeps entry]
    cases own with
    | true => exact readOwn_home noEntry home host
    | false => exact readShared_home noEntry home host keeps
  case retry =>
    intro s core line n own runs has wanted may free kind
    exact (live_runs _ runs).trans (congrArg _ (nakRetryE_wanted has wanted may free kind))
  case current =>
    intro s line runs dev settled free
    refine (live_runs _ runs).trans (congrArg _ ?_)
    exact (if_neg (by simp [dev, settled])).trans (foreground_free _ free)
  case ready =>
    intro s line need ready
    exact if_pos ready
  case fetch =>
    intro s line need notReady may new t free
    exact askLine_fetches notReady may new free
  case store =>
    intro s core e runs up oldest settled may can free none_ u t taken
    have go : exec (.writeThrough core) s = .next (storeGo core e u) :=
      (live_unreset runs up _).trans (congrArg _ (writeThroughE_goes oldest settled may can free))
    rw [go, storeGo_taken taken none_]
    exact ⟨fun alone => congrArg _ (if_pos alone), fun held => congrArg _ (if_neg held)⟩
  case storeRefused =>
    intro s core e runs up oldest settled may can free u busy
    refine (live_unreset runs up _).trans (congrArg _ ?_)
    rw [writeThroughE_goes oldest settled may can free, storeGo_refused busy]
  case write =>
    intro s w runs next_ u t taken alone
    refine (live_runs _ runs).trans (congrArg _ ?_)
    rw [writeE_next next_, writeGo_alone taken alone]
  case back =>
    intro s core m rest runs front quiet settled
    exact (live_runs _ runs).trans (congrArg _ (writeBackE_front front quiet settled))
  case notice =>
    intro s core line runs noted quiet left
    exact (live_runs _ runs).trans (congrArg _ (evictNoticeE_left noted quiet left))

/-! ## Side buffers (R271) -/

/-- A line put into a side buffer at the start. -/
def staleLine : SideEnt := { line := 0, data := [], placed := 0#64 }

/-- A state of a powered partition 0 whose table of slices lists slice 1 before slice 0: the write of slice 0 at its reset value is
taken as one that lists nothing, and the slice listed later stays. -/
def disorderedSlices : State := { State.reset with
  devtime := 50000#64
  pwr := { State.reset.pwr with on := 8#11, lockd := 8#11 }
  dc := { State.reset.dc with slices := [(1, {}), (0, { sliceDef 0 with side := [staleLine] })] } }

/-- Refutes O41: its clause on side buffers asks of every table of slices what holds of the ordered ones. A table that lists slice 1
before slice 0 keeps the line of slice 0 that has been there for 50 µs, since the write of the emptied slice finds slice 1 first and, the
slice being as after reset, changes nothing. -/
theorem not_snoopsAndExpiries : ¬ Obligations.SnoopsAndExpiries := by
  unfold Obligations.SnoopsAndExpiries
  intro h
  obtain ⟨_, _, _, _, expiry, _⟩ := h
  obtain ⟨t, _, gone, rfl⟩ := expiry disorderedSlices 0 0 staleLine (by decide +kernel) (by decide +kernel) rfl (by decide +kernel)
  exact gone (by decide +kernel)

end Sys2Proof.Machine

/-! SUPPORT. Transfers and page requests (R317 to R327), translations (R312 to R316), and the memory ports (R301 to R311); then the
statements about them. -/

namespace Sys2Proof.Machine

/-! ## `MOVE` and the rows of a transfer (R319, R322, R327) -/

section
variable {s : State} {id : Nat} {c : Cmd}

theorem moveE_unaligned (host : ReadBack) (h : InPhase s id .move .checked c) (unaligned : mvDesc c.bytes % 64 ≠ 0) :
    moveE id host s = admitNow id 0x13 s := by
  obtain ⟨has, op, ph⟩ := h
  rw [moveE, withCmd_yes has (by simp [op, ph]), if_pos unaligned]

theorem moveE_read {host : ReadBack} {d : Bytes} {devs : List (Nat × Nat)} (h : InPhase s id .move .checked c)
    (aligned : mvDesc c.bytes % 64 = 0) (read : moveDesc s c host = .ok d devs) :
    moveE id host s = beginMove id d (admitNow id (moveStatus s c.ctx d) (doneRanges devs s)) := by
  obtain ⟨has, op, ph⟩ := h
  rw [moveE, withCmd_yes has (by simp [op, ph]), if_neg (not_not_intro aligned)]
  simp only [read]

theorem beginMove_admitted {d : Bytes} (h : InPhase s id .move .admitted c) :
    beginMove id d s = modCmd id (fun k => { k with phase := .waitSeq, work := .move s.mov.next })
      (addXfer (.cmd id) c.ctx c.gen d none false s) := by
  obtain ⟨has, op, ph⟩ := h
  rw [beginMove, withCmd_yes has (by simp [op, ph])]

end

section
variable {s : State} {id n : Nat} {x : Xfer} (has : findXfer s id = some x)
include has

theorem moverRowE_starts (host : ReadBack) (bad : List Nat) (going : x.isOver = false)
    (new : (x.rows.find? fun r => r.n = n) = none) (turn : rowTurn s x n = true) :
    moverRowE id n host bad s = startRow x n host bad s := by
  simp only [moverRowE, has, going, new, turn, Bool.false_eq_true, if_false, if_true]

theorem moverRowE_delivers (host : ReadBack) (bad : List Nat) {r : XRow} (going : x.isOver = false)
    (row : (x.rows.find? fun r => r.n = n) = some r) (open_ : r.done = false) (out : rowOut s id n = false) :
    moverRowE id n host bad s = deliverRow x n s := by
  simp only [moverRowE, has, going, row, open_, out, Bool.or_self, Bool.false_eq_true, if_false]

/-! ## Page request groups (R317, R318) -/

theorem pageRequestGroupE_room {p : Nat × Bool} {i : Nat} (stuck : x.stuck = some p) (index : freeIndex s.atc = some i)
    (none_ : x.prg = none) (able : s.atc.prFail = false) (safe : s.flt.safe = false)
    (room : sumOf (s.atc.prgs.map fun g => g.pages.length) + (groupPages s x p).length ≤ min 2048 s.hif.prAlloc) :
    pageRequestGroupE id s = sendPages (pasidOf s x.ctx) i (groupPages s x p) (modXfer id (fun x => { x with prg := some i })
      { s with atc := { s.atc with prgs := s.atc.prgs ++
        [{ index := i, xfer := id, pages := (groupPages s x p).map Prod.fst, since := s.devtime, abandoned := false }] } }) := by
  simp only [pageRequestGroupE, has, stuck, index, none_, Option.isSome_none, able, safe, Nat.not_lt.mpr room, decide_false,
    Bool.or_self, Bool.false_eq_true, if_false]

end

/-- A group of page requests holds 64 pages at most. -/
theorem groupPages_length (s : State) (x : Xfer) (p : Nat × Bool) : (groupPages s x p).length ≤ 64 := by
  rw [groupPages, List.length_cons, List.length_take]
  omega

/-- The faulting page comes first, with at least the right that it faulted on. -/
theorem groupPages_head (s : State) (x : Xfer) (p : Nat × Bool) :
    ∃ w, (groupPages s x p).head? = some (p.1, w) ∧ (p.2 = true → w = true) :=
  ⟨_, rfl, fun write => by rw [write, Bool.true_or]⟩

section
variable {s : State} {i : Nat} {g : Prg} {x : Xfer}

section
variable (group : (s.atc.prgs.find? fun g => g.index = i) = some g) (has : findXfer s g.xfer = some x) (here : g.abandoned = false)
  (waits : x.prg = some i)
include group has here waits

theorem prgResponseE_success : prgResponseE i 0 s = modXfer x.id Xfer.resume (freePrg i s) := by
  have has_ : findXfer (freePrg i s) g.xfer = some x := has
  simp [prgResponseE, group, here, waits, has_]

theorem prgResponseE_failure : prgResponseE i 15 s = failXfer x (x.stuck.map fun p => p.1 * 4096)
    { s with atc := { s.atc with prgs := s.atc.prgs.filter fun g => g.index ≠ i, prFail := true } } := by
  have has_ (a : Atc) : findXfer { freePrg i s with atc := a } g.xfer = some x := has
  have failure : ¬15 = 0 := by decide
  simp only [prgResponseE, group, here, waits, has_, decide_true, Bool.not_false, Bool.and_self, if_true, ne_eq, not_true,
    decide_false, Bool.or_self, Bool.false_eq_true, if_false, failure]
  rfl

end

theorem prgTimeoutE_late
    (group : (s.atc.prgs.find? fun g => g.index = i && !g.abandoned && 2000000000 ≤ since s.devtime g.since) = some g)
    (has : findXfer s g.xfer = some x) (waits : x.prg = some i) :
    prgTimeoutE i s = failXfer x (x.stuck.map fun p => p.1 * 4096) { s with atc := { s.atc with
      prgs := mapWhere (fun g => decide (g.index = i)) (fun g => { g with abandoned := true }) s.atc.prgs } } := by
  have has_ (a : Atc) : findXfer { s with atc := a } g.xfer = some x := has
  simp only [prgTimeoutE, group, has_, waits, if_true]

end

/-- Settles O42: a `MOVE`'s descriptor, the rows in their turn, and the page requests with their responses. -/
theorem transfersProgress : Obligations.TransfersProgress := by
  unfold Obligations.TransfersProgress
  refine ⟨?unaligned, ?read, ?begins, ?starts, ?delivers, ?group, ?pages, ?success, ?failure, ?late⟩
  case unaligned =>
    intro s id host c runs h unaligned
    exact (live_runs _ runs).trans (congrArg _ (moveE_unaligned host h unaligned))
  case read =>
    intro s id host d devs c runs h aligned read
    exact (live_runs _ runs).trans (congrArg _ (moveE_read h aligned read))
  case begins =>
    intro s id d c h
    exact beginMove_admitted h
  case starts =>
    intro s id n host bad x runs has going new turn
    exact (live_runs _ runs).trans (congrArg _ (moverRowE_starts has host bad going new turn))
  case delivers =>
    intro s id n host bad x r runs has going row open_ out
    exact (live_runs _ runs).trans (congrArg _ (moverRowE_delivers has host bad going row open_ out))
  case group =>
    intro s id x p i runs has stuck index none_ able safe room
    exact (live_runs _ runs).trans (congrArg _ (pageRequestGroupE_room has stuck index none_ able safe room))
  case pages =>
    intro s x p
    exact ⟨groupPages_length s x p, groupPages_head s x p⟩
  case success =>
    intro s i g x runs group has here waits
    exact (live_runs _ runs).trans (congrArg _ (prgResponseE_success group has here waits))
  case failure =>
    intro s i g x runs group has here waits
    exact (live_runs _ runs).trans (congrArg _ (prgResponseE_failure group has here waits))
  case late =>
    intro s i g x runs group has waits
    exact (live_runs _ runs).trans (congrArg _ (prgTimeoutE_late group has waits))

/-! ## Translations (R312, R314, R316, R392) -/

section
variable {s : State} {q : Nat} {r : XlatReq}

/-- A completion of the present generation, with what it brings the cache. -/
theorem translationCompletionE_current (x : XlatResult) (req : (s.atc.reqs.find? fun r => r.id = q) = some r)
    (gen : r.gen = (s.fe.ctxOf r.ctx).gen) : translationCompletionE q x s = xlated r (resultOf r x) (match x with
      | .success ppn rd wr n => { dropReq q s with atc := (dropReq q s).atc.install r ppn rd wr n }
      | .denied => dropReq q s) := by
  have current : r.current (dropReq q s) = true := decide_eq_true gen
  cases x <;> simp only [translationCompletionE, req, current, Bool.not_true, Bool.false_eq_true, if_false]

theorem translationTimeoutE_late
    (req : (s.atc.reqs.find? fun r => r.id = q && s.hif.cto ≤ since s.devtime r.since) = some r)
    (gen : r.gen = (s.fe.ctxOf r.ctx).gen) :
    translationTimeoutE q s = xlated r .denied (logAer .completionTimeout (dropReq q s)) := by
  have current : r.current (logAer .completionTimeout (dropReq q s)) = true := decide_eq_true gen
  simp only [translationTimeoutE, req, current, if_true]

theorem invalidationCompletionE_quiet {itag : Nat} {i : Inv} (inv : (s.atc.invs.find? fun i => i.itag = itag) = some i)
    (quiet : pagesBusy s i.ppns = false) : invalidationCompletionE itag s = emitMem (.invalidationCompletion itag)
      { s with atc := { s.atc with invs := s.atc.invs.filter fun x => x.itag ≠ itag } } := by
  simp only [invalidationCompletionE, inv, quiet, Bool.false_eq_true, if_false]

end

/-- A cache with room replaces what it holds of the pages by the result. -/
theorem install_room (a : Atc) (r : XlatReq) (ppn n : Nat) (room : a.ents.length < 16384) :
    (a.install r ppn true true n).ents = (a.ents.filter fun e => !(r.entry ppn true true n).meets e) ++ [r.entry ppn true true n] := by
  have kept : (a.ents.filter fun e => !(r.entry ppn true true n).meets e).length < 16384 :=
    Nat.lt_of_le_of_lt (List.length_filter_le _ _) room
  simp [Atc.install, Nat.not_le.mpr kept]

/-- Settles O43: completions, timeouts, what the cache holds, and invalidations. -/
theorem translationsAndInvalidations : Obligations.TranslationsAndInvalidations := by
  unfold Obligations.TranslationsAndInvalidations
  refine ⟨?success, ?denied, ?unexpected, ?install, ?entry, ?late, ?inv, ?done⟩
  case success =>
    intro s q ppn n rd wr r runs req gen
    exact (live_runs _ runs).trans (congrArg _ (translationCompletionE_current (.success ppn rd wr n) req gen))
  case denied =>
    intro s q r runs req gen
    exact (live_runs _ runs).trans (congrArg _ (translationCompletionE_current .denied req gen))
  case unexpected =>
    intro s q x runs none_
    refine (live_runs _ runs).trans (congrArg _ ?_)
    simp only [translationCompletionE, none_, logAer]
  case install =>
    intro a r ppn n room
    exact ⟨install_room a r ppn n room, rfl⟩
  case entry =>
    intro r ppn rd wr
    simp [XlatReq.entry, Nat.mod_one]
  case late =>
    intro s q r runs req gen
    exact (live_runs _ runs).trans (congrArg _ (translationTimeoutE_late req gen))
  case inv =>
    intro s itag pasid page pages runs
    exact live_runs _ runs
  case done =>
    intro s itag i runs inv quiet
    exact (live_runs _ runs).trans (congrArg _ (invalidationCompletionE_quiet inv quiet))

/-! ## Ports (R301 to R311) -/

section
variable {s : State} {p tag : Nat} {r : PReq}

/-- A sector that is in order leaves nothing behind it. -/
theorem foldl_sectorEvent_ok {st : List SectorStatus} (ok : ∀ k, statusOf st k = .ok) (l : List Nat) (s : State) :
    l.foldl (fun s k => sectorEvent p r (statusOf st k) k s) s = s := by
  induction l generalizing s with
  | nil => rfl
  | cons k l ih =>
    rw [List.foldl_cons, ih, ok k]
    rfl

/-- Sectors neither lost nor poisoned at the port nor in its own copy reach their requester sound. -/
theorem badSectors_none {st : List SectorStatus} (ok : ∀ k, isBadStatus (statusOf st k) = false) (sound : r.snapBad = 0) :
    badSectors r st = 0 := by
  have none_ : (List.range 4).filter (fun k => r.smask.getLsbD k && (isBadStatus (statusOf st k) || r.snapBad.getLsbD k)) = [] :=
    List.filter_eq_nil_iff.mpr fun k _ => by simp [ok k, sound]
  rw [badSectors, none_]
  rfl

/-- Read data: the request leaves, its bytes are counted, it is answered, its sectors are recorded. -/
theorem portReadDataE_sent {st : List SectorStatus}
    (sent : ((portAt s.ports p).sent.find? fun r => isRead r && r.tag = tag) = some r)
    (turn : inHostOrder (portAt s.ports p) r = true) :
    portReadDataE p tag st s = pumpFreed (decide (65536 ≤ allReads s.ports)) p
      (((List.range 4).filter fun k => r.smask.getLsbD k).foldl (fun s k => sectorEvent p r (statusOf st k) k s)
        (answerRead r (badSectors r st) (countPort p (maskBytes r.smask)
          (modPort p (fun q => { q with sent := dropFirst (fun x => decide (x = r)) q.sent }) s)))) := by
  simp only [portReadDataE, sent, turn, Bool.not_true, Bool.false_eq_true, if_false]

/-- The record and the conditional write of a corrected first sector (R305, R311). -/
theorem sectorEvent_corr (fresh : r.stale = 0) (line : r.dline ≠ noLine) : sectorEvent p r .corr 0 s = portEnqueue p
      { op := .wr, pline := r.pline, dline := r.dline, smask := 1, who := .scrub, cond := true
        bytes := placed (r.dline * 128) (slice r.snap 0 32) }
      (detect (partOfPort p) (report 0x38 none (locPort p) (some (r.pline * 128)) (r.dline * 128 + 2 ^ 63)) s) := by
  simp [sectorEvent, fresh, line]

theorem portWriteAckE_record {id : Nat} (sent : ((portAt s.ports p).sent.find? fun r => r.op = .wr && r.tag = tag) = some r)
    (who : r.who = .record id) : portWriteAckE p tag s = pump p (settleTags
      (modPort p (fun q => { q with sent := dropFirst (fun x => decide (x = r)) q.sent }) s)) := by
  simp only [portWriteAckE, sent, inHostOrder, who, settleWho, Bool.not_true, Bool.false_eq_true, if_false]

theorem portWriteAckE_host {hpa : Nat} (sent : ((portAt s.ports p).sent.find? fun r => r.op = .wr && r.tag = tag) = some r)
    (who : r.who = .hostWrite hpa) (turn : inHostOrder (portAt s.ports p) r = true) :
    portWriteAckE p tag s = pump p (emit (.memCmp hpa)
      (modPort p (fun q => { q with sent := dropFirst (fun x => decide (x = r)) q.sent }) s)) := by
  simp only [portWriteAckE, sent, turn, who, Bool.not_true, Bool.false_eq_true, if_false]

section
variable {l : List PReq} (front : (portAt s.ports p).sent = r :: l)
include front

theorem portLostE_overdue (late : overdue s.devtime r = true) (new : (portAt s.ports p).lost = false) :
    portLostE p s = answerAll p (modPort p (fun q => { q with lost := true })
      (detect (partOfPort p) { report 0x3A none (locPort p) none (opCode r.op + r.tag * 2 ^ 3 + r.pline * 2 ^ 32) with
        owner := some (lossKey p) } s)) := by
  have found : (r :: l).find? (overdue s.devtime) = some r := List.find?_cons_of_pos late
  simp only [portLostE, front, found, new, List.headD_cons]

/-- A first training, without KEEP, notes the port's capacity. -/
theorem portReadyE_first (cap : Nat) (first : r.op = .trn false) :
    let go (q : Port) : Port := { q with
      sent := q.sent.filter fun r => r.op ≠ .trn false && r.op ≠ .sre
      selfRefresh := false
      ready := true
      lost := false
      cap := cap }
    portReadyE p cap s = pump p { modPort p go s with
      mem := { (modPort p go s).mem with capTrained := fset 0 s.mem.capTrained p cap } } := by
  simp only [portReadyE, front, List.findSome?_cons, first, Bool.not_false, if_true]
  rfl

end

/-- The device line of a port line, where the map leads back to the port line. -/
def scrubDevLine (s : State) (p line : Nat) : Nat := match s.mem.deviceLine p line with
  | some d => if s.mem.port (d * 128) = some (p, line) then d else noLine
  | none => noLine

theorem scrubDevLine_spec (s : State) (p line : Nat) :
    scrubDevLine s p line = noLine ∨ s.mem.port (scrubDevLine s p line * 128) = some (p, line) := by
  rw [scrubDevLine]
  split
  · split
    · exact .inr ‹_›
    · exact .inl rfl
  · exact .inl rfl

theorem scrubReadE_on (on : bit (rget s 0xB0020) 31 = true) (present : s.mem.present p = true)
    (awake : (portAt s.ports p).selfRefresh = false) (noCtl : (((portAt s.ports p).queue ++ (portAt s.ports p).sent).any isCtl) = false)
    (alive : portDead s.mem s.ports p = false) (some_ : portLines p (portAt s.ports p).cap ≠ 0) :
    let n := portLines p (portAt s.ports p).cap
    let line := (portAt s.ports p).scrubLine % n
    scrubReadE p s = portEnqueue p
      { op := .scr, pline := line, dline := scrubDevLine s p line, smask := 0xF#4, who := .scrub }
      (modPort p (fun q => { q with
        scrubLine := (line + 1) % n
        passes := if line + 1 = n then q.passes + 1 else q.passes }) s) := by
  simp only [scrubReadE, on, present, awake, noCtl, alive, some_, decide_false, Bool.not_true, Bool.or_self, Bool.false_eq_true,
    if_false]
  rfl

end

/-- Settles O44: what each event of a port does. -/
theorem portsAnswer : Obligations.PortsAnswer := by
  unfold Obligations.PortsAnswer
  refine ⟨?credit, ?data, ?corr, ?record, ?host, ?sre, ?srx, ?lost, ?ready, ?absent, ?scrub⟩
  case credit =>
    intro s p runs
    exact live_runs (fun s => pump p (modPort p (fun q => { q with credits := q.credits + 1 }) s)) runs
  case data =>
    intro s p tag st r runs sent turn ok sound
    refine (live_runs _ runs).trans (congrArg _ ?_)
    rw [portReadDataE_sent sent turn, foldl_sectorEvent_ok ok, badSectors_none (fun k => by rw [ok k]; rfl) sound]
  case corr =>
    intro s p tag r runs sent turn sound one fresh line
    refine (live_runs _ runs).trans (congrArg _ ?_)
    have first : (List.range 4).filter (fun k => r.smask.getLsbD k) = [0] := by rw [one]; rfl
    have ok (k : Nat) : isBadStatus (statusOf [.corr] k) = false := by cases k <;> rfl
    have bytes : maskBytes r.smask = 32 := by rw [one]; rfl
    rw [portReadDataE_sent sent turn, first, badSectors_none ok sound, bytes]
    exact congrArg _ (sectorEvent_corr fresh line)
  case record =>
    intro s p tag r id runs sent who
    exact (live_runs _ runs).trans (congrArg _ (portWriteAckE_record sent who))
  case host =>
    intro s p tag hpa r runs sent who turn
    exact (live_runs _ runs).trans (congrArg _ (portWriteAckE_host sent who turn))
  case sre =>
    intro s p runs sent
    exact (live_runs _ runs).trans (congrArg _ (if_pos sent))
  case srx =>
    intro s p runs sent
    exact (live_runs _ runs).trans (congrArg _ (if_pos sent))
  case lost =>
    intro s p r l runs front late new
    exact (live_runs _ runs).trans (congrArg _ (portLostE_overdue front late new))
  case ready =>
    intro s p cap r l runs front first
    exact (live_runs _ runs).trans (congrArg _ (portReadyE_first front cap first))
  case absent =>
    intro s powered late unmapped
    exact (live_aon _ powered).trans (congrArg _ (if_pos (by simp [late, unmapped])))
  case scrub =>
    intro s p runs on present awake noCtl alive some_
    exact ⟨scrubDevLine s p _, (live_runs _ runs).trans (congrArg _ (scrubReadE_on on present awake noCtl alive some_)),
      scrubDevLine_spec s p _⟩

end Sys2Proof.Machine

/-! SUPPORT. The host link: CXL.cache snoops and responses (R379 to R381), CXL.mem (R376, R377), link events and configuration (R366 to
R399); then the statements about them. -/

namespace Sys2Proof.Machine

/-! ## Snoops and responses of CXL.cache (R379 to R381, R444) -/

section
variable {s : State}

theorem hostSnoopE_now {pa : Nat} (op : Snp) (linked : s.hif.linkUp = true) (safe : s.flt.safe = false)
    (clocked : s.pwr.pllOff.getLsbD (partOfSlice (lineHome (hostLine + pa / 128))) = false)
    (quiet : txnOn s (hostLine + pa / 128) = none) (alone : others s (hostLine + pa / 128) noCopy = []) :
    hostSnoopE op pa s = answerHost op pa s := by
  simp only [hostSnoopE, linked, safe, clocked, quiet, alone, Option.isSome_none, Bool.not_true, Bool.or_self, Bool.false_eq_true,
    if_false, if_true]

theorem hostSnoopE_safe (op : Snp) (pa : Nat) (linked : s.hif.linkUp = true) (safe : s.flt.safe = true) :
    hostSnoopE op pa s = emit (.h2dData pa none false) s := by
  simp only [hostSnoopE, linked, safe, Bool.not_true, Bool.true_or, Bool.false_eq_true, if_false, if_true]

/-- A modified first half goes to the host that reads it, and stays shared. -/
theorem answerHost_modified {pa : Nat} {l : DcLine}
    (holds : ((s.dc.slice (lineHome (hostLine + pa / 128))).find (hostLine + pa / 128)) = some l) (half : pa / 64 % 2 = 0)
    (mod : l.h0 = .M) : answerHost .data pa s = emit (.h2dData pa (some (slice l.data 0 64)) (l.halfBad 0))
      (modSlice (lineHome (hostLine + pa / 128)) (fun sl => sl.put { l with h0 := .S }) s) := by
  simp [answerHost, holds, half, mod]

/-- Nothing held, nothing goes out. -/
theorem pumpHeld_none {n : Nat} (none_ : s.hif.held = []) : pumpHeld n s = s := by
  cases n with
  | zero => rfl
  | succ n =>
    have pick : pickHeld s = none := by
      rw [pickHeld, none_, List.filter_nil]
      split
      · rename_i r found
        split at found <;> simp at found
      · rfl
    simp only [pumpHeld, pick]

section
variable {tag : Nat} {r : D2h}

theorem d2hResponseE_read (data : Bytes) (grant : HostState) (req : (s.hif.d2h.find? fun r => r.tag = tag) = some r)
    (op : r.op = .rdShared ∨ r.op = .rdOwn) : d2hResponseE tag data grant s =
      pumpHeld ((fillHalf r.pa data grant (dropD2h tag s)).hif.held.length + 1) (fillHalf r.pa data grant (dropD2h tag s)) := by
  rcases op with op | op <;> simp only [d2hResponseE, req, op]

theorem d2hResponseE_evict (data : Bytes) (grant : HostState) (req : (s.hif.d2h.find? fun r => r.tag = tag) = some r)
    (op : r.op = .dirtyEvict) (none_ : s.hif.held = []) : d2hResponseE tag data grant s = dropD2h tag s := by
  simp only [d2hResponseE, req, op]
  exact pumpHeld_none none_

theorem d2hTimeoutE_evict (req : (s.hif.d2h.find? fun r => r.tag = tag && 50000000 ≤ since s.devtime r.since) = some r)
    (op : r.op = .dirtyEvict) (who : r.who = .none) (none_ : s.hif.held = []) :
    d2hTimeoutE tag s = detect 8 (report 0x41 none locHif (some r.pa) 10) (dropD2h tag s) := by
  simp only [d2hTimeoutE, req, op, who, reqOwner, settleWho, d2hCode]
  exact pumpHeld_none (by rw [detect_hif]; exact none_)

end

end

/-- Settles O45: snoops of lines near nothing, and responses and their lateness. -/
theorem hostSnoopsAndResponses : Obligations.HostSnoopsAndResponses := by
  unfold Obligations.HostSnoopsAndResponses
  refine ⟨?now, ?safe, ?modified, ?read, ?evict, ?late⟩
  case now =>
    intro s pa runs linked safe clocked quiet alone
    have now (op : Snp) := hostSnoopE_now op linked safe clocked quiet alone
    exact ⟨(live_runs _ runs).trans (congrArg _ (now .data)), (live_runs _ runs).trans (congrArg _ (now .inv)),
      (live_runs _ runs).trans (congrArg _ (now .cur))⟩
  case safe =>
    intro s pa runs linked safe
    have now (op : Snp) := hostSnoopE_safe op pa linked safe
    exact ⟨(live_runs _ runs).trans (congrArg _ (now .data)), (live_runs _ runs).trans (congrArg _ (now .inv)),
      (live_runs _ runs).trans (congrArg _ (now .cur))⟩
  case modified =>
    intro s pa l holds half mod _ _
    exact answerHost_modified holds half mod
  case read =>
    intro s tag data grant r runs req op _
    exact (live_runs _ runs).trans (congrArg _ (d2hResponseE_read data grant req op))
  case evict =>
    intro s tag data grant r runs req op none_
    exact (live_runs _ runs).trans (congrArg _ (d2hResponseE_evict data grant req op none_))
  case late =>
    intro s tag r runs req op who none_
    exact (live_runs _ runs).trans (congrArg _ (d2hTimeoutE_evict req op who none_))

/-! ## CXL.mem (R377, R444) -/

/-- A quiesced block whose HVDM lies at host address 0 and whose memory is one near port pair. -/
def quiescedHvdm : State := { State.reset with
  pwr := { State.reset.pwr with on := 4#11, lockd := 2#11 }
  mem := { npres := 1#8, ncap := 2#7, hvdm0 := 1#32, lock := true }
  hif := { State.reset.hif with linkUp := true, hdm := [(0, { base := 0, size := 0x10000000, committed := true })] }
  rook := { State.reset.rook with qstate := 3 } }

/-- Refutes O46: its clause on reads of committed HVDM leaves out that a quiesced block sends nothing to its ports. The read of HVDM's
first half line is answered with poison, whose bytes take 64 free values; a port read takes none. -/
theorem not_hostMemoryRequests : ¬ Obligations.HostMemoryRequests := by
  unfold Obligations.HostMemoryRequests
  intro h
  obtain ⟨reads, _⟩ := h
  have runs : Runs .hif quiescedHvdm := by decide +kernel
  obtain ⟨step, _⟩ := reads quiescedHvdm 0 0 0 0 runs rfl rfl (by decide +kernel) (by decide +kernel) (by decide +kernel)
  have same := Host.Outcome.next.inj ((live_runs (memRdE 0) runs).symm.trans step)
  exact absurd (congrArg State.freeCtr same) (by decide +kernel)

/-! ## The link (R366, R370 to R372, R383, R385, R387, R388, R397, R398, R489) -/

section
variable {s : State}

/-- Ending INTx leaves a function level reset as it is. -/
theorem deassertIntx_flr (s : State) : (deassertIntx s).hif.flr = s.hif.flr := by
  rw [deassertIntx]
  split
  · rfl
  · rfl

theorem linkUpE_down {fmt : BitVec 2} (hold : s.hif.linkHold = false) (down : s.hif.linkUp = false) : linkUpE fmt s =
    if fmt = 3 then { s with hif := { s.hif with linkHold := true } }
    else { s with hif := { s.hif with
      linkUp := true, fmt := fmt, cfgFrom := if s.hif.cfgLink then s.devtime else s.hif.cfgFrom, cfgLink := false } } := by
  simp only [linkUpE, hold, down, Bool.or_self, Bool.false_eq_true, if_false]

theorem msixUnmaskE_idle {v : Nat} (lt : v < 4096) (idle : fget false s.hif.pba v = false) :
    msixUnmaskE v s = { s with hif := { s.hif with unmasked := fset false s.hif.unmasked v true } } := by
  simp only [msixUnmaskE, Nat.not_le.mpr lt, if_false, unmaskVec, idle, Bool.false_and, Bool.false_eq_true]

theorem msixUnmaskE_pending {v : Nat} (lt : v < 4096) (pending : fget false s.hif.pba v = true)
    (open_ : vecMasked { s.hif with unmasked := fset false s.hif.unmasked v true } v = false) (en : s.hif.msixEn = true) :
    msixUnmaskE v s = emitMem (.msix v) { s with hif := { s.hif with
      unmasked := fset false s.hif.unmasked v true
      pba := fset false s.hif.pba v false } } := by
  have sends : (fget false s.hif.pba v && !vecMasked { s.hif with unmasked := fset false s.hif.unmasked v true } v
      && s.hif.msixEn) = true := by rw [pending, open_, en]; rfl
  rw [msixUnmaskE, if_neg (Nat.not_le.mpr lt)]
  exact if_pos sends

theorem l0pWindowEndE_quiet {tx rx cap w : Nat} (flit : s.hif.fmt ≠ 0#2) (en : bit (rget s 0xE0000) 30 = true)
    (on : s.hif.l0pOn = true) (slowTx : 4 * tx < cap) (slowRx : 4 * rx < cap) (few : w ≤ 16) :
    l0pWindowEndE tx rx cap w s = { s with hif := { s.hif with l0pReq := true } } := by
  have notTx : ¬cap < 2 * tx := by omega
  have notRx : ¬cap < 2 * rx := by omega
  have notMany : ¬16 < w := by omega
  have flit : ¬s.hif.fmt = 0 := flit
  simp only [l0pWindowEndE, flit, notTx, notRx, notMany, en, on, slowTx, slowRx, decide_false, decide_true, Bool.or_self,
    Bool.and_self, Bool.false_eq_true, if_false, if_true]

theorem l0pWindowEndE_busy {tx rx cap w : Nat} (flit : s.hif.fmt ≠ 0#2) (busy : cap < 2 * tx ∨ cap < 2 * rx ∨ 16 < w) :
    l0pWindowEndE tx rx cap w s = { s with hif := { s.hif with l0pReq := false } } := by
  have flit : ¬s.hif.fmt = 0 := flit
  have busy_ : (decide (cap < 2 * tx) || decide (cap < 2 * rx) || decide (16 < w)) = true := by simpa [or_assoc] using busy
  simp only [l0pWindowEndE, flit, busy_, if_false, if_true]

theorem configRequestE_ready (r : CfgReq) (linked : s.hif.linkUp = true) (ready : s.hif.cfgReady = true) :
    configRequestE r s = match r with
      | .read reg => cfgRead reg s
      | .command mse bme intxDis => cfgCommand mse bme intxDis s
      | .msixControl en mask => msixControl en mask s
      | .msixMask vec mask => if vec < 4096 then msixMaskE vec mask s else s
      | .linkControl l1 l0p => { s with hif := { s.hif with aspmL1 := l1, l0pOn := l0p } }
      | .priStatusClear => { s with atc := { s.atc with prFail := false } }
      | .priAllocation n => { s with hif := { s.hif with prAlloc := n } }
      | .completionTimeout ns => { s with hif := { s.hif with cto := ns } }
      | .linkRead a => linkAccess a false 0 s
      | .linkWrite a v => linkAccess a true v s
      | .powerState d0 => if d0 then { s with hif := { s.hif with d0 := true } } else d3hotE s := by
  cases r <;> simp only [configRequestE, linked, ready, Bool.not_true, Bool.false_eq_true, if_false]

theorem cfgCommand_intxOff (mse bme : Bool) (noFlr : s.hif.flr = false) : cfgCommand mse bme true s =
    setBme bme (deassertIntx { s with hif := { s.hif with mse := mse, intxDis := true } }) := by
  simp only [cfgCommand, if_true, deassertIntx_flr, noFlr, Bool.false_eq_true, if_false]

end

/-- Settles O47: each event of the link by its conditions. -/
theorem linkEvents : Obligations.LinkEvents := by
  unfold Obligations.LinkEvents
  refine ⟨?flit, ?pcie, ?idle, ?pending, ?intx, ?bme, ?l1, ?quiet, ?busy, ?ide, ?ide3, ?doe, ?ready, ?pm, ?csr, ?retry, ?read,
    ?linkControl, ?linkRead, ?command⟩
  case flit =>
    intro s fmt runs hold down flit
    exact (live_runs _ runs).trans (congrArg _ ((linkUpE_down hold down).trans (if_neg flit)))
  case pcie =>
    intro s runs hold down
    exact (live_runs _ runs).trans (congrArg _ ((linkUpE_down hold down).trans (if_pos rfl)))
  case idle =>
    intro s v runs lt idle
    exact (live_runs _ runs).trans (congrArg _ (msixUnmaskE_idle lt idle))
  case pending =>
    intro s v runs lt pending open_ en
    exact (live_runs _ runs).trans (congrArg _ (msixUnmaskE_pending lt pending open_ en))
  case intx =>
    intro s v open_ clear
    exact (ctlWrite_plain _ open_ (by decide)).trans (congrArg _ (if_pos clear))
  case bme =>
    intro s runs ready noFlr
    refine (live_runs _ runs).trans (congrArg _ ?_)
    rw [if_pos (by simp [ready, noFlr])]
    rfl
  case l1 =>
    intro s runs idle linked
    exact (live_runs _ runs).trans (congrArg _ (if_pos (by simp [idle, linked])))
  case quiet =>
    intro s tx rx cap w runs flit en on slowTx slowRx few
    exact (live_runs _ runs).trans (congrArg _ (l0pWindowEndE_quiet flit en on slowTx slowRx few))
  case busy =>
    intro s tx rx cap w runs flit busy
    exact (live_runs _ runs).trans (congrArg _ (l0pWindowEndE_busy flit busy))
  case ide =>
    intro s n runs lt
    refine (live_runs _ runs).trans (congrArg _ ?_)
    rw [if_pos (by omega), ideCheckFailE, if_pos lt]
    rfl
  case ide3 =>
    intro s runs
    exact live_runs (fun s => if 3 < 4 then ideCheckFailE 3 s else s) runs
  case doe =>
    intro s k b runs
    exact live_runs (emit (.doe k b)) runs
  case ready =>
    intro s runs cfgLink late
    exact (live_runs _ runs).trans (congrArg _ (if_pos (by simp [cfgLink, late])))
  case pm =>
    intro s v runs ne
    dsimp only [exec, execHxPmStateChange]
    exact (live_runs _ runs).trans (congrArg _ (if_neg ne))
  case csr =>
    intro s a data runs read
    dsimp only [exec, execHxCsrAck]
    rw [live_runs _ runs]
    simp only [read, Bool.false_eq_true, if_false]
  case retry =>
    intro s r runs linked early
    refine (live_runs _ runs).trans (congrArg _ ?_)
    simp only [configRequestE, linked, early, Bool.not_true, Bool.not_false, Bool.false_eq_true, if_false, if_true]
  case read =>
    intro s runs linked ready
    exact (live_runs _ runs).trans (congrArg _ (configRequestE_ready (.read 0) linked ready))
  case linkControl =>
    intro s l1 l0p runs linked ready
    exact (live_runs _ runs).trans (congrArg _ (configRequestE_ready (.linkControl l1 l0p) linked ready))
  case linkRead =>
    intro s a runs linked ready free
    refine (live_runs _ runs).trans (congrArg _ ((configRequestE_ready (.linkRead a) linked ready).trans ?_))
    exact if_neg (by simp [free])
  case command =>
    intro s mse bme runs linked ready noFlr
    exact (live_runs _ runs).trans
      (congrArg _ ((configRequestE_ready (.command mse bme true) linked ready).trans (cfgCommand_intxOff mse bme noFlr)))

end Sys2Proof.Machine

/-! SUPPORT. The reset ladder (R451 to R460), the function level reset (R390, R391), and the fault collector (R425 to R450); then the
statements about them. -/

namespace Sys2Proof.Machine

/-- A field is below the power of two of its width. -/
theorem fld_lt (v : W32) (hi lo : Nat) : fld v hi lo < 2 ^ (hi + 1 - lo) := Nat.mod_lt _ (Nat.two_pow_pos _)

/-! ## The reset ladder (R451 to R460) -/

section
variable {s : State} {v : W32}

theorem contextResetE_ready {k : Nat} {asked : Bool} (safe : s.flt.safe = false) (ready : (s.fe.ctxOf k).state = 1#2) :
    contextResetE k asked s = dropCtxXlat k (abandonPrgs (stopCommands (fun c => decide (c.ctx = k)) 0x21
      (stopLaunches (fun l => decide (l.ctx = k)) 0x21
        (modCtx k (fun x => { x with state := 2 }) (startRun .context k asked false s))))) := by
  simp only [contextResetE, safe, ready, ne_eq, not_true, decide_false, Bool.or_self, Bool.false_eq_true, if_false]

theorem clusterResetE_idle {k : Nat} {asked : Bool} (safe : s.flt.safe = false) (lt : k < 72) (idle : clusterInReset s k = false) :
    clusterResetE k asked s = clusterTear k (startRun .cluster k asked false s) := by
  simp only [clusterResetE, safe, Nat.not_le.mpr lt, idle, decide_false, Bool.or_self, Bool.false_eq_true, if_false]

theorem partitionResetE_idle {p : Nat} {asked : Bool} (safe : s.flt.safe = false) (lt : p < 8) (idle : partInReset s p = false) :
    partitionResetE p asked s = partitionTear p (startRun .partition p asked false s) := by
  simp only [partitionResetE, safe, Nat.not_le.mpr lt, idle, decide_false, Bool.or_self, Bool.false_eq_true, if_false]

/-- With the key the register starts the block's reset, or the way out of the safe state. -/
theorem rstBlkE_key (go : bit v 31 = true) (key : fld v 15 0 = 0xB10C) :
    rstBlkE v s = if s.flt.safe then
      (if resetting s .block 0 then s else blockTail true true (if s.hif.linkUp then emit .linkDownSignal s else s))
    else blockResetE true s := by
  simp only [rstBlkE, go, key, ne_eq, not_true, decide_false, Bool.not_true, Bool.or_self, Bool.false_eq_true, if_false]

theorem rstBlkE_noKey (bad : bit v 31 = false ∨ fld v 15 0 ≠ 0xB10C) : rstBlkE v s = s := by
  refine if_pos ?_
  rcases bad with go | key
  · simp [go]
  · simp [key]

/-- With no command, a change of commands changes nothing. -/
theorem mapCmds_none (p : Cmd → Bool) (f : Cmd → Cmd) (none_ : s.fe.cmds = []) :
    { s with fe := { s.fe with cmds := mapWhere p f s.fe.cmds } } = s := by
  have same : mapWhere p f s.fe.cmds = s.fe.cmds := by rw [none_]; rfl
  rw [same]

/-- The last row of a context reset with no command left. -/
theorem contextDone_noCmds {k : Nat} (none_ : s.fe.cmds = []) : contextDone k s = endRun .context k (rset (0x61000 + 4 * k) 0
    (modCtx k (fun x => { x with state := 1, gen := x.gen + 1 }) (dropCtxXlat k s))) := by
  have full : dropFull k s = s := by simp [dropFull, none_]
  have none' : (modCtx k (fun x => { x with state := 1, gen := x.gen + 1 }) (dropCtxXlat k s)).fe.cmds = [] := none_
  simp only [contextDone, full, none_, List.any_nil, Bool.false_eq_true, if_false]
  exact congrArg (fun u => endRun .context k (rset (0x61000 + 4 * k) 0 u)) (mapCmds_none _ _ none')

theorem blockDone_trained (trained : s.ports.any (fun e => training e.2) = false) :
    let a := catalogueSelectE { s with fe := { s.fe with stopped := decide (s.rook.qstate ≠ 0) } }
    blockDone s = if s.rst.any (fun r => decide (r.kind = .block) && r.fromSafe) then
      { a with rst := [], flt := { a.flt with safe := false, errn := false } } else { a with rst := [] } := by
  simp only [blockDone, trained, Bool.false_eq_true, if_false]

theorem resetOverrunE_late {kind next : ResetKind} {k n : Nat} {r : ResetRun}
    (has : (s.rst.find? fun r => r.kind = kind && r.index = k) = some r) (late : resetBound kind ≤ since s.devtime r.start)
    (rung : nextRung kind k next n = true) :
    let ctx : Option Nat := if kind = .context then some k else none
    let cls := rungClass kind next
    let i : Intake := { buf := 8, isOver := false, rep := report 0x14 ctx (rungLoc kind k) none (rungLevel kind)
                        gen := genOf s ctx, time := s.devtime, react := classReact cls }
    let a := { s with rst := s.rst.map fun x => if x = r then { x with start := s.devtime } else x }
    let t := a.flt.accept cls (classReact cls) i
    resetOverrunE kind k next n s =
      startNext kind next n (applyFlags (classReact cls) t.seq (countFault t cls { a with flt := t.flt })) := by
  simp only [resetOverrunE, has, Nat.not_lt.mpr late, rung, decide_false, Bool.not_true, Bool.or_self, Bool.false_eq_true, if_false]

section
variable {kind : ResetKind} {k : Nat} (runs : Runs .fab s) (going : resetting s kind k = true)
include runs going

/-- The end of a reset in progress. -/
theorem exec_resetComplete : exec (.resetComplete kind k) s = .next (match kind with
    | .context => contextDone k s
    | .cluster => if partInReset s (partOfCluster k) || clusterWrites s k then s else endRun .cluster k (clusterRegs k s)
    | .partition => if partWrites s k then s else partitionDone k s
    | .block => blockDone s) :=
  (live_runs _ runs).trans (congrArg _ ((if_neg (by simp [going])).trans (by cases kind <;> rfl)))

end

end

/-- Settles O48: the registers by their guards, the completions by their kind, and the overrun. -/
theorem resetsTakeTheirRows : Obligations.ResetsTakeTheirRows := by
  unfold Obligations.ResetsTakeTheirRows
  refine ⟨?ctx, ?clu, ?part, ?blk, ?blkSafe, ?noKey, ?ctxDone, ?cluDone, ?partDone, ?safeDone, ?blkDone, ?late⟩
  case ctx =>
    intro s v open_ go safe ready
    refine (ctlWrite_plain _ open_ (by decide)).trans (congrArg _ ?_)
    exact (if_pos go).trans (contextResetE_ready safe ready)
  case clu =>
    intro s v open_ go safe lt idle noReset
    refine (ctlWrite_plain _ open_ (by decide)).trans (congrArg _ ?_)
    have starts : (bit v 31 && !rstBusy (rset 0x110104 (v &&& 0x7F#32) s) .cluster) = true := by
      rw [go]; exact congrArg (true && !·) idle
    exact (if_pos starts).trans (clusterResetE_idle safe lt noReset)
  case part =>
    intro s v open_ go safe idle noReset
    refine (ctlWrite_plain _ open_ (by decide)).trans (congrArg _ ?_)
    have starts : (bit v 31 && !rstBusy (rset 0x110108 (v &&& 7#32) s) .partition) = true := by
      rw [go]; exact congrArg (true && !·) idle
    exact (if_pos starts).trans (partitionResetE_idle safe (fld_lt v 2 0) noReset)
  case blk =>
    intro s v open_ go key safe noReset
    refine (ctlWrite_plain _ open_ (by decide)).trans (congrArg _ ?_)
    rw [rstBlkE_key go key, if_neg (by simp [safe]), blockResetE, if_neg (by simp [safe]), if_neg (by simp [noReset])]
  case blkSafe =>
    intro s v open_ go key safe noReset linked
    refine (ctlWrite_plain _ open_ (by decide)).trans (congrArg _ ?_)
    rw [rstBlkE_key go key, if_pos safe, if_neg (by simp [noReset]), if_pos linked]
  case noKey =>
    intro s v open_ bad
    exact (ctlWrite_plain _ open_ (by decide)).trans (congrArg _ (rstBlkE_noKey bad))
  case ctxDone =>
    intro s k runs going none_
    exact (exec_resetComplete runs going).trans (congrArg _ (contextDone_noCmds none_))
  case cluDone =>
    intro s k runs going noPart noWrites
    exact (exec_resetComplete runs going).trans (congrArg _ (if_neg (by simp [noPart, noWrites])))
  case partDone =>
    intro s p runs going noWrites
    exact (exec_resetComplete runs going).trans (congrArg _ (if_neg (by simp [noWrites])))
  case safeDone =>
    intro s runs going trained fromSafe
    exact (exec_resetComplete runs going).trans (congrArg _ ((blockDone_trained trained).trans (if_pos fromSafe)))
  case blkDone =>
    intro s runs going trained notSafe
    exact (exec_resetComplete runs going).trans (congrArg _ ((blockDone_trained trained).trans (if_neg (by simp [notSafe]))))
  case late =>
    intro s kind next k n r powered has late rung
    exact (live_aon _ powered).trans (congrArg _ (resetOverrunE_late has late rung))

/-! ## The function level reset and the end of the link (R386, R390, R391, R394, R395) -/

section
variable {s : State}

theorem flrE_working (noFlr : s.hif.flr = false) (safe : s.flt.safe = false)
    (bme : (flrEndWork { s with hif := { s.hif with flr := true } }).hif.bme = true) :
    flrE s = evictHost (flrEndWork { s with hif := { s.hif with flr := true } }) := by
  simp only [flrE, noFlr, safe, bme, Bool.or_self, Bool.false_eq_true, if_false, if_true]

theorem linkDownE_quiesced (linked : s.hif.linkUp = true) (quiet : s.rook.qstate = 3#2) :
    linkDownE s = { s with hif := { s.hif with linkUp := false } } := by
  simp only [linkDownE, linked, quiet, Bool.not_true, Bool.false_eq_true, if_false]
  rfl

theorem linkDownE_working (linked : s.hif.linkUp = true) (working : s.rook.qstate ≠ 3#2) (safe : s.flt.safe = false)
    (noFlr : s.hif.flr = false) :
    let a : State := { s with hif := { s.hif with
      linkUp := false
      cfgReady := false
      cfgLink := true
      l1Req := false
      l0pReq := false } }
    let b := dropHost (dropRecords (fun _ => true) (dropSnoops (flrEndWork a)))
    linkDownE s = { b with
      fe := { b.fe with tags := [] }
      hif := { b.hif with flr := true, d2h := [], held := [], heldOut := [], csr := none } } := by
  have working : ¬s.rook.qstate = 3 := working
  simp only [linkDownE, linked, working, safe, noFlr, Bool.not_true, Bool.or_self, Bool.false_eq_true, if_false]

end

/-- Settles O49: the function level reset and its completion, D3hot, the ends of the link and Viral. -/
theorem functionLevelResets : Obligations.FunctionLevelResets := by
  unfold Obligations.FunctionLevelResets
  refine ⟨?flr, ?complete, ?d3hot, ?quiesced, ?working, ?hot, ?viral, ?safe⟩
  case flr =>
    intro s runs ready linked noFlr safe bme
    exact (live_runs _ runs).trans (congrArg _ ((if_pos (by simp [ready, linked])).trans (flrE_working noFlr safe bme)))
  case complete =>
    intro s runs flr noWrites
    exact ⟨flrDone s, (live_runs _ runs).trans (congrArg _ (if_pos (by simp [flr, noWrites]))), rfl, rfl, rfl, rfl, rfl, rfl, rfl,
      rfl, rfl, rfl⟩
  case d3hot =>
    intro s runs ready linked d0
    exact (live_runs _ runs).trans (congrArg _ ((if_pos (by simp [ready, linked])).trans (if_pos d0)))
  case quiesced =>
    intro s runs linked quiet
    exact (live_runs _ runs).trans (congrArg _ (linkDownE_quiesced linked quiet))
  case working =>
    intro s runs linked working safe noFlr
    exact (live_runs _ runs).trans (congrArg _ (linkDownE_working linked working safe noFlr))
  case hot =>
    intro s runs linked
    exact (live_runs _ runs).trans (congrArg _ (if_pos linked))
  case viral =>
    intro s runs linked
    exact (live_runs _ runs).trans (congrArg _ (if_neg (by simp [linked])))
  case safe =>
    intro s safe
    rw [enterSafe, if_neg (by simp [safe])]
    exact ⟨rfl, rfl, rfl, rfl, rfl⟩

/-! ## The fault collector (R425 to R441) -/

theorem faultReportE_waiting {s : State} {buf : Nat} {i : Intake} (has : (s.flt.intake.find? fun i => i.buf = buf) = some i) :
    faultReportE buf none s = collect (reportClass i.rep 0) i
      { s with flt := { s.flt with intake := dropFirst (fun x => decide (x.buf = buf)) s.flt.intake } } := by
  simp only [faultReportE, has]

/-- A report of source 0x42 does nothing to the arrays and ends no launch. -/
theorem hwEffect_link {s : State} {r : Report} (src : r.source = 0x42) : hwEffect r s = (r, s) := by
  have noLaunch : hwLaunch r s = none := by simp [hwLaunch, src]
  simp only [hwEffect, noLaunch, arrayEffect, src]

theorem faultReportE_link {s : State} (buf : Nat) {r : Report} (hw : hwSource r.source = true) (src : r.source = 0x42)
    (quiet : s.flt.fires r.loc = false) : faultReportE buf (some r) s = collect (reportClass r 0)
      { buf := buf, isOver := false, rep := r, gen := genOf s r.ctx, time := s.devtime, react := reactOf s.flt r.source } s := by
  simp only [faultReportE, hw, hwEffect_link src, quiet, Bool.not_true, Bool.or_false, Bool.false_eq_true, if_false]

section
variable {f : Flt} {cls : Nat} {re : React} {i : Intake}

theorem accept_room (notFatal : cls ≠ 6) (now : i.isOver = false) (room : f.pend < 256) : f.accept cls re i =
    { flt := f.push (newRec (nextSeq f.seq) cls re i), seq := nextSeq f.seq, queued := true, lost := false } := by
  simp only [Flt.accept, notFatal, now, room, decide_true, Bool.not_false, Bool.and_self, if_false, if_true]

theorem accept_firstFatal (first : f.fatal = none) : f.accept 6 re i =
    { flt := { f with fatal := some (newRec (nextSeq f.seq) 6 re i), seq := nextSeq f.seq }
      seq := nextSeq f.seq, queued := false, lost := false } := by
  simp only [Flt.accept, first, if_true]

theorem accept_lost (notFatal : cls ≠ 6) (full : 256 ≤ f.pend)
    (new : (f.recs.all fun r => !(r.pending && r.sameAs i.rep)) = true) : f.accept cls re i =
      { flt := { f with ovf := sat31 f.ovf 1, lost := true }, seq := 0, queued := false, lost := true } := by
  have none_ : (f.recs.find? fun r => r.pending && r.sameAs i.rep) = none :=
    List.find?_eq_none.mpr fun r hr same => by simpa [same] using List.all_eq_true.mp new r hr
  simp only [Flt.accept, notFatal, Nat.not_lt.mpr full, none_, decide_false, Bool.and_false, Bool.false_eq_true, if_false]

end

theorem nextSeq_pos (n : Nat) : 1 ≤ nextSeq n := by
  rw [nextSeq]
  split <;> omega

theorem nextSeq_le {n : Nat} (le : n ≤ 0x7FFFFFFF) : nextSeq n ≤ 0x7FFFFFFF := by
  rw [nextSeq]
  split <;> omega

/-- A record has 64 bytes. -/
theorem length_recBytes (r : Rec) : r.bytes.length = 64 := by
  simp [Rec.bytes, leBytes, le64]

/-- A write of FLT_REACT with a permitted reset sets the reaction of the source (R439). -/
theorem fltReactWriteE_allowed {s : State} {v : W32} {c : Nat} (src : sourceClass (fld (rget s 0x110014) 7 0) = some c)
    (notFatal : c ≠ 6) (known : fld v 10 8 < 6) (least : leastReset c ≤ fld v 10 8) :
    fltReactWriteE v s = { s with flt := { s.flt with
      react := fset (reactDefault (fld (rget s 0x110014) 7 0)) s.flt.react (fld (rget s 0x110014) 7 0)
        { irq := bit v 0, nmi := bit v 1, errn := bit v 2, reset := fld v 10 8 } } } := by
  simp only [fltReactWriteE, src, React.write, notFatal, Nat.not_le.mpr known, Nat.max_eq_left least, if_false]

/-- Settles O50: intake, records and queue, and the collector's registers. -/
theorem faultCollector : Obligations.FaultCollector := by
  unfold Obligations.FaultCollector
  refine ⟨?waiting, ?link, ?room, ?fatal, ?lost, ?seq, ?bytes, ?release, ?releases, ?react, ?errn, ?test, ?timeout, ?inject,
    ?noInject, ?ended⟩
  case waiting =>
    intro s buf i powered has
    exact (live_aon _ powered).trans (congrArg _ (faultReportE_waiting has))
  case link =>
    intro s buf r powered hw src quiet
    exact (live_aon _ powered).trans (congrArg _ (faultReportE_link buf hw src quiet))
  case room =>
    intro f cls re i notFatal now room
    rw [accept_room notFatal now room]
    exact ⟨rfl, rfl, rfl, rfl⟩
  case fatal =>
    intro f re i first
    rw [accept_firstFatal first]
  case lost =>
    intro f cls re i notFatal full new
    rw [accept_lost notFatal full new]
    exact ⟨rfl, rfl⟩
  case seq =>
    intro n
    exact ⟨nextSeq_pos n, nextSeq_le⟩
  case bytes => exact length_recBytes
  case release =>
    intro s v open_
    exact ctlWrite_plain _ open_ (by decide)
  case releases =>
    intro n r l pending
    exact if_pos pending
  case react =>
    intro s v c open_ src notFatal known least
    exact (ctlWrite_plain _ open_ (by decide)).trans (congrArg _ (fltReactWriteE_allowed src notFatal known least))
  case errn =>
    intro s v open_ safe clear
    refine (ctlWrite_plain _ open_ (by decide)).trans (congrArg _ ?_)
    exact if_pos (by rw [clear, Bool.true_and, rset_flt, safe]; rfl)
  case test =>
    intro s v open_ go free safe known
    refine (ctlWrite_plain _ open_ (by decide)).trans (congrArg _ ?_)
    simp only [fltChkreqE, rset_flt, go, free, safe, known, Option.isSome_none, Bool.not_true, Bool.or_self, Bool.false_eq_true,
      if_false]
    rfl
  case timeout =>
    intro s t powered test late
    refine (live_aon _ powered).trans (congrArg _ ?_)
    simp only [checkerTestTimeoutE, test, late, if_true]
  case inject =>
    intro s v open_ ftest go known
    refine (ctlWrite_plain _ open_ (by decide)).trans (congrArg _ ?_)
    simp only [fltInjE, ftest, go, Nat.not_le.mpr known, Bool.not_true, Bool.false_eq_true, if_false, if_true]
  case noInject =>
    intro s v open_ ftest
    exact (ctlWrite_plain _ open_ (by decide)).trans (congrArg _ (if_pos (by simp [ftest])))
  case ended =>
    intro s u id sq ctx cid runs ended
    exact (live_runs _ runs).trans (congrArg _ (if_neg (by rw [ended]; exact Bool.false_ne_true)))

end Sys2Proof.Machine

/-! SUPPORT. The management commands (R408 to R424, R171): how a command that waits for its meaning runs; then the statements about
the command set, firmware update and supervision, and retained tables and telemetry. -/

namespace Sys2Proof.Machine

/-! ## A command that waits for its meaning -/

section
variable {s : State} {id op : Nat} {j : Job}

/-- A waiting command at which the meaning's condition holds runs and gets its answer. -/
theorem runJob_waiting {p : Job → Bool} {f : Job → State × Ans} (w : Waiting s id op j) (holds : p j = true) :
    runJob id p s f = answer id (f j).2 (f j).1 := by
  obtain ⟨-, found, unanswered, -, first, free⟩ := w
  simp only [runJob, found, unanswered, holds, first, free, Option.isSome_none, Bool.not_true, Bool.or_self, Bool.false_eq_true,
    if_false]

/-- A waiting command is answered with what its meaning gives. -/
theorem job_answers {f : Job → State × Ans} {t : State} {a : Ans} (w : Waiting s id op j) (gives : f j = (t, a)) :
    job id op s f = .next (answer id a t) := by
  have ⟨powered, _, _, code, _, _⟩ := w
  refine (live_aon _ powered).trans (congrArg _ ((runJob_waiting w (decide_eq_true code)).trans ?_))
  rw [gives]

/-- A QUIESCE whose one byte is the action. -/
theorem quiesceJob_answers {a : Nat} {f : State → State × Ans} {t : State} {r : Ans} (w : Waiting s id 0x08 j)
    (pay : j.payload = [BitVec.ofNat 8 a]) (lt : a < 4) (gives : f s = (t, r)) : quiesceJob id a s f = .next (answer id r t) := by
  have ⟨powered, _, _, code, _, _⟩ := w
  have byte : num j.payload 0 1 = a := by
    rw [pay]
    have : (BitVec.ofNat 8 a).toNat = a := by rw [BitVec.toNat_ofNat]; omega
    simp [num, slice, leNat, this]
  have len : j.payload.length = 1 := by rw [pay]; rfl
  have holds : isQuiesce a j = true := by simp [isQuiesce, code, byte, len, lt]
  refine (live_aon _ powered).trans (congrArg _ ((runJob_waiting w holds).trans ?_))
  simp only [len, byte, gives, ne_eq, not_true, Nat.not_le.mpr lt, decide_false, Bool.or_self, Bool.false_eq_true, if_false]

theorem onOff_byte {b : Bool} (pay : j.payload = [if b then 1#8 else 0#8]) : onOff j = some b := by
  unfold onOff
  rw [pay]
  cases b <;> rfl

end

/-! ## The command set -/

section
variable {s : State} {j : Job}

theorem faultRingE_off (len : j.payload.length = 24) (base : num j.payload 8 8 = 0) :
    faultRingE j s = ({ s with rook := { s.rook with fring := none } }, ansOk) := by
  simp only [faultRingE, len, base, ne_eq, not_true, if_false, if_true]

theorem cfgWriteE_fresh (sound : cfgBlockBad j.payload = false) (none_ : cfgBest s.rook = none) :
    let b := j.payload.take 4 ++ leBytes 4 1 ++ slice j.payload 8 0x34
    cfgWriteE j s = ({ s with rook := flashWrite 0 (b ++ leBytes 4 (crc32c b)) s.rook }, ansOk) := by
  simp only [cfgWriteE, sound, none_, Bool.false_eq_true, if_false, Nat.mul_zero]

end

/-- Settles O51: each meaning of a waiting command is one branch of its own. -/
theorem managementCommands : Obligations.ManagementCommands := by
  unfold Obligations.ManagementCommands
  intro s id j
  refine ⟨?_, ?_, ?_, ?_, ?_, ?_, ?_, ?_, ?_, ?_, ?_, ?_, ?_, ?_, ?_, ?_, ?_⟩
  · exact fun w pay => job_answers w (congrArg _ (if_neg (not_not_intro pay)))
  · exact fun w pay => job_answers w (congrArg _ (if_neg (not_not_intro pay)))
  · intro w len few
    refine job_answers w (congrArg _ (if_neg ?_))
    simp [len, few]
  · exact fun w len base => job_answers w (faultRingE_off len base)
  · intro w len base ctx low high zero page word enabled
    refine job_answers w ?_
    simp only [faultRingE, len, base, Nat.not_le.mpr ctx, Nat.not_lt.mpr low, Nat.not_lt.mpr high, zero, page, word, enabled, ne_eq,
      not_true, decide_false, Bool.not_true, Bool.or_self, Bool.false_eq_true, if_false]
    rfl
  · intro w pay run
    dsimp only [exec, execQuiesceStart]
    exact quiesceJob_answers w pay (by decide) (if_pos run)
  · intro w pay run
    have now : quiesceNowE s = startQuiesce 0 s := if_pos run
    dsimp only [exec, execQuiesceNow]
    exact quiesceJob_answers w pay (by decide) ((if_pos (by rw [run]; rfl)).trans (by rw [now]; rfl))
  · intro w pay pending
    have now : quiesceNowE s = { s with rook := { s.rook with qGrace := 0 } } :=
      (if_neg (by rw [pending]; decide)).trans (if_pos pending)
    dsimp only [exec, execQuiesceNow]
    exact quiesceJob_answers w pay (by decide) ((if_pos (by rw [pending]; rfl)).trans (by rw [now]; rfl))
  · intro w pay pending
    dsimp only [exec, execQuiesceCancel]
    exact quiesceJob_answers w pay (by decide) (if_pos pending)
  · intro w pay other
    dsimp only [exec, execQuiesceCancel]
    exact quiesceJob_answers w pay (by decide) (if_neg other)
  · intro w pay quiet unsafe_
    dsimp only [exec, execQuiesceExit]
    exact quiesceJob_answers w pay (by decide) (if_pos (by rw [quiet, unsafe_]; rfl))
  · exact fun w pay => job_answers w (by rw [onOff_byte (b := true) pay]; rfl)
  · exact fun w pay => job_answers w (if_neg (not_not_intro pay))
  · exact fun w sound none_ => job_answers w (cfgWriteE_fresh sound none_)
  · exact fun w pay tag eid src => job_answers w (by rw [onOff_byte (b := true) pay, src]; rfl)
  · exact fun w pay => job_answers w (by rw [onOff_byte (b := false) pay]; rfl)
  · intro op w unknown
    have ⟨powered, _, _, code, _, _⟩ := w
    have holds : (!knownOp j.opcode) = true := by rw [code, unknown]; rfl
    exact (live_aon (fun s => runJob id _ s fun _ => (s, ansRet 2)) powered).trans (congrArg _ (runJob_waiting w holds))

end Sys2Proof.Machine

/-! SUPPORT. Firmware update, image and configuration load, and the Rook's supervision (R400 to R405, R414); then the statement about
them. -/

namespace Sys2Proof.Machine

section
variable {s : State} {j : Job} {x : FwSession}

/-! ## Firmware update (R414) -/

/-- A session begins in a slot that is not loaded, with none open. -/
theorem fwBeginE_opens (len : j.payload.length = 8) (slot : num j.payload 0 1 < 2) (zero : num j.payload 1 3 = 0)
    (low : 256 ≤ num j.payload 4 4) (high : num j.payload 4 4 ≤ 0x100000) (closed : s.rook.session = none)
    (spare : s.rook.loaded = false ∨ s.rook.slot ≠ num j.payload 0 1) :
    fwBeginE j s = (emit (.flashErase (num j.payload 0 1)) { s with rook := {
      flashErase (slotBase (num j.payload 0 1)) 0x100000 s.rook with
        session := some { owner := j.src, slot := num j.payload 0 1, len := num j.payload 4 4, last := s.devtime } } }, ansOk) := by
  have unloaded : (s.rook.loaded && decide (s.rook.slot = num j.payload 0 1)) = false := by
    rcases spare with h | h <;> simp [h]
  simp only [fwBeginE, len, Nat.not_le.mpr slot, zero, Nat.not_lt.mpr low, Nat.not_lt.mpr high, closed, unloaded, ne_eq, not_true,
    decide_false, Bool.or_self, Bool.false_eq_true, if_false]

theorem fwDataE_takes (opened : s.rook.session = some x) (own : x.owner = j.src) (low : 4 ≤ j.payload.length)
    (high : j.payload.length ≤ 3840) (inside : num j.payload 0 4 + (j.payload.length - 4) ≤ x.len) :
    fwDataE j s = ({ s with rook := {
      flashWrite (slotBase x.slot + num j.payload 0 4) (j.payload.drop 4) s.rook with
        session := some { x with last := s.devtime } } }, ansOk) := by
  have short : ¬3836 < j.payload.length - 4 := by omega
  simp only [fwDataE, opened, own, Nat.not_lt.mpr low, short, Nat.not_lt.mpr inside, ne_eq, not_true, decide_false, Bool.or_self,
    Bool.false_eq_true, if_false]

theorem fwEndE_valid (opened : s.rook.session = some x) (own : x.owner = j.src) (pay : j.payload = [])
    (valid : imageValid s.rook x.slot = true) (unloaded : s.rook.loaded = false) :
    fwEndE j s = ({ s with rook := { s.rook with session := none } }, ansOk) := by
  simp only [fwEndE, opened, own, pay, valid, unloaded, ne_eq, not_true, Bool.not_true, Bool.false_and, Bool.false_eq_true, if_false]

theorem fwEndE_invalid (opened : s.rook.session = some x) (own : x.owner = j.src) (pay : j.payload = [])
    (invalid : imageValid s.rook x.slot = false) :
    fwEndE j s = ({ s with rook := { s.rook with session := none } }, ansRet 7) := by
  simp only [fwEndE, opened, own, pay, invalid, ne_eq, not_true, Bool.not_false, if_false, if_true]

theorem fwActivateE_restarts (pay : j.payload = []) (closed : s.rook.session = none) :
    fwActivateE j s = (setEvt 2 (restartRook j.id s), ansOk) := by
  simp only [fwActivateE, pay, closed, ne_eq, not_true, Option.isSome_none, Bool.false_eq_true, if_false]

theorem fwSessionTimeoutE_ends (opened : s.rook.session = some x) (late : 60000000000 ≤ since s.devtime x.last) :
    fwSessionTimeoutE s = emit (.flashErase x.slot) { s with rook := {
      flashErase (slotBase x.slot) 0x100000 s.rook with session := none } } := by
  simp only [fwSessionTimeoutE, opened, Nat.not_lt.mpr late, if_false]

/-! ## Image and configuration load (R402, R403, R370) -/

theorem rookImageLoadE_fails (ready : s.rook.state = 1) (none_ : bootSlot s.rook = none) :
    rookImageLoadE s = { s with rook := { s.rook with state := 4, loaded := false, fwver := 0 } } := by
  simp only [rookImageLoadE, ready, none_]
  rfl

theorem rookImageLoadE_boots {k : Nat} (ready : s.rook.state = 3) (some_ : bootSlot s.rook = some k) :
    rookImageLoadE s = { s with rook := { s.rook with
      state := 2
      loaded := true
      slot := k
      imgSeq := imageSeq s.rook k
      sigChk := decide (s.rook.keyDigest ≠ 0)
      fwver := BitVec.ofNat 31 (num (flashBytes s.rook (slotBase k) 256) 8 4)
      beat := s.devtime } } := by
  simp only [rookImageLoadE, ready, some_]
  rfl

theorem configLoadE_none (running : s.rook.state = 2) (none_ : cfgBest s.rook = none) (unmapped : s.mem.mapped = false) :
    configLoadE s = { s with rook := { s.rook with cfgOk := false }, hif := { s.hif with ids := [] } } := by
  simp only [configLoadE, running, none_, unmapped]
  rfl

theorem configLoadE_best {k : Nat} (running : s.rook.state = 2) (best : cfgBest s.rook = some k) (mapped : s.mem.mapped = true)
    (unlocked : s.mem.lock = false) :
    let b := cfgCopy s.rook k
    configLoadE s = lockMap (num b 0x11 1 % 128) (BitVec.ofNat 32 (num b 0x14 4) &&& 0x07FF03FF#32)
      (BitVec.ofNat 32 (num b 0x18 4) &&& 0x07FF03FF#32)
      { s with
        rook := { s.rook with cfgOk := true }
        hif := { s.hif with ids := [num b 8 2, num b 0xA 2, num b 0xC 2, num b 0xE 2, num b 0x10 1] } } := by
  simp only [configLoadE, running, best, mapped, unlocked]
  rfl

/-! ## Supervision (R404) -/

theorem heartbeatTimeoutE_restarts (running : s.rook.state = 2) (late : 1000000000 ≤ since s.devtime s.rook.beat)
    (first : s.rook.restartTimes = []) :
    let u := restartRook s.rook.nextJob s
    let n := min 0xFF (s.rook.restarts + 1)
    heartbeatTimeoutE s = setEvt 1 (detect 8 (report 0x48 none locRook none n)
      { u with rook := { u.rook with restarts := n, restartTimes := [s.devtime] } }) := by
  simp only [heartbeatTimeoutE, running, Nat.not_lt.mpr late, first, ne_eq, not_true, decide_false, Bool.or_self, Bool.false_eq_true,
    if_false]
  rfl

end

/-- Settles O52: each event and each command is one branch of its own. -/
theorem firmwareUpdateAndSupervision : Obligations.FirmwareUpdateAndSupervision := by
  unfold Obligations.FirmwareUpdateAndSupervision
  refine ⟨?_, ?_, ?_, ?_, ?_, ?_, ?_, ?_, ?_, ?_, ?_, ?_, ?_⟩
  · exact fun s id j w len slot zero low high closed spare => job_answers w (fwBeginE_opens len slot zero low high closed spare)
  · exact fun s id j x w opened own low high inside => job_answers w (fwDataE_takes opened own low high inside)
  · exact fun s id j x w opened own pay valid unloaded => job_answers w (fwEndE_valid opened own pay valid unloaded)
  · exact fun s id j x w opened own pay invalid => job_answers w (fwEndE_invalid opened own pay invalid)
  · exact fun s id j w pay closed => job_answers w (fwActivateE_restarts pay closed)
  · exact fun s x powered opened late => (live_aon _ powered).trans (congrArg _ (fwSessionTimeoutE_ends opened late))
  · exact fun s runs ready none_ => (live_runs _ runs).trans (congrArg _ (rookImageLoadE_fails ready none_))
  · exact fun s k runs ready some_ => (live_runs _ runs).trans (congrArg _ (rookImageLoadE_boots ready some_))
  · intro r first second
    simp only [bootSlot, first, second]
  · exact fun s runs running none_ unmapped => (live_runs _ runs).trans (congrArg _ (configLoadE_none running none_ unmapped))
  · exact fun s k runs running best mapped unlocked =>
      (live_runs _ runs).trans (congrArg _ (configLoadE_best running best mapped unlocked))
  · intro s runs running
    dsimp only [exec, execRookHeartbeat]
    exact (live_runs _ runs).trans (congrArg _ (if_pos running))
  · exact fun s runs running late first => (live_runs _ runs).trans (congrArg _ (heartbeatTimeoutE_restarts running late first))

end Sys2Proof.Machine

/-! SUPPORT. Retained tables, telemetry and the mirror of fault records (R171, R423, R424, R433, R434); the quiesce, the mailboxes,
the side-band and the lock of the memory map (R297, R409, R416 to R421); then the statements about them. -/

namespace Sys2Proof.Machine

section
variable {s : State} {j : Job}

/-! ## Retained tables (R171) -/

/-- A TABLE_* command that names a listed table acts on its entry. -/
theorem onEntry_listed {f : CatEntry → State × Ans} {e : CatEntry} (len : j.payload.length = 2)
    (table : num j.payload 0 2 < Config.numTables) (known : listed s (num j.payload 0 2) = some e) : onEntry j s f = f e := by
  simp only [onEntry, len, Nat.not_le.mpr table, known, ne_eq, not_true, decide_false, Bool.or_self, Bool.false_eq_true, if_false]

/-! ## Telemetry and the fault ring (R423, R424, R433, R434) -/

theorem telemRingE_off (len : j.payload.length = 16) (period : num j.payload 4 2 = 0) :
    telemRingE j s = ({ s with rook := { s.rook with telem := none } }, ansOk) := by
  simp only [telemRingE, len, period, ne_eq, not_true, if_false, if_true]

/-- Without a ring the snapshot is kept for TELEM_READ alone. -/
theorem telemetrySnapshotE_ringless (running : s.rook.state = 2) (calm : s.flt.safe = false)
    (due : 100000000 ≤ since s.devtime s.rook.snapAt) (ringless : s.rook.telem = none) :
    let k := takePress s
    let b := telemBody s { k with seq := k.seq + 1 }
    telemetrySnapshotE s = { s with rook := { s.rook with
      snapAt := s.devtime
      counts := { k with powerAcc := 0, powerN := 0 }
      latest := b ++ leBytes 4 (crc32c b) } } := by
  have period : ¬since s.devtime s.rook.snapAt < 1000000 * 100 := by omega
  simp only [telemetrySnapshotE, running, calm, ringless, period, ne_eq, not_true, decide_false, Bool.or_self, Bool.false_eq_true,
    if_false, Option.map_none, telemPump]

section
variable {r : FaultRing} (ring : s.rook.fring = some r) (running : s.rook.state = 2) (calm : s.flt.safe = false)
  (free : whoOut s (.ring false) = false) (open_ : quiesced s = false)
include ring running calm free open_

theorem faultRecordMirrorE_record {x : Rec} (idle : r.mirror = none) (next : nextMirror s.flt = some x) :
    faultRecordMirrorE s = ringWrite false r.ctx (r.base + 64 * (x.seq % 2 ^ r.log2n)) s fun pa =>
      let u := writePhys (.ring false) none pa x.bytes s
      { u with rook := { u.rook with fring := some { r with mirror := some x.seq } } } := by
  simp only [faultRecordMirrorE, ring, running, calm, free, open_, idle, next, ne_eq, not_true, decide_false, Bool.or_self,
    Bool.false_eq_true, if_false]

theorem faultRecordMirrorE_tail {q : Nat} (put : r.mirror = some q) :
    faultRecordMirrorE s = ringWrite false r.ctx r.tailAddr s fun pa =>
      let u := writePhys (.ring false) none pa (leBytes 8 q) s
      { u with
        rook := { u.rook with fring := some { r with mirror := none } }
        flt := releaseSeq q u.flt } := by
  simp only [faultRecordMirrorE, ring, running, calm, free, open_, put, ne_eq, not_true, decide_false, Bool.or_self,
    Bool.false_eq_true, if_false]

end
end

/-- Settles O53: each command and each event is one branch of its own. -/
theorem retainedTablesAndTelemetry : Obligations.RetainedTablesAndTelemetry := by
  unfold Obligations.RetainedTablesAndTelemetry
  refine ⟨?_, ?_, ?_, ?_, ?_, ?_, ?_, ?_, ?_, ?_, ?_⟩
  · exact fun s id j w len => job_answers w (congrArg _ (if_neg (not_not_intro len)))
  · intro s id j e w len table known hasA noB
    refine job_answers w ((onEntry_listed len table known).trans ?_)
    simp only [hasA, noB, Bool.not_true, Bool.not_false, Bool.false_eq_true, if_false, if_true]
    rfl
  · intro s id j e w len table known spare lawful
    refine job_answers w ((onEntry_listed len table known).trans (if_neg ?_))
    rw [spare, lawful]
    exact Bool.false_ne_true
  · intro s e hasA noB
    refine ⟨rfl, ?_, rfl⟩
    simp only [adopt, hasA, noB, Bool.false_eq_true, if_false, if_true]
  · intro s id j e c w len table known list
    refine job_answers w ((onEntry_listed len table known).trans ?_)
    rw [list]
    rfl
  · exact fun s id j w len period => job_answers w (telemRingE_off len period)
  · intro s id j w len period ctx low high zero bound zero' base enabled
    refine job_answers w ?_
    simp only [telemRingE, len, period, Nat.not_le.mpr ctx, Nat.not_lt.mpr low, Nat.not_lt.mpr high, zero, Nat.not_lt.mpr bound, zero',
      base, enabled, ne_eq, not_true, decide_false, Bool.not_true, Bool.or_self, Bool.false_eq_true, if_false]
    rfl
  · exact fun s id j w pay taken => job_answers w ((if_neg (not_not_intro pay)).trans (if_pos taken))
  · exact fun s runs running calm due ringless =>
      (live_runs _ runs).trans (congrArg _ (telemetrySnapshotE_ringless running calm due ringless))
  · exact fun s r x runs ring running calm free open_ idle next =>
      (live_runs _ runs).trans (congrArg _ (faultRecordMirrorE_record ring running calm free open_ idle next))
  · exact fun s r q runs ring running calm free open_ put =>
      (live_runs _ runs).trans (congrArg _ (faultRecordMirrorE_tail ring running calm free open_ put))

/-! ## The quiesce (R419 to R421) -/

section
variable {s : State}

theorem svcReqPressE_starts (run : s.rook.qstate = 0#2) : svcReqPressE s = startQuiesce (graceOf s) s := if_pos run

theorem svcReqPressE_cancels (pending : s.rook.qstate = 1#2) :
    svcReqPressE s = { s with rook := { s.rook with qstate := 0 } } :=
  (if_neg (by rw [pending]; decide)).trans (if_pos pending)

theorem graceExpiryE_drains (pending : s.rook.qstate = 1#2) (late : s.rook.qGrace ≤ since s.devtime s.rook.qStart)
    (locked : s.mem.lock = true) :
    graceExpiryE s = { s with rook := { s.rook with qstate := 2 }, fe := { s.fe with stopped := true } } :=
  if_pos (by rw [pending, locked, decide_eq_true late]; rfl)

section
variable (draining : s.rook.qstate = 2#2) (calm : s.flt.safe = false)
include draining calm

theorem quiesceDrainDoneE_quiet (cmds : s.fe.cmds = []) (tags : s.fe.tags = []) (held : s.upd.held = [])
    (still : resetting s .block 0 = false) :
    let u := retainSteps (some 2) (evictHost (drainBatches s))
    quiesceDrainDoneE s = { u with rook := { u.rook with qstate := 3 } } := by
  refine (if_neg (not_not_intro draining)).trans ?_
  simp only [calm, cmds, tags, held, still, List.any_nil, ne_eq, not_true, decide_false, Bool.or_self, Bool.false_eq_true, if_false]

theorem quiesceDrainDoneE_stops (busy : (s.fe.cmds.any fun c => c.phase ≠ .ready) = true) :
    quiesceDrainDoneE s = stopCommands (fun _ => true) 0x21 (abandonPrgs (stopLaunches (fun _ => true) 0x21 s)) :=
  (if_neg (not_not_intro draining)).trans ((if_neg (by rw [calm]; exact Bool.false_ne_true)).trans (if_pos busy))

end

/-! ## Mailboxes and the side-band (R409, R416 to R418) -/

section
variable {id : Nat} {j : Job} {a : Nat × Nat × Bytes} (found : (s.rook.jobs.find? fun j => j.id = id) = some j)
  (answered : j.ans = some a)
include found answered

theorem mailboxResponseE_mailbox {m : Nat} (src : j.src = .mailbox m) (linked : up s .hif = true) :
    mailboxResponseE id s =
      postMailbox m a { s with rook := { s.rook with jobs := s.rook.jobs.filter fun k => k.id ≠ id } } := by
  simp only [mailboxResponseE, found, answered, src]
  exact if_pos linked

theorem mailboxResponseE_sideband {tag eid : Nat} (src : j.src = .sideband tag eid) :
    mailboxResponseE id s = emit .i3cIbi (emit (.sideband tag eid (sbMessage s.hif.ids j.opcode 1 a.1 a.2.1 a.2.2))
      { s with rook := { s.rook with jobs := s.rook.jobs.filter fun k => k.id ≠ id } }) := by
  simp only [mailboxResponseE, found, answered, src]

end

theorem sidebandRequestE_queued {tag eid : Nat} {msg : Bytes} (ready : sbReady s = true) (low : 12 ≤ msg.length)
    (high : msg.length ≤ 3852) (type : num msg 0 1 = 0x7E) (vendor : num msg 1 1 * 256 + num msg 2 1 = s.hif.ids.getD 0 0xFFFE)
    (version : num msg 3 1 = 1) (flags : num msg 5 1 = 0) (ret : num msg 6 2 = 0) (aux : num msg 8 4 = 0)
    (room : (s.rook.jobs.filter fromSideband).length < 4) :
    sidebandRequestE tag eid msg s = addJob (.sideband tag eid) (num msg 4 1) (msg.drop 12) s := by
  simp only [sidebandRequestE, ready, Nat.not_lt.mpr low, Nat.not_lt.mpr high, type, vendor, version, flags, ret, aux,
    Nat.not_le.mpr room, Nat.zero_mod, ne_eq, not_true, decide_false, Bool.not_true, Bool.or_self, Bool.false_eq_true, if_false]

theorem control_ready {cmd : Nat} {b : Bytes} (ready : sbReady s = true) :
    control cmd b s = emit (.mctpControl (BitVec.ofNat 8 cmd) b) s := if_pos ready

/-! ## The lock of the memory map (R297) -/

/-- A map that is locked takes no setting and keeps its lock. -/
theorem memNlocE_locked {v : W32} (locked : s.mem.lock = true) : memNlocE v s = countAcc 3 0xB0008 s := by
  have kept : (countAcc 3 0xB0008 s).mem.setLock = s.mem := if_pos locked
  simp only [memNlocE, locked, if_true]
  split
  · rw [kept]
    rfl
  · rfl

theorem memNlocE_lock {v : W32} (unlocked : s.mem.lock = false) (asked : bit v 31 = true) :
    memNlocE v s = { s with mem := ({ s.mem with nloc := v.setWidth 7 } : MemMap).setLock } := by
  simp only [memNlocE, unlocked, asked, Bool.false_eq_true, if_false, if_true]

theorem setLock_sound {m : MemMap} (unlocked : m.lock = false) (sound : mapOk m = true) :
    m.setLock = { m with lock := true, bad := false } :=
  (if_neg (by rw [unlocked]; exact Bool.false_ne_true)).trans (if_pos sound)

theorem setLock_unsound {m : MemMap} (unlocked : m.lock = false) (unsound : mapOk m = false) : m.setLock = { m with bad := true } :=
  (if_neg (by rw [unlocked]; exact Bool.false_ne_true)).trans (if_neg (by rw [unsound]; exact Bool.false_ne_true))

end

/-- Settles O54: each event is one branch of its own. -/
theorem quiesceMailboxAndSideband : Obligations.QuiesceMailboxAndSideband := by
  unfold Obligations.QuiesceMailboxAndSideband
  refine ⟨?_, ?_, ?_, ?_, ?_, ?_, ?_, ?_, ?_, ?_, ?_, ?_⟩
  · exact fun s powered run => (live_aon _ powered).trans (congrArg _ (svcReqPressE_starts run))
  · exact fun s powered pending => (live_aon _ powered).trans (congrArg _ (svcReqPressE_cancels pending))
  · exact fun s powered pending late locked => (live_aon _ powered).trans (congrArg _ (graceExpiryE_drains pending late locked))
  · exact fun s runs draining calm cmds tags held still =>
      (live_runs _ runs).trans (congrArg _ (quiesceDrainDoneE_quiet draining calm cmds tags held still))
  · exact fun s runs draining calm busy => (live_runs _ runs).trans (congrArg _ (quiesceDrainDoneE_stops draining calm busy))
  · exact fun s id m j a powered found answered src linked =>
      (live_aon _ powered).trans (congrArg _ (mailboxResponseE_mailbox found answered src linked))
  · exact fun s id tag eid j a powered found answered src =>
      (live_aon _ powered).trans (congrArg _ (mailboxResponseE_sideband found answered src))
  · exact fun s tag eid msg powered ready low high type vendor version flags ret aux room => (live_aon _ powered).trans
      (congrArg _ (sidebandRequestE_queued ready low high type vendor version flags ret aux room))
  · intro s powered ready
    dsimp only [exec, execSetEndpointId, execGetEndpointId, execGetMctpVersionSupport, execGetMessageTypeSupport,
      execGetVendorDefinedMsgSupport, execUnsupportedMctpControlCommand]
    have moved : sbReady { s with rook := { s.rook with eid := 9 } } = true := ready
    simp only [live_aon _ powered, control_ready ready, control_ready moved, ready, Bool.not_true, Bool.false_eq_true, if_false]
    exact ⟨rfl, rfl, rfl, rfl, rfl, rfl, rfl, rfl, rfl⟩
  · intro s d powered free
    dsimp only [exec, execSetdasa, execSetaasa]
    simp only [live_aon _ powered, free, Option.isNone_none, Bool.and_true, decide_true, if_true]
    trivial
  · intro s v open_ unlocked asked
    have step := (ctlWrite_plain _ open_ (by decide)).trans (congrArg _ (memNlocE_lock unlocked asked))
    exact ⟨fun sound => step.trans (congrArg (fun m => Host.Outcome.next { s with mem := m })
        (setLock_sound (m := { s.mem with nloc := v.setWidth 7 }) unlocked sound)),
      fun unsound => step.trans (congrArg (fun m => Host.Outcome.next { s with mem := m })
        (setLock_unsound (m := { s.mem with nloc := v.setWidth 7 }) unlocked unsound))⟩
  · exact fun s v open_ locked => (ctlWrite_plain _ open_ (by decide)).trans (congrArg _ (memNlocE_locked locked))

end Sys2Proof.Machine

/-! SUPPORT. Power domains, reset pins, gating, the power cap and the temperature (R463 to R480); then the statement about them. -/

namespace Sys2Proof.Machine

section
variable {s : State}

/-! ## Domains and PLLs (R463, R465, R467) -/

theorem powerOn_off {d : Nat} (sound : s.pwr.fail = 0) (off : s.pwr.en.getLsbD d = false) :
    powerOn d s = emit (.pdomEn d true) { s with pwr := { s.pwr with en := setDom s.pwr.en d true, enAt := s.devtime } } := by
  simp only [powerOn, sound, off, ne_eq, not_true, decide_false, Bool.or_self, Bool.false_eq_true, if_false]

theorem pdomAckE_up {d : Nat} (lt : d < 11) (asked : s.pwr.en.getLsbD d = true) (off : s.pwr.on.getLsbD d = false) :
    pdomAckE d true s = powerNext d { s with pwr := { s.pwr with
      ack := setDom s.pwr.ack d true
      iso := setDom s.pwr.iso d false
      on := setDom s.pwr.on d true } } := by
  simp only [pdomAckE, Nat.not_le.mpr lt, asked, off, Bool.not_false, Bool.and_self, if_false, if_true]

theorem pdomAckTimeoutE_alone {d : Nat} (one : d = 0 ∨ d = 2) (asked : s.pwr.en.getLsbD d = true) (off : s.pwr.on.getLsbD d = false)
    (late : 1000000 ≤ since s.devtime s.pwr.enAt) :
    let u := powerOff d s
    pdomAckTimeoutE d s = { u with
      pwr := { u.pwr with fail := setDom u.pwr.fail d true }
      flt := { u.flt with errn := true } } := by
  have lt : ¬11 ≤ d := by omega
  have alone : (decide (d = 0) || decide (d = 2)) = true := by simpa using one
  simp only [pdomAckTimeoutE, lt, asked, off, Nat.not_lt.mpr late, alone, decide_false, Bool.not_true, Bool.or_self,
    Bool.false_eq_true, if_false, if_true]

theorem pllLockE_mgt (on : s.pwr.on.getLsbD 0 = true) (unlocked : s.pwr.lockd.getLsbD 0 = false) (cold : s.rook.state = 0) :
    pllLockE 0 s = { s with
      pwr := { s.pwr with lockd := setDom s.pwr.lockd 0 true }
      rook := { s.rook with state := 1 } } := by
  simp only [pllLockE, on, unlocked, cold]
  rfl

theorem pllLockE_part {p : Nat} (lt : p < 8) (on : s.pwr.on.getLsbD (p + 3) = true) (unlocked : s.pwr.lockd.getLsbD (p + 3) = false) :
    pllLockE (p + 3) s = trainPorts p { s with pwr := { s.pwr with lockd := setDom s.pwr.lockd (p + 3) true } } := by
  have few : ¬11 ≤ p + 3 := by omega
  have notHif : ¬p + 3 = 2 := by omega
  have notMgt : ¬p + 3 = 0 := by omega
  have isPart : 3 ≤ p + 3 := by omega
  simp only [pllLockE, few, notHif, notMgt, isPart, on, unlocked, decide_false, Bool.not_true, Bool.or_self, Bool.false_eq_true,
    if_false, if_true, Nat.add_sub_cancel]

/-! ## Reset pins and straps (R166, R465, R466, R486) -/

theorem strapSampleE_once {retain ftest : Bool} (fresh : s.pwr.sampled = false) :
    strapSampleE retain ftest s = { s with pwr := { s.pwr with
      sampled := true, retain := retain, ftest := ftest && !s.rook.testClosed } } :=
  if_neg (by rw [fresh]; exact Bool.false_ne_true)

section
variable (high : s.pwr.perstLow = false) (powered : s.pwr.porstLow = false)
include high powered

/-- A quiesce under way ends with the block quiesced; otherwise the state of the quiesce stays. -/
theorem perstAssertE_powered :
    let u := domainsOff (perstWork { s with pwr := { s.pwr with perstLow := true } })
    perstAssertE s = if s.rook.qstate = 1 || s.rook.qstate = 2 then { u with rook := { u.rook with qstate := 3 } } else u := by
  simp only [perstAssertE, high, powered, Bool.false_eq_true, if_false]

theorem perstAssertE_quiescing (pending : s.rook.qstate = 1#2 ∨ s.rook.qstate = 2#2) :
    let u := domainsOff (perstWork { s with pwr := { s.pwr with perstLow := true } })
    perstAssertE s = { u with rook := { u.rook with qstate := 3 } } :=
  (perstAssertE_powered high powered).trans (if_pos (by rcases pending with h | h <;> rw [h] <;> rfl))

theorem perstAssertE_settled (settled : s.rook.qstate = 0#2 ∨ s.rook.qstate = 3#2) :
    perstAssertE s = domainsOff (perstWork { s with pwr := { s.pwr with perstLow := true } }) :=
  (perstAssertE_powered high powered).trans (if_neg (by rcases settled with h | h <;> rw [h] <;> decide))

end

theorem perstDeassertE_calm (low : s.pwr.perstLow = true) (powered : s.pwr.porstLow = false) (calm : s.flt.safe = false)
    (mgt : s.pwr.on.getLsbD 0 = true) :
    perstDeassertE s = powerOn 1 { s with
      pwr := { s.pwr with perstLow := false, bootAt := s.devtime }
      hif := { s.hif with cfgFrom := s.devtime }
      fe := { s.fe with stopped := false }
      rook := { s.rook with qstate := 0 } } := by
  simp only [perstDeassertE, low, powered, calm, mgt, Bool.not_true, Bool.false_eq_true, if_false, if_true]

/-! ## Gating (R473, R474) -/

/-- A cluster that is in no reset and meets its conditions stops its clock. -/
theorem clockStopE_idle {k : Nat} (lt : k < 72) (live_ : clusterInReset s k = false)
    (idle : (if k < 64 then clusterIdle s k else gatherIdle s (k - 64)) = true) :
    clockStopE k s = { s with pwr := { s.pwr with
      cluStop := fset false s.pwr.cluStop k true
      idleFrom := fset 0 s.pwr.idleFrom (partOfCluster k) s.devtime } } :=
  (if_neg (by rw [live_, decide_eq_false (Nat.not_le.mpr lt)]; exact Bool.false_ne_true)).trans (if_pos idle)

theorem partOfCluster_gather (p : Nat) : partOfCluster (64 + p) = p := by
  have notCompute : ¬64 + p < 64 := by omega
  simp only [partOfCluster, notCompute, if_false, Nat.add_sub_cancel_left]

theorem pllStopE_off {p : Nat} (lt : p < 8) (may : mayStopPll s p = true) : (pllStopE p s).pwr.pllOff.getLsbD p = true := by
  have set : (BitVec.ofNat 8 (2 ^ p)).getLsbD p = true := by
    rw [BitVec.getLsbD_ofNat, Nat.testBit_two_pow_self, decide_eq_true lt]
    rfl
  simp only [pllStopE, Nat.not_le.mpr lt, may, decide_false, Bool.not_true, Bool.or_self, Bool.false_eq_true, if_false,
    BitVec.getLsbD_or, set, Bool.or_true]

/-! ## Power cap and temperature (R478, R480) -/

section
variable {p : Power} {w cap : Nat}

theorem control_above (above : cap < w) : p.control w cap = { p with step := p.step - 1, below := 0 } := if_pos above

theorem control_counts (below : w ≤ cap) (tenth : 10 * w < 9 * cap) (few : p.below < 99) :
    p.control w cap = { p with below := p.below + 1 } :=
  (if_neg (Nat.not_lt.mpr below)).trans ((if_pos tenth).trans (if_neg (by omega)))

theorem control_raises (below : w ≤ cap) (tenth : 10 * w < 9 * cap) (hundred : p.below = 99) :
    p.control w cap = { p with step := min 9 (p.step + 1), below := 0 } :=
  (if_neg (Nat.not_lt.mpr below)).trans ((if_pos tenth).trans (if_pos (by omega)))

end

/-- What a tick leaves of the step and the count of ticks is the controller's. -/
theorem powerControlTickE_control (w : Nat) :
    (powerControlTickE w s).pwr.step = (s.pwr.control w (capInForce s)).step
      ∧ (powerControlTickE w s).pwr.below = (s.pwr.control w (capInForce s)).below := ⟨rfl, rfl⟩

section
variable {rs : List (Option (BitVec 12))}

/-- The sensors once their readings are taken. -/
def withReadings (s : State) (rs : List (Option (BitVec 12))) : Power :=
  (List.range 8).foldl (fun p k => takeReading s.devtime p k (rs.getD k none)) s.pwr

theorem tempSampleE_blind (blind : liveReadings s (withReadings s rs) = []) :
    tempSampleE rs s = { s with pwr := { withReadings s rs with noSens := true, temp := 0 } } := by
  unfold withReadings at blind ⊢
  simp only [tempSampleE, blind]

theorem tempSampleE_hot {x : Int} (one : liveReadings s (withReadings s rs) = [x]) (hot : (8 * fld (rget s 0x120004) 7 0 : Nat) ≤ x)
    (calm : x < (8 * fld (rget s 0x120004) 15 8 : Nat)) :
    tempSampleE rs s = { s with pwr := { withReadings s rs with noSens := false, temp := BitVec.ofInt 12 x, hot := true } } := by
  have isHot : 8 * ((fld (rget s 0x120004) 7 0 : Nat) : Int) ≤ x := by exact_mod_cast hot
  have stays : ¬8 * ((fld (rget s 0x120004) 15 8 : Nat) : Int) ≤ x := by
    have : x < 8 * ((fld (rget s 0x120004) 15 8 : Nat) : Int) := by exact_mod_cast calm
    omega
  unfold withReadings at one ⊢
  simp only [tempSampleE, one, List.foldl_nil, isHot, stays, if_true, if_false]

end
end

/-- Settles O55: each event is one branch of its own. -/
theorem powerAndPins : Obligations.PowerAndPins := by
  unfold Obligations.PowerAndPins
  refine ⟨?_, ?_, ?_, ?_, ?_, ?_, ?_, ?_, ?_, ?_, ?_, ?_, ?_, ?_, ?_, ?_, ?_, ?_, ?_, ?_⟩
  · exact fun s low => congrArg _ (if_pos low)
  · exact fun s d sound off => powerOn_off sound off
  · exact fun s d powered lt asked off => (live_aon _ powered).trans (congrArg _ (pdomAckE_up lt asked off))
  · exact fun s d powered one asked off late => (live_aon _ powered).trans (congrArg _ (pdomAckTimeoutE_alone one asked off late))
  · exact fun s powered on unlocked cold => (live_aon _ powered).trans (congrArg _ (pllLockE_mgt on unlocked cold))
  · exact fun s p powered lt on unlocked => (live_aon _ powered).trans (congrArg _ (pllLockE_part lt on unlocked))
  · exact fun s powered => live_aon (fun s => { s with pwr := { s.pwr with refLoss := true } }) powered
  · exact fun s retain ftest powered fresh => (live_aon _ powered).trans (congrArg _ (strapSampleE_once fresh))
  · exact fun s high powered pending => congrArg _ (perstAssertE_quiescing high powered pending)
  · exact fun s high powered settled => congrArg _ (perstAssertE_settled high powered settled)
  · exact fun s low powered calm mgt => congrArg _ (perstDeassertE_calm low powered calm mgt)
  · exact fun s k runs lt live_ idle => (live_runs _ runs).trans
      (congrArg _ (clockStopE_idle (by omega) live_ ((if_pos lt).trans idle)))
  · intro s p runs lt live_ idle
    have mine : Runs (.part (partOfCluster (64 + p))) s := by rw [partOfCluster_gather]; exact runs
    have gather : (if 64 + p < 64 then clusterIdle s (64 + p) else gatherIdle s (64 + p - 64)) = true := by
      rw [if_neg (by omega), Nat.add_sub_cancel_left]
      exact idle
    refine (live_runs _ mine).trans (congrArg _ ((clockStopE_idle (by omega) live_ gather).trans ?_))
    rw [partOfCluster_gather]
  · exact fun s p runs lt may => ⟨_, live_runs _ runs, pllStopE_off lt may⟩
  · exact fun s p runs => live_runs _ runs
  · intro s w runs above
    obtain ⟨step, below⟩ := powerControlTickE_control (s := s) w
    rw [control_above above] at step below
    exact ⟨_, live_runs _ runs, step, below, rfl, rfl, rfl⟩
  · intro s w runs low tenth few
    obtain ⟨step, below⟩ := powerControlTickE_control (s := s) w
    rw [control_counts low tenth few] at step below
    exact ⟨_, live_runs _ runs, step, below⟩
  · intro s w runs low tenth hundred
    obtain ⟨step, below⟩ := powerControlTickE_control (s := s) w
    rw [control_raises low tenth hundred] at step below
    exact ⟨_, live_runs _ runs, step, below⟩
  · exact fun s rs powered blind => (live_aon _ powered).trans (congrArg _ (tempSampleE_blind blind))
  · exact fun s rs x powered one hot calm => (live_aon _ powered).trans (congrArg _ (tempSampleE_hot one hot calm))

end Sys2Proof.Machine

/-! SUPPORT. Reads and writes of CTLAP (R495 to R502); then the statement about them. -/

namespace Sys2Proof.Machine

section
variable {s : State} {off : Nat}

/-! ## Reads (R495 to R498) -/

theorem enabled_whole (v : W32) : enabled v 0xF#4 = v := by
  have all : BitVec.ofNat 32 ((List.range 4).foldl (fun m i => m + if (0xF#4).getLsbD i then 0xFF * 256 ^ i else 0) 0)
      = BitVec.allOnes 32 := by decide
  unfold enabled
  rw [all, BitVec.and_allOnes]

/-- A whole-word read answers the register and has the read's effect. -/
theorem ctlReadE_word (reach : ctlReach s = true) (low : off < 0x1800000) :
    ctlReadE off [0xF#4] s = readEffect off (emit (.readData off (ctlRead s off)) s) := by
  have some_ : ¬(0xF#4 = 0) := by decide
  simp only [ctlReadE, reach, readWords, readWord, some_, Nat.not_le.mpr low, enabled_whole, if_true, if_false]

theorem ctlReadE_undecoded {bes : List (BitVec 4)} (unreached : ctlReach s = false) (linked : s.hif.linkUp = true)
    (noFlr : s.hif.flr = false) : ctlReadE off bes s = emit .unsupported s := by
  simp only [ctlReadE, unreached, linked, noFlr, Bool.not_false, Bool.and_self, Bool.false_eq_true, if_false, if_true]

theorem ctlRead_devtime : ctlRead s 0x120010 = s.devtime.setWidth 32 := rfl

/-! ## Writes (R495, R499, R502) -/

/-- A whole word on an open register of no partition has the register's effect. -/
theorem writeWord_plain {v : W32} (open_ : CtlOpen off s) (low : off < 0x1800000) (decoded : (ctlReg s off).isNone = false)
    (register : isMboxPayload off = false) (plain : ctlPart off = none) : writeWord off v 0xF#4 s = writeReg off v s := by
  simp only [writeWord, Nat.not_le.mpr low, decoded, register, Bool.false_eq_true, if_false, ctlWord_open _ open_, woken_none _ plain]

/-- A reserved offset takes nothing. -/
theorem writeWord_reserved {v : W32} {be : BitVec 4} (low : off < 0x1800000) (reserved : (ctlReg s off).isNone = true) :
    writeWord off v be s = s := by
  simp only [writeWord, Nat.not_le.mpr low, reserved, if_false, if_true]

/-- A poisoned write of a BAR that decodes it is logged for AER. -/
theorem barWrite_logged {α : Type} {d : α} {f : α → State → State} (reach : ctlReach s = true) (free : portHeld s = false) :
    barWrite ⟨d, true⟩ f s = logAer .poisonedTlp s := by
  simp only [barWrite, reach, free, Bool.not_true, Bool.not_false, Bool.and_self, Bool.false_eq_true, if_false, if_true]

theorem writeReg_temp (v : W32) : writeReg 0x120004 v s = rset 0x120004 (v &&& 0xFFFFFF#32) s := rfl
theorem writeReg_mbxVec (v : W32) : writeReg 0xF000C v s = rset 0xF000C (v &&& 0x1FFF#32) s := rfl
theorem writeReg_qctl (v : W32) : writeReg 0xF0010 v s = rset 0xF0010 (v &&& 0xFFFF#32) s := rfl

theorem writeReg_migLocked (v : W32) (locked : migLock s = true) : writeReg 0x82040 v s = countAcc 3 0x82040 s :=
  show lockedWrite (migLock s) 0x82040 0xFFFFF800#32 v s = _ from if_pos locked

end

/-- Settles O57: each access is one branch of its own. -/
theorem registerAccesses : Obligations.RegisterAccesses := by
  unfold Obligations.RegisterAccesses
  refine ⟨?_, ?_, ?_, ?_, ?_, ?_, ?_, ?_, ?_, ?_⟩
  · exact fun s runs reach => (live_runs _ runs).trans (congrArg _ (ctlReadE_word reach (by decide)))
  · exact fun s runs reach => (live_runs _ runs).trans (congrArg _ (ctlReadE_word reach (by decide)))
  · exact fun s runs reach => ⟨_, (live_runs _ runs).trans (congrArg _ (ctlReadE_word reach (by decide))), rfl, rfl⟩
  · exact fun s off bes runs unreached linked noFlr =>
      (live_runs _ runs).trans (congrArg _ (ctlReadE_undecoded unreached linked noFlr))
  · exact fun s v open_ => (live_runs _ open_.1).trans
      (congrArg _ ((writeWord_plain open_ (by decide) rfl rfl rfl).trans (writeReg_temp v)))
  · exact fun s v open_ locked => (live_runs _ open_.1).trans
      (congrArg _ ((writeWord_plain open_ (by decide) rfl rfl rfl).trans (writeReg_migLocked v locked)))
  · intro s v w first second
    have one : writeWord 0xF000C v 0xF#4 s = rset 0xF000C (v &&& 0x1FFF#32) s :=
      (writeWord_plain first (by decide) rfl rfl rfl).trans (writeReg_mbxVec v)
    have open_ : CtlOpen 0xF0010 (rset 0xF000C (v &&& 0x1FFF#32) s) := second
    have two := (writeWord_plain open_ (by decide) rfl rfl rfl).trans (writeReg_qctl w)
    refine (live_runs _ first.1).trans (congrArg _ ?_)
    exact (congrArg (writeWord 0xF0010 w 0xF#4) one).trans two
  · exact fun s v be runs =>
      (live_runs _ runs).trans (congrArg _ (writeWord_reserved (s := s) (off := 0x20) (v := v) (be := be) (by decide) rfl))
  · intro s c runs reach free
    have logged := fun {α : Type} (d : α) f => (live_runs _ runs).trans
      (congrArg _ (barWrite_logged (d := d) (f := f) reach free))
    rintro (⟨sq, d, rfl⟩ | ⟨sq, o, d, rfl⟩ | ⟨o, d, rfl⟩ | ⟨o, q, d, rfl⟩ | ⟨o, ws, rfl⟩)
    · exact logged d _
    · exact logged d _
    · exact logged d _
    · exact logged d _
    · exact logged ws _
  · exact fun s => ctlRead_devtime

end Sys2Proof.Machine
